-- ==== Sys2Proof/Word.lean ====
section
/-! DEFINITION. The word types of the TZ-1600 manual (00_scope, "Numbers, bits and bytes"): a byte is 8 bits, a half
16, a word 32 and a double 64. A submission slot has 512 bits (R55). -/

namespace Sys2Proof

/-- A byte, 8 bits. -/
abbrev Byte := BitVec 8
/-- A half, 16 bits. -/
abbrev Half := BitVec 16
/-- A word, 32 bits; F32 values travel as these bits. -/
abbrev Word := BitVec 32
/-- A double, 64 bits: the width of the register window's registers. -/
abbrev Double := BitVec 64

end Sys2Proof
end

