-- ==== Sys2Proof/Syntax.lean ====
section
/-! DEFINITION. The commands of the block: one constructor of `Instr` for each row of spec/opcode_table.json, with the
operands the owning chapter gives the row. -/

namespace Sys2Proof

/-- The routes of R44 and R46, coded as QUEUE_CREATE codes them: 0 on-die, 1 PCIe, 2 UDP. -/
inductive Route where
  | onDie | pcie | udp
  deriving DecidableEq, Repr, Inhabited

/-- The paths by which loads and stores reach the module's registers: the BARs and the configuration space of the PCIe
function, at an offset (R325, R326), and a control core, at a physical address (R319). -/
inductive Path where
  | bar0 | bar2 | bar4 | config
  | core (k : Nat)
  deriving DecidableEq, Repr, Inhabited

/-- The units of R67 and of the table "Fault buckets" (R381), by class code. -/
structure UnitId where
  /-- class: 0 link, 1 Ethernet, 2 CXL, 3 tile, 4 pseudo-channel, 5 module channel, 6 lane, 7 sett engine, 8 burrow
  engine, 9 update core, 10 I2C bus, 11 tile die -/
  cls : Nat
  idx : Nat
  deriving DecidableEq, Repr, Inhabited

/-- Why a transaction on an I2C bus fails (R345): a NACK, a PEC failure, a clock held low for more than 25 ms. -/
inductive BusFault where
  | nack | pec | clockLow
  deriving DecidableEq, Repr, Inhabited

/-- What a frame carries around its payload when it reaches an Ethernet port (R335, R336): its 802.1Q VLAN ID, if it is
tagged, the destination MAC address, and the IP addresses, IPv4 as ::FFFF:a.b.c.d. -/
structure Frame where
  vlan : Option Nat
  mac : BitVec 48
  dst : BitVec 128
  src : BitVec 128
  deriving DecidableEq, Repr, Inhabited

/-- The columns of the table "Fault buckets" (R381). -/
inductive FaultWeight where
  | one | sixteen | atOnce
  deriving DecidableEq, Repr, Inhabited

/-- A command as Owl carries it out (R47): the queue that carried it (256 is OQ), the header fields other than OPCODE,
LENGTH and CRC, and the parameter bytes in clear, the padding of R64 included. -/
structure Icp where
  queue : Nat
  version : Byte
  inst : Byte
  flags : Byte
  tag : Word
  params : List Byte
  deriving DecidableEq, Repr, Inhabited

/-- A 64-byte descriptor as one number, bit 0 the least (R97). -/
abbrev Desc := BitVec 512

/-- The kinds of request messages (R193). -/
inductive ReqKind where
  | lookup | serve | grad
  deriving DecidableEq, Repr, Inhabited

/-- An index record or weighted record of a request message (R193): row, bag, and the F32 weight (1.0 unweighted). -/
structure ReqRecord where
  row : Nat
  bag : Nat
  weight : Word
  deriving DecidableEq, Repr, Inhabited

/-- A request message of R193, with what a ROW_GRAD carries beside it (R201). `req` and `part` are the MODEL's own numbers of
the descriptor at its device and of the message in it, by which its answers name it (log 52). -/
structure ReqMsg where
  /-- the instance served at this device -/
  inst : Nat
  kind : ReqKind
  /-- the epoch tag of R13 -/
  epoch : Nat
  table : Nat
  digest : Word
  /-- the requesting member and its descriptor: tile and DMA channel -/
  member : Nat
  tile : Nat
  chan : Nat
  req : Nat
  part : Nat
  /-- the last message of its descriptor to this engine -/
  last : Bool
  /-- the member that the message is sent to -/
  owner : Nat
  /-- its records carry weights: at most 14 of 16 bytes, else at most 28 of 8 -/
  weighted : Bool
  records : List ReqRecord
  /-- the bags of which this engine serves every index (R199) -/
  wholeBags : List Nat
  /-- FMT of the descriptor: 0 F32, 2 BF16 (R196) -/
  fmt : Nat
  /-- ROW_GRAD: the bag gradients decoded to F32, by bag, each with the first message to the engine that needs it -/
  grads : List (Nat × List Word)
  deriving DecidableEq, Repr, Inhabited

/-- What an engine answers for one bag: whole, so already rounded to FMT, or an F32 partial (R199). -/
structure BagSum where
  bag : Nat
  whole : Bool
  vals : List Word
  deriving DecidableEq, Repr, Inhabited

/-- What an engine of another member answers, or acknowledges. -/
inductive AnswerKind where
  /-- the answer to a request message (R199, R200, R201) -/
  | sums
  /-- its row-gradient batch is applied (R19) -/
  | applied
  /-- a hot row's new value is in the replica's buffer (R19, R30) -/
  | hotRow (row : Nat)
  /-- a replicated table's new slot is written (R203) -/
  | slot (row : Nat)
  /-- its acknowledgements to this device carry the mark of a stalled log, or carry it no longer (R307) -/
  | stall (on : Bool)
  deriving DecidableEq, Repr, Inhabited

/-- The answer of an engine to one request message, or an acknowledgement. -/
structure LookupResult where
  inst : Nat
  kind : AnswerKind
  table : Nat
  /-- the numbers of the message answered -/
  req : Nat
  part : Nat
  member : Nat
  engine : Nat
  /-- 0 accepted, else the descriptor error cause of the refusal -/
  cause : Nat
  sums : List BagSum
  deriving DecidableEq, Repr, Inhabited

/-- A Pack packet (R293): sender and job of the packet header, the Pack header's fields and the payload after it. -/
structure PackPkt where
  src : Nat
  job : Nat
  jepoch : Nat
  group : Nat
  gdigest : Word
  kind : Nat
  cseq : Nat
  offset : Nat
  data : List Byte
  deriving DecidableEq, Repr, Inhabited

/-- What a partner reports in training (R260 step 2). -/
structure TrainingWords where
  major2 : Bool
  major3 : Bool
  stepping : Byte
  devnum : Half
  plane : Byte
  retired : Half
  precode : Bool
  sessionHere : Half
  sessionThere : Half
  deriving DecidableEq, Repr, Inhabited

/-- What the device on a CXL port offers when the module enumerates it (R333): bytes of its first volatile range, its read
bandwidth in MB/s in the read test, and its read latency in ec; offered 0 where no device answers. -/
structure CxlDevice where
  offered : Nat
  bandwidth : Nat
  latency : Nat
  deriving DecidableEq, Repr, Inhabited

/-- The commands. `i` is an instance, `q` a queue (256 is OQ), `t` a tile, `e` an engine (0 to 15 sett, 16 to 23
burrow), `k` a link, `g` a group, `c` a command packet and `d` a descriptor. A signal or acknowledgement of the priority
network comes from a tile, or from the hub, 1,600. -/
inductive Instr where
  -- power, boot, resets (14, 15)
  | powerInputInRange
  | pwrOkRise
  | pwrOkFall
  | coldHoldRelease
  | coldBoot (devices : List CxlDevice)
  | iboonReadyTimeout
  | thermalStop (sensor : Nat) (reading : Half)
  | thermalRecover
  | perst
  | pcieLinkReturn
  | moduleResetWarm (c : Icp)
  | moduleResetCold (c : Icp)
  -- rings and the register window (02, 11)
  | slotWrite (r : Route) (q pos : Nat) (slot : BitVec 512)
  | doorbell (r : Route) (q : Nat) (v : Double)
  | doorbellFlush (r : Route) (q : Nat) (v : Double)
  | completionHeadWrite (r : Route) (q : Nat) (v : Double)
  | registerLowerHalfRead (p : Path) (addr size : Nat)
  | registerUpperHalfRead (p : Path) (addr size : Nat)
  | registerLowerHalfWrite (p : Path) (addr size : Nat) (v : Word)
  | registerUpperHalfWrite (p : Path) (addr size : Nat) (v : Word)
  | registerWrite (p : Path) (addr size : Nat) (v : Double)
  | feedStreamEnable (stream : Nat) (v : Double)
  | feedStreamDisable (stream : Nat) (v : Double)
  | feedTailWrite (stream : Nat) (tail : Word)
  | feedDatagram (port : Nat) (f : Frame) (srcPort udpPort checksum : Half) (payload : List Byte)
  | feedInterruptTimer (stream : Nat)
  | udpSegment (port : Nat) (f : Frame) (srcPort checksum : Half) (hdr : BitVec 128) (seg : List Byte)
  | udpPartialTimeout (q : Nat) (msg : Word)
  | udpNoticeResend (q : Nat)
  | owlItemStart (q : Nat)
  | noticeDeliver (nq : Nat)
  -- ICP commands (02 and the owning chapters)
  | nop (c : Icp)
  | openSession (c : Icp)
  | closeSession (c : Icp)
  | identify (c : Icp)
  | readReg (c : Icp)
  | writeReg (c : Icp)
  | keyAgree (c : Icp)
  | attest (c : Icp)
  | queueCreate (c : Icp)
  | queueDelete (c : Icp)
  | queueFlush (c : Icp)
  | noticeAck (c : Icp)
  | instanceCreate (c : Icp)
  | instanceModify (c : Icp)
  | instanceReset (c : Icp)
  | instanceResetDrainEnd (i : Nat)
  | instanceDestroy (c : Icp)
  | quotaSet (c : Icp)
  | guaranteeSet (c : Icp)
  | alloc (c : Icp)
  | free (c : Icp)
  | write (c : Icp)
  | read (c : Icp)
  | migrate (c : Icp)
  | pin (c : Icp)
  | unpin (c : Icp)
  | fence (c : Icp)
  | tableCreate (c : Icp)
  | tableModify (c : Icp)
  | tableDestroy (c : Icp)
  | tableLoad (c : Icp)
  | hotSet (c : Icp)
  | jobStart (c : Icp)
  | jobEnd (c : Icp)
  | launch (c : Icp)
  | launchStart (i : Nat) (tag : Word) (q : Nat)
  | stepClose (c : Icp)
  | stepCloseEffect (i : Nat)
  | publish (c : Icp)
  | releaseSnapshot (c : Icp)
  | hostSignalTile (c : Icp)
  | hostSignalHub (c : Icp)
  | hostSignalWait (c : Icp)
  | hostSignalRead (c : Icp)
  | bruinSetJob (c : Icp)
  | bruinSetRegister (c : Icp)
  | bruinSetChange (c : Icp)
  | bruinSetRemove (c : Icp)
  | bruinSetStatus (c : Icp)
  | groupSet (c : Icp)
  | groupClear (c : Icp)
  | unitDisable (c : Icp)
  | unitEnable (c : Icp)
  | unitRetire (c : Icp)
  | unitShutdownComplete (u : UnitId)
  | unitEnablingComplete (u : UnitId) (dev : CxlDevice)
  | countersRead (c : Icp)
  | debugOpen (c : Icp)
  | debugClose (c : Icp)
  | configRead (c : Icp)
  | configWrite (c : Icp)
  | configCommit (c : Icp)
  -- descriptors (03, 04, 05, 06, 08, 10)
  | copy (t : Nat) (d : Desc)
  | copy2d (t : Nat) (d : Desc)
  | fill (t : Nat) (d : Desc)
  | gather (t : Nat) (d : Desc)
  | scatter (t : Nat) (d : Desc)
  | stashPut (t : Nat) (d : Desc)
  | stashGet (t : Nat) (d : Desc)
  | matmul (t : Nat) (d : Desc)
  | matmulBt (t : Nat) (d : Desc)
  | matmulSplit (t : Nat) (d : Desc)
  | vadd (t : Nat) (d : Desc)
  | vsub (t : Nat) (d : Desc)
  | vmul (t : Nat) (d : Desc)
  | vfma (t : Nat) (d : Desc)
  | vmax (t : Nat) (d : Desc)
  | vmin (t : Nat) (d : Desc)
  | vneg (t : Nat) (d : Desc)
  | vabs (t : Nat) (d : Desc)
  | vrelu (t : Nat) (d : Desc)
  | vclamp (t : Nat) (d : Desc)
  | vselect (t : Nat) (d : Desc)
  | vrecip (t : Nat) (d : Desc)
  | vrsqrt (t : Nat) (d : Desc)
  | vexp (t : Nat) (d : Desc)
  | vlog (t : Nat) (d : Desc)
  | vtanh (t : Nat) (d : Desc)
  | vsigmoid (t : Nat) (d : Desc)
  | vgelu (t : Nat) (d : Desc)
  | vsumRow (t : Nat) (d : Desc)
  | vmaxRow (t : Nat) (d : Desc)
  | vamaxRow (t : Nat) (d : Desc)
  | vrand (t : Nat) (d : Desc)
  | vrandBits (t : Nat) (d : Desc)
  | cvt (t : Nat) (d : Desc)
  | scalePass (t : Nat) (d : Desc)
  | cvtGrad (t : Nat) (d : Desc)
  | lookup (t : Nat) (d : Desc)
  | rowGrad (t : Nat) (d : Desc)
  | collAllReduce (t : Nat) (d : Desc)
  | collReduceScatter (t : Nat) (d : Desc)
  | collAllGather (t : Nat) (d : Desc)
  | collBroadcast (t : Nat) (d : Desc)
  | collBarrier (t : Nat) (d : Desc)
  | collAllToAll (t : Nat) (d : Desc)
  | collAllToAllV (t : Nat) (d : Desc)
  | collSplitOpen (t : Nat) (d : Desc)
  | nopDescriptor (t : Nat) (d : Desc)
  | repeatSpan (t : Nat) (d : Desc)
  | wait (t : Nat) (d : Desc)
  | signal (t : Nat) (d : Desc)
  | branchSem (t : Nat) (d : Desc)
  | jump (t : Nat) (d : Desc)
  | fenceDescriptor (t : Nat) (d : Desc)
  | stepCloseDescriptor (t : Nat) (d : Desc)
  | hostSignalDescriptor (t : Nat) (d : Desc)
  | endProgram (t : Nat) (d : Desc)
  -- tile events (03, 08)
  | descriptorComplete (t u : Nat)
  | programEnd (t : Nat)
  | semaphoreSignalReceived (t sender : Nat)
  | signalAckReceived (t source : Nat)
  | waitRelease (t : Nat)
  | tileClockGate (t : Nat)
  | engineClockGate (unit : Nat)
  | randomGeneratorAdvance
  -- the step (01, 04, 06)
  | voteComplete (i : Nat)
  | rowApply (i e table : Nat)
  | logEntriesFree (i e table : Nat)
  | flipBarrierEnter (i : Nat)
  | flip (i : Nat)
  | denseSwap (i obj : Nat)
  -- Bruin (07)
  | bruinProgramStart (i : Nat)
  | bruinStageComplete (i : Nat)
  | bruinShardCommit (i : Nat)
  | updateCoreUpset (core : Nat)
  -- engines (06)
  | engineRequestMessage (e : Nat) (arrived : List (Nat × ReqMsg))
  | lookupResultReceived (r : LookupResult)
  | hotRowValueReceived (i table row : Nat) (slot : List Byte)
  | replicaSlotWrite (i table row : Nat) (slot : List Byte)
  -- Pack (10)
  | leaf (p : PackPkt)
  | result (p : PackPkt)
  | counts (p : PackPkt)
  | token (p : PackPkt)
  | credit (p : PackPkt)
  | refuse (p : PackPkt)
  | abort (p : PackPkt)
  | split (p : PackPkt)
  | handoff (p : PackPkt)
  | collComplete (g : Nat)
  | holdTokenTimer (i : Nat)
  | groupTimeout (g m : Nat)
  | timeProbeTimer (i : Nat)
  -- links (09)
  | fabricPacketReceived (k : Nat) (hdr : BitVec 192) (body : List Byte)
  | dataFlit (k : Nat) (flit : List Byte)
  | idleFlit (k : Nat) (flit : List Byte)
  | retry (k : Nat) (flit : List Byte)
  | retryRepeatTimer (k : Nat)
  | flitGroupReceived (k offset valid : Nat) (marker : Bool)
  | alignmentSearchTimeout (k : Nat)
  | tapRequest (k : Nat) (w : BitVec 80)
  | tapAnswer (k : Nat) (w : BitVec 80)
  | tapStepEvaluate (k lane corrected : Nat) (uncorrectable : Bool)
  | laneRetire (k : Nat) (w : BitVec 80)
  | retireAnswer (k : Nat) (w : BitVec 80)
  | latencyProbe (k : Nat) (w : BitVec 80) (holding : Nat)
  | probeEcho (k : Nat) (w : BitVec 80) (roundTrip : Nat)
  | trainingWordsReceived (k : Nat) (tw : TrainingWords)
  | linkTrainingDone (k : Nat)
  | fastRetrain (k : Nat)
  | laneLossOfSignal (k lane : Nat)
  | linkShutdownComplete (k : Nat)
  -- faults and memory housekeeping (05, 14)
  | faultEvent (u : UnitId) (w : FaultWeight) (granule : Option Nat)
  | bucketLeak (u : UnitId)
  | poisonedRead (i addr : Nat)
  | extentAgeTick
  | quotaEvictionTick (i tier : Nat)
  | migrationPanelCopyDone (i obj ext : Nat)
  | migrationCommit (i obj ext : Nat)
  | migrationRelease (i obj ext : Nat)
  | calibrationWindowStart (pc : Nat)
  | calibrationWindowEnd (pc : Nat) (moved belowFloor : Bool)
  | channelRetune (ch : Nat) (moved belowFloor : Bool)
  | temperatureHot (channel : Bool) (idx : Nat)
  | temperatureCool (channel : Bool) (idx : Nat)
  -- sideband (11)
  | i2cPollTimer (bus : Nat) (faults : List BusFault) (readings : List Half)
  | i2cBusRecovery (bus : Nat) (sdaHighAfter : Nat)
  | identity (pec : Bool)
  | serial (pec : Bool)
  | status (pec : Bool)
  | temps (pec : Bool) (dies : List Half)
  | power (pec : Bool)
  | rails (pec : Bool)
  | alertResponseAddressRead
  | bypass
  | idcode
  | samplePreload
  | extest
  | clamp
  | jtagDebugInstruction (code : Nat)
  | msixPendingSend (entry : Nat)
  | flushingReadComplete (q : Nat) (tag : Word)
  | linkDown (k : Nat)
  | linkSignalDetect (k : Nat)
  | pcieLinkDown
  | coldHoldAssert
  | inputLeavesRange
  | dataMoveComplete (q : Nat) (tag : Word) (data : List Byte)
  | pcieRequestFailure (q : Nat) (tag : Word)
  -- Ethernet (11)
  | arpRequest (port : Nat) (vlan : Option Nat) (target sender : Word) (senderMac : BitVec 48)
  | neighborSolicitation (port : Nat) (vlan : Option Nat) (target sender : BitVec 128) (senderMac : BitVec 48)
  | echoRequest (port : Nat) (f : Frame) (body : List Byte)
  | unmatchedFrame (port : Nat) (malformed : Bool)
  deriving DecidableEq, Repr

end Sys2Proof
end

