-- ==== Sys2Proof/Config.lean ====
section
/-! DEFINITION. What a unit holds by manufacture (the manual's cold-reset value "unit") and the FREE VALUES: constants
without a body. No proof can see their values, so every claim holds whatever they are. -/

namespace Sys2Proof.Config

/-- FREE VALUE (log 1): the byte that memory reads as where nothing the manual promises stands there; the argument is
the model's counter `freeCount` or the place that is read. -/
opaque freeByte : Nat → BitVec 8

/-- FREE VALUE (log 1): a natural number the manual leaves open, for the counter's value. -/
opaque freeNat : Nat → Nat

/-- FREE VALUE (log 2): how far, in ulp of F32, a transcendental result lies from the nearest one; used only where it
stays within the 2 ulp of R108. The arguments are the operation code and the operand's bits. -/
opaque ulpOff : Nat → Word → Int

/-- FREE VALUE (log 3): the device serial of R76, from fuses. -/
opaque serial : Double
/-- FREE VALUE (log 3): the clan number of R358, from fuses. -/
opaque clan : Half
/-- FREE VALUE (log 3): the MAC address of Ethernet port e, from fuses (R336). -/
opaque mac : Nat → BitVec 48
/-- FREE VALUE (log 3): the 256-bit root secret of R356. -/
opaque rootSecret : BitVec 256
/-- FREE VALUE (log 3): the 256-bit clan secret of R358. -/
opaque clanSecret : BitVec 256
/-- FREE VALUE (log 3): the private device identity key of R364. -/
opaque identityKey : BitVec 384
/-- FREE VALUE (log 4): byte a of copy A of the configuration store as the unit ships (R411), outside the parts that
R411 and R388 fix. -/
opaque shippedByte : Nat → BitVec 8
/-- FREE VALUE (log 4): the LENGTH of the shipped copy A (R388, R411). -/
opaque shippedLength : Nat
/-- FREE VALUE (log 4): the version that a firmware image reports; the arguments are 0 Iboon, 1 sett, 2 burrow, and
the image's bytes. -/
opaque firmwareVersion : Nat → List (BitVec 8) → BitVec 64
/-- FREE VALUE (log 4): the bytes of the firmware held in the package ROM (R390); 0 Iboon, 1 sett, 2 burrow. -/
opaque romFirmware : Nat → List (BitVec 8)
/-- FREE VALUE (log 4): the versions of the firmware release that ships (R411); 0 Iboon, 1 sett, 2 burrow. -/
opaque shippedVersion : Nat → Double
/-- FREE VALUE (log 4): the measurements of the firmware release that ships (R411); 0 Iboon, 1 sett, 2 burrow. -/
opaque shippedMeasure : Nat → List Byte
/-- FREE VALUE (log 63): byte a of a copy (0 A, 1 B) of the configuration store, as logic that ran outside its supply
range leaves it (R399); the first argument is the model's counter `freeCount`. -/
opaque storeByte : Nat → Nat → Nat → BitVec 8
/-- FREE VALUE (log 63): number f of entry e of a part of the configuration store, as logic that ran outside its supply
range leaves it (R399): part 0 copy A, 1 copy B, 2 retire log, 3 boot log; the first argument is `freeCount`. -/
opaque storeField : Nat → Nat → Nat → Nat → Nat
/-- FREE VALUE (log 53): the engine of another member that holds an extent of its share of a table: device number, table,
extent and time; modulo 24 SE0 to SE15, then BE0 to BE7. -/
opaque remoteEngine : Nat → Nat → Nat → Nat → Nat
/-- FREE VALUE (log 89): the bytes in which a packet of the engines or the front end carries a content that the spec gives no
layout for: 0 message header, 1 bag gradients, 2 answer, 3 hot-row value, 4 replicated slot, 5 acknowledgement, 6 mark of a
stalled log. -/
opaque fabricBytes : Nat → List (BitVec 8) → List (BitVec 8)
/-- FREE VALUE (log 89): OPC of such a packet. -/
opaque fabricOpc : Nat → Nat

/-- FREE VALUE (log 58): whether the Pack engine serves another instance's queue in an ec (R312, R317), where another has
work: the tc and the instance that waits. -/
opaque packShare : Nat → Nat → Bool

end Sys2Proof.Config
end

