-- ==== Sys2Proof/Machine/State.lean ====
section
/-! DEFINITION. The state of the TZ-1600 as plain data, why a step can stop, and the state after reset.
Every field's docstring gives the piece of state, its width, the rule of spec/ that names it and its reset value.
An entry that a sparse table (`Tab`) does not list holds the initial value of its kind, given at the end of this file. -/

namespace Sys2Proof.Machine

/-- A sparse table: entries by number. -/
abbrev Tab (α : Type) := List (Nat × α)

/-- A byte memory: cells by address, addresses strictly rising. -/
abbrev Mem := List Host.Cell

/-- Why the machine stops. -/
inductive Fault where
  /-- Raised by every command, but those of the 54 V input and the fall of PWR_OK, that meets a module whose logic ran
  with the input outside its range: R399 leaves everything it then does undefined, and gives no effect. Safe. -/
  | supplyUndefined
  deriving DecidableEq, Repr

/-- Why a command has no meaning. -/
inductive Refusal where
  /-- The command has no meaning yet; raised by arms of `exec` only. Safe. -/
  | notModelled (mnemonic : String)
  /-- An Ezfoaro debug instruction of JTAG while a debug session is open: R347 says that it acts and not how. Safe. -/
  | debugInstruction
  deriving DecidableEq, Repr

/-- How far the module has come after power (R393, R406). -/
inductive Phase where
  /-- rails 0 to 6 are off -/
  | off
  /-- in cold reset, the cold boot still to run -/
  | coldReset
  /-- booted: Owl runs Iboon -/
  | running
  deriving DecidableEq, Repr, Inhabited

/-- Pins and supply (R395, R399, R402, R406). -/
structure Power where
  /-- 54 V input in range; 1 bit; 15_module R404, R406; reset 1 -/
  inputOk : Bool
  /-- logic ran outside the input range, and PWR_OK has not fallen since; 1 bit; 14 R399; reset 0 -/
  broken : Bool
  /-- PWR_OK pin; 1 bit; 15_module R406; reset 1 -/
  pwrOk : Bool
  /-- COLD_HOLD# low; 1 bit; 15_module R402; reset 0 -/
  coldHold : Bool
  /-- thermal stop in progress, THERM# asserted; 1 bit; 14 R395; reset 0 -/
  therm : Bool
  /-- rails 0 to 7 on (bit 7 VAUX); 8 bits; 15_module R405, R406; reset FFh -/
  rails : Byte
  /-- progress of the boot; 14 R393; reset running -/
  phase : Phase
  /-- CAUSE that the coming boot will report; 4 bits; 14 R400; reset 0 -/
  cause : BitVec 4
  /-- the coming boot takes the other copy; 1 bit; 14 R390; reset 0 -/
  otherCopy : Bool
  deriving DecidableEq, Repr, Inhabited

/-- One copy of the configuration store (R387 to R389). -/
structure CopyImg where
  /-- the copy is valid; 1 bit; 14 R388; reset copy A 1, copy B 0 (R411) -/
  valid : Bool
  /-- SEQ of the header; 64 bits; 14 R388; reset copy A 1 (R411) -/
  seq : Double
  /-- LENGTH of the header; 32 bits; 14 R388; reset Config.shippedLength for copy A -/
  length : Nat
  /-- the bytes below the listed ones are the shipped image, else erased FFh; 14 R411 -/
  shipped : Bool
  /-- bytes written since; 14 R389; reset none -/
  cells : Mem
  deriving DecidableEq, Repr, Inhabited

/-- An entry of the retire log (R391). -/
structure RetireEntry where
  unit : UnitId
  /-- CAUSE: 0 threshold or at once, 1 UNIT_RETIRE -/
  cause : Nat
  deriving DecidableEq, Repr, Inhabited

/-- An open edit of the configuration store (R389). -/
structure Edit where
  /-- the copy being edited is B -/
  copyB : Bool
  /-- LENGTH of the copy that was copied in -/
  copied : Nat
  /-- end of the last byte written -/
  lastEnd : Nat
  deriving DecidableEq, Repr, Inhabited

/-- The configuration store (R387), kept through every reset. -/
structure Store where
  /-- copy A, 8 MiB; 14 R387, R411; reset valid, SEQ 1, the shipped image -/
  copyA : CopyImg
  /-- copy B, 8 MiB; 14 R387, R411; reset erased -/
  copyB : CopyImg
  /-- retire log, 131,072 entries of 8 bytes; 14 R391; reset empty -/
  retireLog : List RetireEntry
  /-- boot log: slot and BOOTS of each entry still held; 14 R392; reset BOOTS 1 in slot 0 -/
  bootLog : List (Nat × Nat)
  /-- next erased slot of the boot log; 14 R392; reset 1 -/
  bootNext : Nat
  /-- open edit; 14 R389; reset none -/
  edit : Option Edit
  deriving DecidableEq, Repr, Inhabited

/-- What the boot chose and reports (R390, R393, R400). -/
structure Boot where
  /-- RESET_STATUS.CAUSE; 4 bits; 14 R400; reset 0 (R411) -/
  cause : BitVec 4
  /-- RESET_STATUS.COPY; 1 bit; 14 R400; reset 0 (R411) -/
  copyB : Bool
  /-- RESET_STATUS.DEFAULTS; 1 bit; 14 R390, R400; reset 0 -/
  defaults : Bool
  /-- RESET_STATUS.FALLBACK; 1 bit; 14 R390, R400; reset 0 -/
  fallback : Bool
  /-- RESET_STATUS.BOOTS; 32 bits; 14 R392, R400; reset 1 (R411) -/
  boots : Word
  /-- CONFIG_SEQ; 64 bits; 02 R76, 14 R390; reset 1 (R411) -/
  configSeq : Double
  /-- FW_IBOON, FW_SETT, FW_BURROW; 64 bits each; 02 R76; reset the shipped release's (log 4) -/
  fw : List Double
  /-- M_IBOON, M_SETT, M_BURROW; 384 bits each; 12 R364, 14 R393 step 4; reset of the shipped images (log 4) -/
  measure : List (List Byte)
  /-- DEVNUM; 16 bits; 14 R388, R411; reset 0 -/
  devnum : Half
  /-- SMBUS_ADDR; 7 bits; 14 R388, R411; reset 52h -/
  smbusAddr : BitVec 7
  /-- JUMBO of E0 and E1; 2 bits; 14 R388, R411; reset 0 -/
  jumbo : BitVec 2
  /-- VLAN_0 and VLAN_1; 16 bits each; 14 R388, R411; reset 0 -/
  vlan : List Half
  /-- IPV4_0 and IPV4_1; 32 bits each; 14 R388, R411; reset 0 -/
  ipv4 : List Word
  /-- IPV6_0 and IPV6_1; 128 bits each; 14 R388, R411; reset 0 -/
  ipv6 : List (BitVec 128)
  /-- C0 runs a core image from 0h; 1 bit; 14 R393 step 8; reset 0 (CORE_LEN 0, R411) -/
  coreStarted : Bool
  deriving DecidableEq, Repr, Inhabited

/-- A packet the module writes: a reply or a notice (R47, R61, R71). -/
structure Packet where
  opcode : Byte
  version : Byte
  inst : Byte
  flags : Byte
  tag : Word
  params : List Byte
  deriving DecidableEq, Repr, Inhabited

/-- A committed item (R56): its first slot and its slot count. -/
structure Item where
  start : Nat
  count : Nat
  /-- the item came by UDP: its bytes, and its MSG -/
  udp : Option (Word × List Byte)
  deriving DecidableEq, Repr, Inhabited

/-- The source a UDP queue is bound to (R339). -/
structure UdpPeer where
  port : Nat
  addr : BitVec 128
  uport : Half
  deriving DecidableEq, Repr, Inhabited

/-- A partial packet of a UDP queue (R340). -/
structure Partial where
  msg : Word
  segs : Nat
  size : Nat
  wepoch : Half
  held : List (Nat × List Byte)
  deriving DecidableEq, Repr, Inhabited

/-- An entry of the reply cache of a UDP queue (R341). -/
structure Cached where
  msg : Word
  tag : Word
  reply : Packet
  done : Option Packet
  deriving DecidableEq, Repr, Inhabited

/-- A reply to a command that never started, waiting for completion slots (R60, R80, R324). -/
structure Owed where
  op : Byte
  cmd : Icp
  msg : Word
  session : Option Nat
  status : Nat
  detail : Nat
  deriving DecidableEq, Repr, Inhabited

/-- A submission queue with its completion ring (R45). -/
structure Queue where
  /-- log2 of the depth, 0 when the queue does not exist; 12 bits; 02 R45, R76; reset 0, OQ 8 -/
  depthLog2 : Nat
  /-- route; 2 bits; 02 R46, R76; reset on-die (00b), OQ PCIe -/
  route : Route
  /-- WEPOCH; 16 bits; 02 R60, R66, R76; reset 0 -/
  wepoch : Half
  /-- submission-ring address; 64 bits; 02 R64, 11 R323; reset 0 -/
  ring : Nat
  /-- completion-ring address; 64 bits; 02 R64, 11 R323; reset 0 (OQ: DESIGN CHOICE log 5) -/
  cring : Nat
  /-- interrupt vector or MSI-X entry; 16 bits; 11 R322, R326; reset 0, OQ 256 -/
  vector : Nat
  /-- slots of the submission ring as they stand, 64 bytes each; 02 R55; reset none -/
  slots : Tab (BitVec 512)
  /-- positions landed and not in a committed item; 02 R56, R60; reset none -/
  landed : List Nat
  /-- committed items not started; 02 R56, R59; reset none -/
  items : List Item
  /-- slot after the last item that ended, QUEUE_STATUS.COMMITTED; 12 bits; 02 R76; reset 0 -/
  committed : Nat
  /-- TAIL last told by a doorbell; 12 bits; 02 R58; reset 0 -/
  tail : Nat
  /-- QUEUE_COUNTS.STALE_SLOTS; 32 bits; 02 R76; reset 0 -/
  stale : Word
  /-- QUEUE_COUNTS.TORN; 16 bits; 02 R76; reset 0 -/
  torn : Half
  /-- QUEUE_COUNTS.FLUSHES; 16 bits; 02 R76; reset 0 -/
  flushes : Half
  /-- fenced by an instance reset; 1 bit; 02 R80; reset 0 -/
  fenced : Bool
  /-- completion write position; 12 bits; 11 R324; reset 0 -/
  cWrite : Nat
  /-- completion head; 12 bits; 11 R324; reset 0 -/
  cHead : Nat
  /-- lap of the completion ring; 16 bits; 11 R324; reset 1 -/
  lap : Half
  /-- completion slots reserved by Owl; 02 R59; reset 0 -/
  reserved : Nat
  /-- session that holds the queue; 02 R51, R76; reset none -/
  session : Option Nat
  /-- bound UDP source; 11 R339; reset none -/
  peer : Option UdpPeer
  /-- last bound UDP source; 11 R339; reset none -/
  lastPeer : Option UdpPeer
  /-- partial packets, at most 4; 11 R340; reset none -/
  partials : List Partial
  /-- the 64 latest replies; 11 R341; reset none -/
  cache : List Cached
  /-- greatest TAG of a SEC command under the present key; 12 R363; reset none -/
  secTag : Option Word
  /-- replies FLUSHED and CANCELLED that wait for completion slots, oldest first; 02 R60, R80, 11 R324; reset none -/
  owed : List Owed
  deriving DecidableEq, Repr, Inhabited

/-- An open session (R51 to R54). -/
structure Session where
  /-- instance, 16 for the operator -/
  inst : Nat
  /-- negotiated version byte (R52) -/
  version : Byte
  /-- session identifier (R52), 32 bits -/
  ident : Word
  secRequired : Bool
  /-- session key (R362), none before KEY_AGREE -/
  key : Option (BitVec 256)
  queues : List Nat
  deriving DecidableEq, Repr, Inhabited

/-- A command Owl has started (R59, R61). -/
structure Started where
  /-- number of the start: the MODEL's own name, for a TAG may be used again after PENDING (R62) -/
  num : Nat
  op : Byte
  cmd : Icp
  /-- MSG of the UDP packet that carried it -/
  msg : Word
  /-- completion slots reserved for the reply, and for the COMMAND_DONE -/
  replySlots : Nat
  doneSlots : Nat
  /-- it has replied PENDING; its COMMAND_DONE is still to come -/
  pending : Bool
  /-- its own row has been carried out -/
  taken : Bool
  /-- session that carried it, for keys (R49) -/
  session : Option Nat
  deriving DecidableEq, Repr, Inhabited

/-- A command that has not replied, or whose COMMAND_DONE is to come: its queue and TAG, and the number of its start. -/
structure Ref where
  queue : Nat
  tag : Word
  num : Nat
  deriving DecidableEq, Repr, Inhabited

/-- An entry of a notice queue (R71 to R73). -/
structure NEntry where
  code : Half
  severity : Byte
  subject : Double
  detail : Double
  time : Double
  count : Half
  /-- sequence number and DROPPED of the packet it was sent as -/
  sent : Option (Word × Half)
  deriving DecidableEq, Repr, Inhabited

/-- A notice queue (R72). -/
structure NoticeQ where
  /-- entries, oldest first, at most 1,024; 02 R72; reset none -/
  entries : List NEntry
  /-- NOTICE_STATUS.NEXT_SEQ; 32 bits; 02 R71, R76; reset 0 -/
  nextSeq : Word
  /-- NOTICE_STATUS.DROPPED; 16 bits; 02 R76; reset 0 -/
  dropped : Half
  /-- notices dropped since the previous notice packet; 16 bits; 02 R71, R74; reset 0 -/
  droppedSince : Half
  /-- session that receives the notices; 02 R72; reset none -/
  receiver : Option Nat
  /-- entries already sent under the present receiver, by sequence number; 02 R72; reset none -/
  deliveredNow : List Word
  deriving DecidableEq, Repr, Inhabited

/-- An entry of the MSI-X table (R326, R327). -/
structure MsixEntry where
  addr : Double
  data : Word
  masked : Bool
  /-- pending bit of the PBA -/
  pba : Bool
  deriving DecidableEq, Repr, Inhabited

/-- The PCIe endpoint (R325 to R329). -/
structure Pcie where
  /-- Max Payload Size, 128 × 2^k bytes; 11 R325; reset 0 (PRESUMED, log 6) -/
  maxPayload : Nat
  /-- Max Read Request, 128 × 2^k bytes; 11 R325; reset 2 (PRESUMED, log 6) -/
  maxRead : Nat
  /-- the function is in D3hot, else in D0; 1 bit; 11 R325; reset 0 (PRESUMED, log 6) -/
  d3hot : Bool
  /-- link at L0; 1 bit; 11 R329; reset 1 -/
  linkUp : Bool
  /-- MSI-X table and PBA, 257 entries; 11 R326, R327; reset every entry masked, address and data 0 (log 6), PBA 0 -/
  msix : Tab MsixEntry
  /-- MSI-X Enable; 1 bit; 11 R327; reset 0 (PRESUMED, log 6) -/
  msixEnable : Bool
  /-- MSI-X Function Mask; 1 bit; 11 R327; reset 0 (PRESUMED, log 6) -/
  functionMask : Bool
  /-- AER records of failed requests: queue and tag; 11 R328; reset none -/
  aer : List Ref
  deriving DecidableEq, Repr, Inhabited

/-- The privilege modes of a control core (R318). -/
inductive Priv where
  | machine | supervisor | user
  deriving DecidableEq, Repr, Inhabited

/-- Whether a control core executes: halted, waiting for an interrupt, or running (R388, R393). -/
inductive CoreRun where
  | halted | waiting | running
  deriving DecidableEq, Repr, Inhabited

/-- A control core (R318, R322): its IRQ register, and the architectural state of RV64GC. The caches are coherent (R320)
and hold nothing of their own. -/
structure Core where
  /-- ENABLE; 16 bits; 11 R322; reset 0 -/
  enable : Half
  /-- PENDING; 16 bits; 11 R322; reset 0 -/
  pending : Half
  /-- progress of the core; 14 R393; reset halted (CORE_LEN 0, R411) -/
  run : CoreRun
  /-- privilege mode; 11 R318, 14 R393; reset machine -/
  mode : Priv
  /-- program counter; 64 bits; 11 R318, 14 R393; reset 0 -/
  pc : Double
  /-- x1 to x31, 64 bits; 11 R318; reset 0 (log 101) -/
  xregs : Tab Double
  /-- f0 to f31, 64 bits; 11 R318; reset 0 (log 101) -/
  fregs : Tab Double
  /-- control and status registers by number, satp of Sv48 among them; 64 bits; 11 R318; reset 0 (log 101) -/
  csrs : Tab Double
  /-- reservation of a load-reserved; 11 R318; reset none (log 101) -/
  resv : Option Double
  deriving DecidableEq, Repr, Inhabited

/-- A feed stream block (R342). -/
structure Feed where
  /-- EN; 1 bit; reset 0 -/
  en : Bool
  /-- VECTOR; 8 bits; reset 0 -/
  vector : Byte
  /-- UDP_PORT; 16 bits; reset 0 -/
  udpPort : Half
  /-- LOG2_SLOTS; 5 bits; reset 0 -/
  log2Slots : BitVec 5
  /-- COALESCE; 16 bits; reset 1 -/
  coalesce : Half
  /-- BASE; 64 bits; reset 0 -/
  base : Double
  /-- HEAD; 32 bits; reset 0 -/
  head : Word
  /-- TAIL; 32 bits; reset 0 -/
  tail : Word
  /-- RECEIVED; 32 bits; reset 0 -/
  received : Word
  /-- DROPPED; 32 bits; reset 0 -/
  dropped : Word
  /-- datagrams landed and not yet signalled; reset 0 -/
  unsignalled : Nat
  deriving DecidableEq, Repr, Inhabited

/-- Counters of an Ethernet port (R379). -/
structure EthPort where
  /-- frames received; 64 bits; 13 R379; reset 0 -/
  rx : Double
  /-- frames sent; 64 bits; 13 R379; reset 0 -/
  tx : Double
  /-- frames dropped on no match; 64 bits; 13 R379; reset 0 -/
  noMatch : Double
  /-- frames dropped as malformed, fragmented or oversize; 64 bits; 13 R379; reset 0 -/
  malformed : Double
  /-- ICP datagrams received; 64 bits; 13 R379; reset 0 -/
  icp : Double
  deriving DecidableEq, Repr, Inhabited

/-- UNIT_STATE codes (R69). -/
inductive UnitSt where
  | enabled | shuttingDown | disabled | shutdownEnablePending | enabling | retired
  deriving DecidableEq, Repr, Inhabited

/-- A unit of classes 0 to 2 (R68 to R70). -/
structure UnitCtl where
  /-- UNIT_STATE.STATE; 3 bits; 02 R69; reset enabled -/
  st : UnitSt
  /-- enables that replied PENDING; 02 R69, R70; reset none -/
  enables : List Ref
  /-- a disable waits for the enabling to end; 02 R70; reset 0 -/
  disableWaits : Bool
  deriving DecidableEq, Repr, Inhabited

/-- LINK_STATUS.STATE (R287). -/
inductive LinkSt where
  | down | train53 | train106 | up | fastRetrain | planeMismatch | disabled | retired
  deriving DecidableEq, Repr, Inhabited

/-- A packet of the fabric (R274). -/
structure FabPkt where
  ctr : Double
  dst : Half
  src : Half
  dunit : Byte
  sunit : Byte
  job : Half
  jepoch : Byte
  opc : Byte
  sseq : Half
  enc : Bool
  payload : List Byte
  /-- what the packet belongs to: 0 none, else 1 + group x 2^32 + CSEQ; the MODEL's own note, not sent -/
  mark : Nat
  deriving DecidableEq, Repr, Inhabited

/-- A data flit in the replay buffer (R263, R271). -/
structure Flit where
  seq : Half
  cls : BitVec 2
  first : Bool
  last : Bool
  payload : List Byte
  /-- times replayed without acknowledgement (R272) -/
  replays : Nat
  deriving DecidableEq, Repr, Inhabited

/-- A packet of a class whose flits are being sent (R265): the bytes of it that have gone. -/
structure Going where
  inst : Nat
  pkt : FabPkt
  off : Nat
  deriving DecidableEq, Repr, Inhabited

/-- The transmit taps and tuning of one lane (R281, R282). -/
structure Lane where
  /-- our five transmit taps, in 1/64 of full swing, signed; 09 R281; reset 0 (log 7) -/
  taps : List Int
  /-- our request outstanding to the partner: tap and direction; 09 R281; reset none -/
  asked : Option (Nat × Bool)
  /-- the step being judged: tap and direction; 09 R282; reset none -/
  judged : Option (Nat × Bool)
  /-- corrected-symbol count of the 2^16 codewords before the step; 09 R282; reset 0 -/
  before : Nat
  /-- the partner's tap values as answered; 09 R281; reset 0 (log 7) -/
  partner : List Int
  deriving DecidableEq, Repr, Inhabited

/-- A ZFL link (R255 to R287). -/
structure Link where
  /-- LINK_STATUS.STATE; 3 bits; 09 R287; reset down -/
  st : LinkSt
  /-- LINK_STATUS.MAJOR; 4 bits; 09 R287; reset 0 -/
  major : BitVec 4
  /-- LINK_STATUS.PSTEP; 8 bits; 09 R287; reset 0 -/
  pstep : Byte
  /-- LINK_STATUS.PPLANE; 8 bits; 09 R287; reset 0 -/
  pplane : Byte
  /-- lanes retired on this side, LINK_STATUS.RETIRED; 16 bits; 09 R287; reset from the store (0, R411) -/
  retiredLanes : Half
  /-- lanes the partner reports retired; 16 bits; 09 R283; reset 0 -/
  partnerRetired : Half
  /-- session value; 16 bits; 09 R264; reset 0 (DESIGN CHOICE log 7) -/
  session : Half
  /-- LINK_LATENCY.XLAT; 16 bits; 09 R286; reset 0 -/
  xlat : Half
  /-- probe results of the present training, in 0.125 ns; 09 R286; reset none -/
  probes : List Nat
  /-- precoding asked for by the partner; 1 bit; 09 R260; reset 0 -/
  precode : Bool
  /-- partner's device number; 16 bits; 09 R256; reset 0 -/
  pdev : Half
  /-- receiver locked, and its block offset; 09 R266; reset none -/
  lock : Option Nat
  /-- groups since the lock; 09 R267; reset 0 -/
  lockAge : Nat
  /-- consecutive groups without a valid marker while locked; 09 R267; reset 0 -/
  noMarker : Nat
  /-- search: offset, good groups so far, valid HCRCs so far; 09 R266; reset none -/
  search : List (Nat × Nat × Nat)
  /-- excluded offsets and searches left; 09 R267; reset none -/
  excluded : List (Nat × Nat)
  /-- next SEQ this side sends; 16 bits; 09 R269; reset 0 -/
  txSeq : Half
  /-- next SEQ expected, ACK_SEQ; 16 bits; 09 R269; reset 0 -/
  rxSeq : Half
  /-- replay buffer, at most 1,024 flits; 09 R271; reset none -/
  replay : List Flit
  /-- packets accepted for the link and not yet in flits: class, instance, packet; 09 R273, R277; reset none -/
  txq : List (Nat × Nat × FabPkt)
  /-- packets in flits and not acknowledged whole: SEQ of the last flit, class, instance, packet; 09 R276; reset none -/
  sent : List (Half × Nat × Nat × FabPkt)
  /-- per class the packet in progress; 09 R265; reset none -/
  going : List (Option Going)
  /-- flits sent since training; FIDX and the blocks' numbers go by it; 09 R258, R263; reset 0 -/
  flitNo : Nat
  /-- an accepted flit is still to be acknowledged by the next flit but a marker; 1 bit; 09 R269; reset 0 -/
  ackDue : Bool
  /-- credits per class that the next flits return; 09 R263, R265, R273; reset 0 -/
  back : List Nat
  /-- class that takes the next turn; 09 R273; reset 0 (DESIGN CHOICE log 27) -/
  classTurn : Nat
  /-- per class the instance being served and its packets left in the round; 09 R273; reset none (log 27) -/
  turns : List (Nat × Nat)
  /-- packets received whole and not yet taken by R276: class and bytes; 09 R276; reset none -/
  arrived : List (Nat × List Byte)
  /-- credits held per class; 09 R273; reset 256 each -/
  credits : List Nat
  /-- flits of buffer taken per class; 09 R265, R273; reset 0 -/
  owed : List Nat
  /-- RETRY outstanding; 09 R270; reset 0 -/
  retrying : Bool
  /-- bytes of the packet being received, per class; 09 R263, R265; reset none -/
  assembly : List (List Byte)
  /-- tc at which fast retrains failed; 09 R272; reset none -/
  failedRetrains : List Nat
  /-- LINK_ERRORS.UNCORR; 16 bits; 09 R287; reset 0 -/
  uncorr : Half
  /-- LINK_ERRORS.REPLAYS; 16 bits; 09 R287; reset 0 -/
  replays : Half
  /-- LINK_ERRORS.RELOCKS; 16 bits; 09 R287; reset 0 -/
  relocks : Half
  /-- LINK_ERRORS.FALSE_LOCKS; 8 bits; 09 R287; reset 0 -/
  falseLocks : Byte
  /-- LINK_ERRORS.RETRAINS; 8 bits; 09 R287; reset 0 -/
  retrains : Byte
  /-- flits dropped under R264; 64 bits; 13 R379; reset 0 -/
  dropped : Double
  /-- lanes; 09 R281; reset none tuned -/
  lanes : Tab Lane
  /-- lanes for which a retire word was sent and not answered; 09 R283; reset none -/
  retiring : List Nat
  /-- lasers on; 1 bit; 09 R284, R285, 15 R403; reset 0 -/
  lasers : Bool
  deriving DecidableEq, Repr, Inhabited

/-- A CXL port with its expander (R332 to R334). -/
structure Cxl where
  /-- capacity in extents joined to the pool; 11 R333; reset 0 (no device) -/
  extents : Nat
  /-- measured read bandwidth, MB/s; 64 bits; 13 R379; reset 0 -/
  bandwidth : Double
  /-- measured device read latency, ec; 64 bits; 13 R379; reset 0 -/
  latency : Double
  deriving DecidableEq, Repr, Inhabited

/-- Where an extent lies: a tier, and its PC group, burrow engine or expander port (R155). -/
structure Place where
  tier : Nat
  unit : Nat
  deriving DecidableEq, Repr, Inhabited

/-- A stage of an extent's move (R168). -/
inductive MStage where
  /-- copying: the panel under copy -/
  | copy (panel : Nat)
  /-- every panel copied, the commit under way -/
  | commit
  /-- committed, the old location still read -/
  | release
  deriving DecidableEq, Repr, Inhabited

/-- An extent of an object (R151). -/
structure Extent where
  place : Place
  /-- age; 8 bits; 05 R162; reset 0 -/
  age : Byte
  pinned : Bool
  /-- the other location of a move: the new one until the commit, the old one until the release (R168) -/
  other : Option Place
  stage : Option MStage
  /-- it is to be laid out again over the live PCs of its group, or the live channels of its engine (R165, R384) -/
  relay : Bool
  deriving DecidableEq, Repr, Inhabited

/-- A MIGRATE in progress over one object (R167). -/
structure Migration where
  target : Nat
  /-- extents still to move, in ascending address -/
  todo : List Nat
  /-- the MIGRATE command; none for an eviction or a re-layout -/
  cmd : Option Ref
  deriving DecidableEq, Repr, Inhabited

/-- An object of model space (R152). -/
structure Obj where
  addr : Nat
  length : Nat
  /-- placement class; a table's share is class 0 with `table` set -/
  cls : Nat
  table : Option Nat
  /-- stash objects: staging bytes (R177) -/
  stage : Nat
  /-- number drawn at ALLOC, for the free bytes of memory never written -/
  serial : Nat
  extents : List Extent
  migration : Option Migration
  /-- dense: shards whose back copy is complete for the step (R24) -/
  shardsDone : List Nat
  /-- dense: bytes of each shard that the hand-off has landed here (R308) -/
  landed : Tab Nat
  /-- dense: steps whose update is still to be swapped in, oldest first (R24, R25) -/
  due : List Nat
  /-- dense, serve-visible: the serving copy is to be filled at the swap (R35) -/
  serveDue : Bool
  /-- carried: panels of the back copy written in this step (R141) -/
  panels : List Nat
  deriving DecidableEq, Repr, Inhabited

/-- An object that FREE has unmapped while transfers translated before it still use it (R154): each with the bytes that
it reads. -/
structure Freed where
  obj : Obj
  users : List (Ref × List Byte)
  deriving DecidableEq, Repr, Inhabited

/-- A held row gradient of an engine's accumulator (R188, R201). -/
structure AccEntry where
  row : Nat
  vals : List Word
  deriving DecidableEq, Repr, Inhabited

/-- An entry of the copy-on-write log (R33, R210). -/
structure LogEntry where
  snap : Nat
  row : Nat
  slot : List Byte
  deriving DecidableEq, Repr, Inhabited

/-- What one engine keeps for one table (R188). -/
structure EngTab where
  /-- gradient accumulator, by local index; 06 R188, R201; reset empty -/
  acc : List AccEntry
  /-- batches held: requesting member, numbers of its message, and the engine that took it; 06 R201, R203; reset none -/
  batches : List (Nat × Nat × Nat × Nat)
  /-- slots sent to the other members and not acknowledged: member and row; 06 R203; reset none -/
  unacked : List (Nat × Nat)
  /-- rows applied in the present apply phase, rows then examined and rows changed; 06 R203, R206; reset none -/
  applied : List Nat
  examined : Nat
  changed : Nat
  /-- copy-on-write log; 06 R188, 01 R33; reset empty -/
  log : List LogEntry
  /-- popularity sketch, 4 x 4,096 counters of 16 bits; 06 R205; reset 0 -/
  sketch : Tab Half
  /-- cursor of the reclass sweep; 06 R206; reset 0 -/
  cursor : Nat
  /-- retired snapshots whose last read has completed and whose entries are freed; 01 R32, R36; reset none -/
  closed : List Nat
  /-- overwrites stalled on a full log; 01 R37; reset 0 -/
  stalled : Bool
  deriving DecidableEq, Repr, Inhabited

/-- This device's share of an embedding table (R184, R186). -/
structure Table where
  num : Nat
  /-- the parameter block with MODIFY 0; 512 bits; 06 R184 -/
  block : BitVec 512
  /-- digest; 32 bits; 06 R190 -/
  digest : Word
  /-- the block whose LR, EPS and WD govern the present apply phase; 06 R189 -/
  inForce : BitVec 512
  /-- what each engine keeps; 06 R188 -/
  engs : Tab EngTab
  deriving DecidableEq, Repr, Inhabited

/-- A replica of a hot row (R30, R209). -/
structure Replica where
  table : Nat
  row : Nat
  slot : List Byte
  /-- epoch entered by the flip that installed the value -/
  installed : Nat
  deriving DecidableEq, Repr, Inhabited

/-- The hot set of one table group (R207 to R209). -/
structure HotSet where
  group : Nat
  /-- active buffer; 06 R208 -/
  active : List Replica
  /-- inactive buffer; 06 R208, R209 -/
  inactive : List Replica
  /-- the rows served hot now -/
  rows : List (Nat × Nat)
  /-- a new set: its rows, its epoch F and its command -/
  next : Option (List (Nat × Nat) × Nat × Ref)
  deriving DecidableEq, Repr, Inhabited

/-- A registered Bruin object (R216, R219, R230). -/
structure BObj where
  addr : Nat
  /-- the kind 1 block with the present hyperparameters; 1,024 bits; 07 R216 -/
  block : BitVec 1024
  updates : BitVec 48
  lastEpoch : BitVec 48
  clamped : Word
  infs : Word
  nans : Word
  owned : Half
  /-- p1 and p2 of rule 01b (R228) -/
  p1 : Word
  p2 : Word
  deriving DecidableEq, Repr, Inhabited

/-- A queued shard program (R222). -/
structure BProg where
  obj : Nat
  shard : Nat
  epoch : Nat
  /-- loss-scale exponent of the step (R142) -/
  lexp : Nat
  started : Bool
  /-- stages ended, of the count of its rule -/
  stage : Nat
  /-- the norm that the program holds between stages (R225, R227) -/
  f : Word
  /-- hyperparameters the program keeps (R219) -/
  block : BitVec 1024
  deriving DecidableEq, Repr, Inhabited

/-- A LAUNCH (R95, R233). -/
structure Launch where
  cmd : Ref
  tiles : List Nat
  entry : Nat
  epoch : Nat
  /-- the tiles have started fetching -/
  started : Bool
  /-- tiles whose program has ended or stopped -/
  overs : List Nat
  /-- the first fault: error word, its tc and the tile (R96) -/
  fault : Option (Word × Nat × Nat)
  /-- final status other than the faults' one: RETIRED or ABORTED -/
  final : Option (Half × Word)
  deriving DecidableEq, Repr, Inhabited

/-- A recorded STASH_PUT (R181). -/
structure StashEntry where
  addr : Nat
  bytes : Nat
  layer : Nat
  staged : Bool
  deriving DecidableEq, Repr, Inhabited

/-- A pending host wait (R249, R251). -/
structure HostWait where
  sem : Nat
  count : Nat
  cmd : Ref
  deriving DecidableEq, Repr, Inhabited

/-- PHASE of EPOCH_STATUS (R43): 000b to 100b. -/
inductive JPhase where
  | noJob | compute | vote | apply | flip
  deriving DecidableEq, Repr, Inhabited

/-- A barrier in progress: the vote, the flip barrier or a COLL of KIND 4 (R305, R306). -/
structure Barrier where
  /-- it is the vote of the step -/
  vote : Bool
  /-- round this device is in -/
  round : Nat
  /-- OR of the flag words so far -/
  acc : Double
  /-- every round is over -/
  done : Bool
  /-- first packet of each member in it, with the tc (R314) -/
  entries : List (Nat × Nat)
  /-- tc at which this device entered it -/
  began : Nat
  deriving DecidableEq, Repr, Inhabited

/-- A close of the step (R16, R65). -/
inductive Close where
  | none | pending | closed
  deriving DecidableEq, Repr, Inhabited

/-- The job of an instance (R10 to R12, R143 to R147). -/
structure Job where
  /-- PHASE; 3 bits; 01 R43; reset 000b -/
  phase : JPhase
  /-- SKIPPED; 1 bit; 01 R43; reset 0 -/
  skipped : Bool
  /-- EPOCH; 48 bits; 01 R10, R43; reset 0 -/
  epoch : Nat
  /-- job identifier; 64 bits; 02 R64; reset 0 -/
  ident : Double
  /-- epoch group; 10 bits; 02 R64; reset 0 -/
  group : Nat
  /-- encryption required; 1 bit; 09 R279; reset 0 -/
  encReq : Bool
  /-- job key held; 256 bits; 12 R358; reset none -/
  key : Option (BitVec 256)
  /-- loss-scale exponent L, 0 to 24; 04 R143; reset 0 -/
  lexp : Nat
  /-- clean-step count; 04 R143; reset 0 -/
  clean : Nat
  /-- UF_LIMIT; 16 bits; 04 R147; reset 0 -/
  ufLimit : Half
  /-- vote flag of the step; 1 bit; 01 R18; reset 0 -/
  voteFlag : Bool
  /-- result of the vote of the step; 1 bit; 01 R21; reset 0 -/
  voteSet : Bool
  /-- close of the current step; 01 R16; reset none -/
  close : Close
  /-- STEP_CLOSE commands that replied PENDING; 02 R65; reset none -/
  closers : List Ref
  /-- a LAUNCH since JOB_START; 03 R125; reset 0 -/
  launched : Bool
  /-- JOB_END that replied PENDING; 01 R12; reset none -/
  ending : Option Ref
  /-- pending publish: P and its command; 01 R39; reset none -/
  publish : Option (Nat × Ref)
  /-- vote or flip barrier in progress; 10 R306; reset none -/
  barrier : Option Barrier
  /-- tokens received and not yet used: member, round, flag word, tc; 10 R305; reset none -/
  tokens : List (Nat × Nat × Double × Nat)
  /-- row-gradient batches sent and not acknowledged as applied: member, engine, numbers of the message; 01 R19; reset none -/
  unapplied : List (Nat × Nat × Nat × Nat)
  /-- hot-row values sent and not acknowledged: table, row and member; 01 R19; reset none -/
  unackedHot : List (Nat × Nat × Nat)
  /-- members and engines whose acknowledgements carry the mark of a stalled log; 10 R307; reset none -/
  marks : List (Nat × Nat)
  /-- engines and tables still to apply in this step; 06 R203; reset none -/
  toApply : List (Nat × Nat)
  /-- offset of job time from the time base, in ec; 14 R396; reset 0 -/
  timeOffset : Int
  /-- stamp t1 of the time probe in progress, in ec of job time; 14 R396; reset none -/
  probe : Option Int
  /-- the offset has been set by a first probe; 14 R396; reset 0 -/
  aligned : Bool
  /-- correction still to be added to the offset, in ec, and the ec from one step of 1 to the next; 14 R396; reset 0 -/
  slew : Int
  slewEvery : Nat
  /-- a read of the instance has returned a poisoned granule, and the failure is to be declared; 14 R383; reset 0 -/
  poisoned : Bool
  /-- nonce counters per sending unit; 64 bits; 09 R278; reset 0 -/
  ctrs : Tab Double
  deriving DecidableEq, Repr, Inhabited

/-- A job that JOB_END has ended while its dense updates run on (R12, R224). -/
structure Ended where
  cmd : Ref
  /-- the JOB_END replied PENDING -/
  told : Bool
  /-- the job as it stood -/
  job : Job
  deriving DecidableEq, Repr, Inhabited

/-- A reset or destroy in progress (R369). -/
structure Resetting where
  cmd : Icp
  destroy : Bool
  deriving DecidableEq, Repr, Inhabited

/-- An instance (R348). -/
structure Inst where
  /-- the instance exists; 1 bit; 12 R348; reset 0 -/
  live : Bool
  /-- tile blocks; 100 bits; 12 R349; reset 0 -/
  blocks : BitVec 100
  /-- PC groups; 64 bits; 12 R349; reset 0 -/
  pcGroups : BitVec 64
  /-- W_SETT, W_BURROW, W_BRUIN, W_PACK, W_STASH, W_LINK; 4 bits each; 12 R349; reset 0 -/
  weights : List (BitVec 4)
  /-- module quota in bytes; 64 bits; 05 R161, 12 R348; reset 0 -/
  quotaMod : Nat
  /-- expander quota in bytes; 64 bits; 05 R161, 12 R348; reset 0 -/
  quotaExp : Nat
  /-- over quota in the module tier, in the expander tier; 1 bit each; 05 R164; reset 0 -/
  overMod : Bool
  overExp : Bool
  /-- eviction by age under way in a tier (quota cut or excess); 05 R164, R165; reset none -/
  evicting : List Nat
  /-- admitted guarantees, MB/s, tiers 0 to 2; 64 bits each; 05 R171, 12 R348; reset 0 -/
  guar : List Nat
  /-- factor f of the stacked tier in 2^-16; 17 bits; 05 R172; reset 1_0000h -/
  scaleStk : Nat
  /-- low half of the slot's generation; 16 bits; 12 R357; reset 0 -/
  resets : Half
  /-- job epoch tag; 8 bits; 12 R360; reset 0 -/
  jepoch : Byte
  /-- reset in progress; 12 R369; reset none -/
  resetting : Option Resetting
  /-- the job; 01, 04 -/
  job : Job
  /-- job ended whose JOB_END waits for R224; 07 R224; reset none -/
  ended : Option Ended
  /-- SNAPSHOT_STATUS.VALID; 1 bit; 01 R43; reset 0 -/
  snapValid : Bool
  /-- SNAPSHOT_STATUS.SNAP_EPOCH; 48 bits; 01 R43; reset 0 -/
  snapEpoch : Nat
  /-- retired snapshots, reads of which may still be in flight; 01 R32, R38; reset none -/
  oldSnaps : List Nat
  /-- counters 0 to 14 of the instance block; 64 bits each; 13 R379; reset 0 -/
  counters : Tab Double
  /-- hub semaphores, 64 of 32 bits; 08 R246; reset 0 -/
  hubSems : Tab Word
  /-- pending host waits, oldest first, at most 256; 08 R249, R252; reset none -/
  waits : List HostWait
  /-- objects; 05 R152; reset none -/
  objs : List Obj
  /-- freed objects whose capacity has not returned; 05 R154; reset none -/
  freed : List Freed
  /-- table shares; 06 R184; reset none -/
  tables : List Table
  /-- hot sets, at most four; 06 R207; reset none -/
  hot : List HotSet
  /-- registered Bruin objects; 07 R216; reset none -/
  bobjs : List BObj
  /-- Bruin's queue of this instance; 07 R214, R222; reset none -/
  bqueue : List BProg
  /-- gradient buffer held by Bruin, 0 or 1; 07 R221; reset none -/
  bheld : Option Nat
  /-- launches; 03 R95; reset none -/
  launches : List Launch
  /-- stash directory, at most 4,096 entries; 05 R181; reset none -/
  stash : List StashEntry
  /-- next unit of the rotation in the stacked, module and expander tier; 05 R155; reset 0 -/
  rot : List Nat
  /-- consecutive slow steps per tile; 14 R386; reset 0 -/
  slowRuns : Tab Nat
  deriving DecidableEq, Repr, Inhabited

/-- A semaphore wait that holds a sequencer (R236). -/
structure Hold where
  sem : Nat
  count : Nat
  /-- the descriptor that waits, and whether its header WAIT holds it -/
  desc : Desc
  header : Bool
  /-- satisfied, the release still to come (R241) -/
  satisfied : Bool
  deriving DecidableEq, Repr, Inhabited

/-- A REPEAT in progress (R113). -/
structure Loop where
  /-- tile-store offset of the first descriptor of the span, and past its end -/
  first : Nat
  past : Nat
  count : Nat
  iter : Nat
  inc1 : Int
  inc2 : Int
  inc3 : Int
  deriving DecidableEq, Repr, Inhabited

/-- A descriptor issued to a unit and not complete (R85 to R87). -/
structure Issued where
  /-- tile-store offset of the descriptor -/
  slot : Nat
  /-- the descriptor with the increments of its REPEATs added -/
  desc : Desc
  /-- its unit has run it: its effect has taken place -/
  ran : Bool
  /-- it has run and waits for another unit's answer -/
  awaits : Bool
  /-- loss-scale exponent in force when it issued (R138) -/
  lexp : Nat
  deriving DecidableEq, Repr, Inhabited

/-- A granule of a tile store as it stood before a descriptor wrote it (R84, R85). -/
structure Before where
  granule : Nat
  old : List Byte
  /-- the writing descriptor's tile and unit -/
  tile : Nat
  unit : Nat
  /-- the descriptor has completed; the granule's old bytes can still be fetched, until a FENCE -/
  closed : Bool
  deriving DecidableEq, Repr, Inhabited

/-- Whether a tile runs (R95, R96, R233). -/
inductive TileRun where
  | idle | loaded | running | stopping
  deriving DecidableEq, Repr, Inhabited

/-- Who sent a semaphore update: a tile's descriptor, or a HOST_SIGNAL command (R235, R253). -/
inductive Sender where
  | tile (t slot : Nat)
  | host (cmd : Ref)
  deriving DecidableEq, Repr, Inhabited

/-- An update of a semaphore of a tile, due at the end of the present tc (R240). -/
structure Due where
  /-- its place in the order of R240: 0 a SIGNAL of the tile's own, 1 to 4 a header SIG by unit, 5 a signal of the network -/
  rank : Nat
  sem : Nat
  count : Int
  sender : Sender
  deriving DecidableEq, Repr, Inhabited

/-- A tile (R83, R85, R123, R232). -/
structure Tile where
  /-- run state; 08 R233; reset idle -/
  run : TileRun
  /-- the LAUNCH it runs; 03 R95; reset none -/
  launch : Option Ref
  /-- sequencer's fetch offset in the store; 20 bits; 03 R85; reset 0 (DESIGN CHOICE log 8) -/
  pc : Nat
  /-- END fetched; 03 R95; reset 0 -/
  ended : Bool
  /-- tile store, 1 MiB; 03 R83; reset not promised (free bytes, log 1) -/
  cells : Mem
  /-- zeroed by an instance reset, so that unlisted bytes are 0; else they are free bytes; 12 R369; reset 0 -/
  zeroed : Bool
  /-- 64 semaphores of 16 bits; 08 R232; reset 0 -/
  sems : Tab Half
  /-- signals not acknowledged; 08 R238; reset 0 -/
  unacked : Nat
  /-- the wait that holds the sequencer; 08 R236; reset none -/
  hold : Option Hold
  /-- REPEATs in progress, innermost first, at most 4; 03 R113, R114; reset none -/
  loops : List Loop
  /-- unit queues: 0 matrix, 1 vector, 2 and 3 DMA; 8 descriptors each; 03 R85; reset empty -/
  units : Tab (List Issued)
  /-- clock gated; 1 bit; 08 R242; reset 0 -/
  gated : Bool
  /-- phase time of the current step in tc; 14 R386; reset 0 -/
  phaseTime : Nat
  /-- it ran a program in the current step; 14 R386; reset 0 -/
  ranStep : Bool
  /-- SEED of the generators' latest load; 64 bits; 03 R125; reset 0 -/
  seed : Double
  /-- tc at which the generators were loaded; 03 R125; reset 0 -/
  seededAt : Nat
  /-- tc after that of the latest output drawn from the generators; 03 R124; reset 0 -/
  drawnTo : Nat
  /-- granules of the store as they stood before writes that are in progress, or that no FENCE has followed; 03 R84, R85;
  reset none -/
  before : List Before
  /-- tc at which a fault of its LAUNCH stopped it; 03 R96; reset none -/
  stopTc : Option Nat
  /-- updates of its semaphores due in this tc, in the order in which they came; 08 R240; reset none -/
  due : List Due
  deriving DecidableEq, Repr, Inhabited

/-- A signal in flight to a tile on the priority network (R237). -/
structure Sig where
  target : Nat
  sem : Nat
  count : Int
  sender : Sender
  deriving DecidableEq, Repr, Inhabited

/-- An acknowledgement in flight to a tile (R237, R239): where it comes from (a tile, 1,600 for the hub), the sending
descriptor's offset and the fault it carries. -/
structure Ack where
  target : Nat
  source : Nat
  slot : Nat
  cause : Nat
  deriving DecidableEq, Repr, Inhabited

/-- A LOOKUP or ROW_GRAD handed to the front end (R192, R199, R200). -/
structure FrontJob where
  inst : Nat
  tile : Nat
  chan : Nat
  grad : Bool
  desc : Desc
  /-- number of the descriptor: the MODEL's own name -/
  req : Nat
  /-- messages that wait for a credit or their turn, with their engines (R194, R352) -/
  toSend : List (Nat × ReqMsg)
  /-- messages not yet answered: member, engine and number -/
  unanswered : List (Nat × Nat × Nat)
  /-- answers: member, engine and sums -/
  got : List (Nat × Nat × List BagSum)
  /-- first refusal's cause, 0 none -/
  cause : Nat
  /-- an accumulator was full (R202) -/
  full : Bool
  deriving DecidableEq, Repr, Inhabited

/-- What an engine keeps of a descriptor between its messages (R198, R201): by bag, the sums so far or the bag gradients. -/
structure Pool where
  inst : Nat
  member : Nat
  req : Nat
  bags : List (Nat × List Word)
  deriving DecidableEq, Repr, Inhabited

/-- An engine: SE0 to SE15 are 0 to 15, BE0 to BE7 are 16 to 23 (R194). -/
structure Engine where
  /-- request queue, at most 512 messages, each with its source: 0 the front end, 1 + k link k; oldest first; 06 R194; reset
  none -/
  queue : List (Nat × ReqMsg)
  /-- instance being served and its turns left in the round; 12 R352; reset 0, 0 (log 27) -/
  turn : Nat × Nat
  /-- per instance the source served last; 06 R194; reset 0 (log 27) -/
  srcTurn : Tab Nat
  /-- what it keeps of descriptors between their messages; 06 R198, R201; reset none -/
  pools : List Pool
  /-- clock gated; 1 bit; 14 R397; reset 0 -/
  gated : Bool
  deriving DecidableEq, Repr, Inhabited

/-- How far a block row of this device's partial has gone: not sent, sent, accepted by its reducer, or summed there and out of
its store (R310, R311). -/
inductive SplitSent where
  | waiting
  | sent
  | accepted
  | released
  deriving DecidableEq, Repr, Inhabited

/-- A block row of this device's own partial in a split stream (R310, R311). -/
structure SplitOut where
  /-- the reducer's member index -/
  dest : Nat
  row : Nat
  col : Nat
  /-- the partial sums, until they are sent -/
  vals : List Word
  sent : SplitSent
  deriving DecidableEq, Repr, Inhabited

/-- A collective issued on this device (R294, R297). -/
structure Coll where
  kind : Nat
  cseq : Word
  tile : Nat
  chan : Nat
  desc : Desc
  /-- its turn has come (R297) -/
  active : Bool
  /-- tc at which its turn came -/
  began : Nat
  /-- bytes read from SRC when its turn came -/
  input : List Byte
  /-- scale set read from AUX (R301), or the send counts of KIND 6 -/
  aux : List Byte
  /-- pieces received as holder, or as the root's receiver: member, offset in its transfer, bytes -/
  pieces : List (Nat × Nat × List Byte)
  /-- bytes landed or held for landing, per sending member -/
  got : List (Nat × Nat)
  /-- bytes of the output that wait for a gradient buffer (R308): offset in the output, bytes -/
  held : List (Nat × List Byte)
  /-- counts received (KIND 6): member and count -/
  counts : List (Nat × Nat)
  /-- barrier state (KIND 4) -/
  barrier : Option Barrier
  /-- tokens received and not yet used: member, round, flag word, tc -/
  tokens : List (Nat × Nat × Double × Nat)
  /-- leaf chunks granted to every other member (R302) -/
  granted : Nat
  /-- leaf chunks granted to this device, by holder (R302) -/
  credits : List (Nat × Nat)
  /-- leaf chunks sent, by holder -/
  sent : List (Nat × Nat)
  /-- the sums this device holds have been formed and sent; KIND 3 and 6: its second round has been sent -/
  summed : Bool
  /-- a member refused (R304) -/
  refused : Bool
  /-- first packet of each member, with the tc (R314) -/
  entries : List (Nat × Nat)
  /-- block rows of this device's own partials (KIND 7; R310, R311) -/
  out : List SplitOut
  deriving DecidableEq, Repr, Inhabited

/-- A partial block row at its reducer (R311); its values are dropped once they are summed. -/
structure SplitPart where
  member : Nat
  row : Nat
  col : Nat
  vals : List Word
  /-- it has its place in the split store -/
  accepted : Bool
  deriving DecidableEq, Repr, Inhabited

/-- A group entry (R288, R289, R313). -/
structure Group where
  /-- instance that set it; 10 R288; reset none -/
  owner : Option Nat
  /-- member list; 16 bits each; 10 R288; reset none -/
  members : List Half
  /-- group digest; 32 bits; 10 R291; reset 0 -/
  digest : Word
  /-- group timeout in ms; 16 bits; 10 R289; reset 0 -/
  timeout : Nat
  /-- SPLIT; 1 bit; 10 R289; reset 0 -/
  split : Bool
  /-- NEXT; 32 bits; 10 R297; reset 0 -/
  next : Word
  /-- collectives issued and not ended; 10 R297; reset none -/
  colls : List Coll
  /-- packets of collectives not yet issued here: OPC, packet and the tc of its arrival; 10 R298; reset none -/
  early : List (Nat × PackPkt × Nat)
  /-- partial block rows of the open split stream; 10 R311; reset none -/
  parts : List SplitPart
  /-- GROUP_STATUS.TRAIL; 16 bits; 10 R313; reset 0 -/
  trail : Half
  /-- GROUP_STATUS.TRAIL_RUN; 16 bits; 10 R313; reset 0 -/
  trailRun : Half
  /-- waits on member data, link credit, engine share, local input; 64 bits each; 10 R312, R313; reset 0 -/
  waits : List Double
  deriving DecidableEq, Repr, Inhabited

/-- A stream of the fabric (R275, R276): numbers packed as dst, dunit, sunit, job. -/
structure Stream where
  next : Half
  /-- receiver: packets held ahead of the expected SSEQ -/
  held : List FabPkt
  deriving DecidableEq, Repr, Inhabited

/-- A transfer of Owl's data mover (R409): the command, and whether only its flushing read is still to come. -/
structure Move where
  cmd : Ref
  flushing : Bool
  deriving DecidableEq, Repr, Inhabited

/-- What the module sends out of its ports: the model's record of its outputs. -/
inductive Out where
  /-- a reply or notice written to the completion ring of queue q from slot `pos`, on `lap`: the model's note of the packet
  in clear, beside the slots that carry it as it travels (host memory, or `pcieWrite`) -/
  | packet (q pos : Nat) (lap : Half) (p : Packet)
  | msix (entry : Nat) (addr : Double) (data : Word)
  | pcieWrite (addr : Nat) (bytes : List Byte)
  | flushingRead (addr : Nat)
  /-- a UDP datagram to a peer: VLAN ID, source address, UDP checksum, transport header and segment -/
  | datagram (peer : UdpPeer) (vlan : Option Nat) (src : BitVec 128) (checksum : Half) (hdr : BitVec 128) (seg : List Byte)
  /-- flit f of link k since training: its 256 bytes, and the lane of each of its 8 blocks (R258, R263) -/
  | flit (k f : Nat) (bytes : List Byte) (lanes : List Nat)
  /-- the training words that this side sends in step 2; `sessionHere` is its own value (R260) -/
  | training (k : Nat) (tw : TrainingWords)
  | laneWord (k lane : Nat) (w : BitVec 80)
  | smbus (bytes : List Byte) (pec : Option Byte)
  | smbusNack
  | jtag (reg : List Byte)
  /-- VLAN ID, own address, the asker and its MAC address, and the port's MAC address -/
  | arpReply (port : Nat) (vlan : Option Nat) (addr asker : Word) (dest mac : BitVec 48)
  | neighborAdvert (port : Nat) (vlan : Option Nat) (addr asker : BitVec 128) (dest mac : BitVec 48)
  | echoReply (port : Nat) (vlan : Option Nat) (src dst : BitVec 128) (body : List Byte)
  | pack (member opc : Nat) (p : PackPkt)
  deriving DecidableEq, Repr, Inhabited

/-- JTAG instructions (R347). -/
inductive JtagIr where
  | bypass | idcode | samplePreload | extest | clamp
  deriving DecidableEq, Repr, Inhabited

/-- Sideband state (R343 to R347, R365). -/
structure Side where
  /-- temperatures of TEMPS, 8 of 16 bits; 11 R343; reset 8000h (unreadable) (log 9) -/
  temps : List Half
  /-- rail readings of RAILS, 24 of 16 bits; 11 R343; reset FFFFh (unreadable) (log 9) -/
  rails : List Half
  /-- input voltages read by the polls of the last 100 ms, oldest first, for POWER.VIN; 16 bits each; 14 R400; reset none -/
  vins : List Half
  /-- input powers read by the polls of the last 100 ms, for POWER.PIN; 16 bits each; 14 R400; reset none -/
  pins : List Half
  /-- counters of the I2C buses: transactions, transient events, polls skipped; 64 bits each; 13 R379; reset 0 -/
  i2c : Tab Double
  /-- JTAG instruction in force; 11 R347; reset IDCODE (PRESUMED, log 10) -/
  ir : JtagIr
  /-- EXTEST or CLAMP drives the boundary; 11 R347; reset 0 -/
  boundary : Bool
  /-- DEBUG_OPEN; 1 bit; 12 R364, R365; reset 0 -/
  debugOpen : Bool
  /-- MASK of the debug session; 16 bits; 12 R365; reset 0 -/
  debugMask : Half
  /-- DEBUG_COUNT; 32 bits; 12 R364, R365; reset 0 -/
  debugCount : Word
  deriving DecidableEq, Repr, Inhabited

/-- The TZ-1600 behind its supply (00_scope to 15_module): everything but the control pins. -/
structure Chip where
  /-- draws of free values so far: the MODEL's own field; reset 0 (DESIGN CHOICE log 1) -/
  freeCount : Nat
  /-- tc since cold reset; the time base in sc is this div 8; 13 R370, R379, 14 R394; reset 0 -/
  tc : Nat
  store : Store
  boot : Boot
  /-- queues 0 to 255 and OQ (256); 02 R45 -/
  queues : Tab Queue
  /-- sessions; 02 R51; reset none -/
  sessions : Tab Session
  /-- number of the next session: the MODEL's own name; reset 0 -/
  nextSession : Nat
  /-- commands started and not over; 02 R59, R61; reset none -/
  started : List Started
  /-- commands started so far: the MODEL's own count, which names them; reset 0 -/
  starts : Nat
  /-- Owl's round over the queues: queue started last; 02 R59; reset 256 (DESIGN CHOICE log 11) -/
  lastStarted : Nat
  /-- notice queues of the instances, and the operator's (16); 02 R72; reset empty -/
  notices : Tab NoticeQ
  /-- latches of 4-byte reads through BAR0 and through the cores; 32 bits per register; 02 R78; reset 0 -/
  latchBar : Tab Word
  latchCore : Tab Word
  /-- staged lower halves of 4-byte writes; 32 bits per register; 02 R79; reset none -/
  stageBar : Tab (Option Word)
  stageCore : Tab (Option Word)
  /-- value the latest register read returned: the MODEL's view of the read port; 64 bits; reset 0 -/
  readData : Double
  pcie : Pcie
  /-- the 16 control cores; 11 R318, R322 -/
  cores : Tab Core
  /-- lower host region, 32 GB; 11 R319; reset not promised (free bytes, log 1) -/
  host : Mem
  /-- feed streams 0 to 31; 11 R342 -/
  feeds : Tab Feed
  /-- Ethernet ports E0 and E1; 11 R335 -/
  eth : Tab EthPort
  /-- control of links, Ethernet and CXL ports: class x 65,536 + index; 02 R67 to R70 -/
  units : Tab UnitCtl
  /-- units out of service; 14 R384, R391; reset those of the retire log (none, R411) -/
  retired : List UnitId
  /-- a unit retired since cold reset; 1 bit; 11 R343; reset 0 -/
  retiredNow : Bool
  /-- fault buckets: class x 65,536 + index; 14 R381; reset 0 -/
  buckets : Tab Nat
  /-- links L0 to L31; 09 R255 -/
  links : Tab Link
  /-- CXL ports X0 to X3; 11 R332 -/
  cxl : Tab Cxl
  /-- hot stacks; 16 bits; 05 R170; reset 0 -/
  hotStacks : BitVec 16
  /-- hot module channels; 96 bits; 05 R170; reset 0 -/
  hotChannels : BitVec 96
  /-- factors f of the module and expander tier in 2^-16; 17 bits; 05 R172; reset 1_0000h -/
  scaleMod : Nat
  scaleExp : Nat
  /-- pseudo-channels in their calibration window; 05 R175; reset none -/
  windows : List Nat
  /-- the PC of each stack whose window comes next; 05 R175; reset 0 -/
  calNext : Tab Nat
  /-- delay and voltage codes: steps applied per pseudo-channel, and per channel from 1,024; 05 R175, R176; reset 0 -/
  codes : Tab Nat
  /-- instances 0 to 15; 12 R348 -/
  insts : Tab Inst
  /-- model space of the instances: (instance x 4 + copy) x 2^52 + address; 05 R150; reset none written -/
  dram : Mem
  /-- poisoned granules, as dram address div 64; 14 R383; reset none -/
  poison : List Nat
  /-- POISON.READS; 64 bits; 14 R383, R400; reset 0 -/
  poisonReads : Double
  /-- the last 64 corrected granules that a memory controller remembers, each with its tc; 14 R382; reset none -/
  corrected : Tab (List (Nat × Nat))
  /-- tiles 0 to 1,599; 03 R81 -/
  tiles : Tab Tile
  /-- signals in flight on the priority network, oldest first; 08 R237; reset none -/
  sigs : List Sig
  /-- acknowledgements in flight, oldest first; 08 R237; reset none -/
  acks : List Ack
  /-- engines SE0 to SE15 and BE0 to BE7; 06 R194 -/
  engines : Tab Engine
  /-- jobs of the lookup front end; 06 R199, R200; reset none -/
  front : List FrontJob
  /-- the front end's turn: instance and turns left in its round; 12 R352; reset 0, 0 (log 27) -/
  frontTurn : Nat × Nat
  /-- descriptors handed to the front end so far: the MODEL's own count, which names them; reset 0 -/
  reqs : Nat
  /-- hub engines with their clock gated: 0 front end, 1 stash, 2 Pack, 3 hoard, 4 Bruin; 14 R397; reset none -/
  gatedHub : List Nat
  /-- stage in progress in Bruin: instance and turns left in its round; 07 R214, 12 R352; reset none -/
  bruinTurn : Option (Nat × Nat)
  /-- group table, 1,024 entries; 10 R288; reset no entry set -/
  groups : Tab Group
  /-- fabric streams sent and received; 09 R275, R276; reset none -/
  txStreams : Tab Stream
  rxStreams : Tab Stream
  /-- packets that no link of the slot table takes yet: class, instance, packet; 09 R275; reset none -/
  unplaced : List (Nat × Nat × FabPkt)
  /-- packets delivered to their unit; 09 R276; reset none; a packet that no row of the table takes stays here (log 78)
  -/
  delivered : List FabPkt
  /-- packets dropped by R274; 09 R274; reset 0 -/
  fabricDrops : Nat
  /-- transfers of Owl's data mover, in start order; 13 R409; reset none -/
  moves : List Move
  side : Side
  /-- everything sent out of the ports, oldest first: the MODEL's own record; reset none -/
  out : List Out
  deriving DecidableEq, Repr

/-- The TZ-1600. -/
structure State where
  /-- commands waiting, first in, first out: the block's own queue; reset none -/
  pending : List Instr
  /-- pins, supply and progress of the boot -/
  power : Power
  /-- everything else -/
  chip : Chip
  deriving DecidableEq, Repr

/-! The initial value of each kind: what an entry not listed in its table holds, and what a cold reset leaves. -/

/-- A queue that was never created (R66); queue 256 is OQ, which exists from cold reset with 256 slots (R45, R46). -/
def Queue.initial (q : Nat) : Queue :=
  { depthLog2 := if q = 256 then 8 else 0, route := if q = 256 then .pcie else .onDie,
    wepoch := 0, ring := 0, cring := 0, vector := if q = 256 then 256 else 0, slots := [], landed := [], items := [],
    committed := 0, tail := 0, stale := 0, torn := 0, flushes := 0, fenced := false, cWrite := 0, cHead := 0, lap := 1,
    reserved := 0, session := none, peer := none, lastPeer := none, partials := [], cache := [], secTag := none,
    owed := [] }

/-- An empty notice queue (R71, R72). -/
def NoticeQ.initial : NoticeQ :=
  { entries := [], nextSeq := 0, dropped := 0, droppedSince := 0, receiver := none, deliveredNow := [] }

/-- An MSI-X entry before software writes it (log 6). -/
def MsixEntry.initial : MsixEntry := { addr := 0, data := 0, masked := true, pba := false }

/-- A control core that is halted (R322, R388; its registers, log 101). -/
def Core.initial : Core :=
  { enable := 0, pending := 0, run := .halted, mode := .machine, pc := 0, xregs := [], fregs := [], csrs := [], resv := none }

/-- A feed stream's block at cold reset (R342). -/
def Feed.initial : Feed :=
  { en := false, vector := 0, udpPort := 0, log2Slots := 0, coalesce := 1, base := 0, head := 0, tail := 0,
    received := 0, dropped := 0, unsignalled := 0 }

/-- An Ethernet port's counters (R379). -/
def EthPort.initial : EthPort := { rx := 0, tx := 0, noMatch := 0, malformed := 0, icp := 0 }

/-- A unit of classes 0 to 2, enabled (R69). -/
def UnitCtl.initial : UnitCtl := { st := .enabled, enables := [], disableWaits := false }

/-- A lane before tuning (R281; log 7). -/
def Lane.initial : Lane :=
  { taps := [0, 0, 0, 0, 0], asked := none, judged := none, before := 0, partner := [0, 0, 0, 0, 0] }

/-- A link that is down (R287), with the 256 credits per class of R273. -/
def Link.initial : Link :=
  { st := .down, major := 0, pstep := 0, pplane := 0, retiredLanes := 0, partnerRetired := 0, session := 0, xlat := 0,
    probes := [], precode := false, pdev := 0, lock := none, lockAge := 0, noMarker := 0, search := [],
    excluded := [], txSeq := 0, rxSeq := 0, replay := [], txq := [], sent := [], going := [none, none, none], flitNo := 0,
    ackDue := false, back := [0, 0, 0], classTurn := 0,
    turns := [(0, 0), (0, 0), (0, 0)], arrived := [], credits := [256, 256, 256], owed := [0, 0, 0],
    retrying := false, assembly := [[], [], []], failedRetrains := [], uncorr := 0, replays := 0, relocks := 0,
    falseLocks := 0, retrains := 0, dropped := 0, lanes := [], retiring := [], lasers := false }

/-- A CXL port without a device (R333). -/
def Cxl.initial : Cxl := { extents := 0, bandwidth := 0, latency := 0 }

/-- No job (R15, R43). -/
def Job.initial : Job :=
  { phase := .noJob, skipped := false, epoch := 0, ident := 0, group := 0, encReq := false, key := none, lexp := 0,
    clean := 0, ufLimit := 0, voteFlag := false, voteSet := false, close := .none, closers := [], launched := false,
    ending := none, publish := none, barrier := none, tokens := [], unapplied := [], unackedHot := [], marks := [], toApply := [],
    timeOffset := 0, probe := none, aligned := false, slew := 0, slewEvery := 0, poisoned := false, ctrs := [] }

/-- A slot with no instance (R348, R9). -/
def Inst.initial : Inst :=
  { live := false, blocks := 0, pcGroups := 0, weights := [0, 0, 0, 0, 0, 0], quotaMod := 0, quotaExp := 0,
    overMod := false, overExp := false, evicting := [], guar := [0, 0, 0], scaleStk := 65536, resets := 0, jepoch := 0,
    resetting := none, job := Job.initial, ended := none, snapValid := false, snapEpoch := 0, oldSnaps := [], counters := [], hubSems := [],
    waits := [], objs := [], freed := [], tables := [], hot := [], bobjs := [], bqueue := [], bheld := none, launches := [],
    stash := [], rot := [0, 0, 0], slowRuns := [] }

/-- What an engine keeps for a table it has not touched (R188). -/
def EngTab.initial : EngTab :=
  { acc := [], batches := [], unacked := [], applied := [], examined := 0, changed := 0, log := [], sketch := [], cursor := 0,
    closed := [], stalled := false }

/-- A tile after a cold reset (R232, R233): its store holds nothing the manual promises (log 1). -/
def Tile.initial : Tile :=
  { run := .idle, launch := none, pc := 0, ended := false, cells := [], zeroed := false, sems := [], unacked := 0,
    hold := none, loops := [], units := [], gated := false, phaseTime := 0, ranStep := false, seed := 0, seededAt := 0,
    drawnTo := 0, before := [], stopTc := none, due := [] }

/-- An engine with nothing queued (R194). -/
def Engine.initial : Engine := { queue := [], turn := (0, 0), srcTurn := [], pools := [], gated := false }

/-- A group entry that nobody has set (R288). -/
def Group.initial : Group :=
  { owner := none, members := [], digest := 0, timeout := 0, split := false, next := 0, colls := [], early := [],
    parts := [], trail := 0, trailRun := 0, waits := [0, 0, 0, 0] }

/-- A stream whose next number is 0 (R275, R276). -/
def Stream.initial : Stream := { next := 0, held := [] }

/-- The PCIe endpoint: link at L0, in D0, MSI-X off (R325, R327, R329; log 6). -/
def Pcie.initial : Pcie :=
  { maxPayload := 0, maxRead := 2, d3hot := false, linkUp := true, msix := [], msixEnable := false, functionMask := false,
    aer := [] }

/-- A copy as it ships erased (R411). -/
def CopyImg.erased : CopyImg := { valid := false, seq := 0, length := 0, shipped := false, cells := [] }

/-- Copy A as it ships (R411). -/
def CopyImg.asShipped : CopyImg :=
  { valid := true, seq := 1, length := Config.shippedLength, shipped := true, cells := [] }

/-- The store after the first boot of a unit as shipped: the boot log holds BOOTS 1 (R392, R411). -/
def Store.initial : Store :=
  { copyA := CopyImg.asShipped, copyB := CopyImg.erased, retireLog := [], bootLog := [(0, 1)], bootNext := 1,
    edit := none }

/-- What the first boot reports and takes from the record (R411). -/
def Boot.initial : Boot :=
  { cause := 0, copyB := false, defaults := false, fallback := false, boots := 1, configSeq := 1,
    fw := [Config.shippedVersion 0, Config.shippedVersion 1, Config.shippedVersion 2],
    measure := [Config.shippedMeasure 0, Config.shippedMeasure 1, Config.shippedMeasure 2],
    devnum := 0, smbusAddr := 0x52, jumbo := 0, vlan := [0, 0], ipv4 := [0, 0], ipv6 := [0, 0], coreStarted := false }

/-- The sideband at cold reset (R343, R347, R400; logs 9, 10). -/
def Side.initial : Side :=
  { temps := List.replicate 8 0x8000, rails := List.replicate 24 0xFFFF, vins := [], pins := [], i2c := [], ir := .idcode,
    boundary := false, debugOpen := false, debugMask := 0, debugCount := 0 }

/-- The supply after power-on: input in range, PWR_OK and COLD_HOLD# high, all rails on, booted (R406). -/
def Power.initial : Power :=
  { inputOk := true, broken := false, pwrOk := true, coldHold := false, therm := false, rails := 0xFF,
    phase := .running, cause := 0, otherCopy := false }

/-- Everything but the pins right after the first cold boot (R393, R411). -/
def Chip.initial : Chip :=
  { freeCount := 0, tc := 0, store := Store.initial, boot := Boot.initial, queues := [], sessions := [],
    nextSession := 0, started := [], starts := 0, lastStarted := 256, notices := [], latchBar := [], latchCore := [], stageBar := [],
    stageCore := [], readData := 0, pcie := Pcie.initial, cores := [], host := [], feeds := [], eth := [], units := [],
    retired := [], retiredNow := false, buckets := [], links := [], cxl := [], hotStacks := 0, hotChannels := 0,
    scaleMod := 65536, scaleExp := 65536, windows := [], calNext := [], codes := [], insts := [], dram := [], poison := [],
    poisonReads := 0, corrected := [], tiles := [], sigs := [], acks := [], engines := [], front := [], frontTurn := (0, 0), reqs := 0, gatedHub := [],
    bruinTurn := none, groups := [], txStreams := [], rxStreams := [], unplaced := [], delivered := [], fabricDrops := 0, moves := [],
    side := Side.initial, out := [] }

/-- The machine right after reset: a unit as shipped, powered on and booted for the first time (R393, R411), with no
command waiting. That the reset state is the booted module is the model's choice (DESIGN CHOICE, log 100). -/
def State.reset : State := { pending := [], power := Power.initial, chip := Chip.initial }

end Sys2Proof.Machine
end

