-- ==== Sys2Proof/Machine/Bytes.lean ====
section
/-! DEFINITION. Bytes, bit fields, CRCs, sparse tables and byte memories: the helpers every family uses. -/

namespace Sys2Proof.Machine

/-- The value of bytes, the first least significant (R5). -/
def leNat : List Byte → Nat
  | [] => 0
  | b :: bs => b.toNat + 256 * leNat bs

/-- The low `n` bytes of a value, the least significant first (R5). -/
def leBytes : Nat → Nat → List Byte
  | 0, _ => []
  | n + 1, v => BitVec.ofNat 8 v :: leBytes n (v / 256)

/-- The value of bytes, the first most significant: key coordinates (R361) and IP addresses (R388). -/
def beNat (bs : List Byte) : Nat := leNat bs.reverse

/-- The low `n` bytes of a value, the most significant first. -/
def beBytes (n v : Nat) : List Byte := (leBytes n v).reverse

/-- Bits `hi` to `lo` of a number (R4). -/
def bits (v hi lo : Nat) : Nat := v / 2 ^ lo % 2 ^ (hi + 1 - lo)

/-- Bit `n` of a number (R4). -/
def bitOf (v n : Nat) : Bool := v / 2 ^ n % 2 = 1

/-- The mean of values, rounded down, 0 of none. -/
def meanOf {w : Nat} (vs : List (BitVec w)) : Nat := (vs.map (·.toNat)).sum / vs.length

/-- 1 for true. -/
def bit (b : Bool) : Nat := if b then 1 else 0

/-- `n` bytes of a list from an offset; bytes past its end are not there. -/
def cut (bs : List Byte) (off n : Nat) : List Byte := (bs.drop off).take n

/-- The `n`-byte little-endian value at an offset; bytes past the end count as 0. -/
def fieldAt (bs : List Byte) (off n : Nat) : Nat := leNat (cut bs off n)

/-- The bytes with the ones at an offset replaced. -/
def splice (bs : List Byte) (off : Nat) (new : List Byte) : List Byte :=
  bs.take off ++ new ++ bs.drop (off + new.length)

/-- The bytes padded with zeros to a length. -/
def padTo (n : Nat) (bs : List Byte) : List Byte := bs ++ List.replicate (n - bs.length) 0

/-- The least multiple of `m` at or above `n`. -/
def roundUp (n m : Nat) : Nat := (n + m - 1) / m * m

/-- ⌈a ÷ b⌉. -/
def divUp (a b : Nat) : Nat := (a + b - 1) / b

/-- Two ranges of bytes meet. -/
def meets (a n b m : Nat) : Bool := 0 < n && 0 < m && a < b + m && b < a + n

/-- The index of the lowest set bit among the first `n`, if any. -/
def lowestBit (v : Nat) (n : Nat) : Option Nat := (List.range n).find? (bitOf v ·)

/-- The number of set bits among the first `n`. -/
def popCount (v : Nat) (n : Nat) : Nat := ((List.range n).filter (bitOf v ·)).length

/-- Is it a power of two, from 2^0 to 2^63? -/
def isPow2 (n : Nat) : Bool := (List.range 64).any (fun k => n == 2 ^ k)

/-- ⌊log2 n⌋ for 0 < n < 2^64, else 0. -/
def log2 (n : Nat) : Nat := ((List.range 64).filter (fun k => 2 ^ k ≤ n)).length - 1

/-- a + b held at the top of the width. -/
def satAdd {w : Nat} (a : BitVec w) (b : Nat) : BitVec w := BitVec.ofNat w (min (a.toNat + b) (2 ^ w - 1))

/-- Advance one reflected CRC register over one bit. -/
def crcBit (poly c : Nat) : Nat := if c % 2 = 1 then c / 2 ^^^ poly else c / 2

/-- Advance a reflected CRC register over one byte. -/
def crcByte (poly c : Nat) (b : Byte) : Nat :=
  crcBit poly (crcBit poly (crcBit poly (crcBit poly (crcBit poly (crcBit poly (crcBit poly (crcBit poly
    (c ^^^ b.toNat))))))))

/-- CRC-32C (R48): polynomial 1EDC_6F41h reflected, initial value and final exclusive-OR all ones. -/
def crc32c (bs : List Byte) : Nat := (bs.foldl (crcByte 0x82F63B78) 0xFFFFFFFF) ^^^ 0xFFFFFFFF

/-- Advance the CRC-16 register over one bit, most significant first. -/
def crc16Bit (c : Nat) : Nat := if c / 32768 % 2 = 1 then (c * 2 % 65536) ^^^ 0x1021 else c * 2 % 65536

/-- CRC-16 of R259 and R263: polynomial 1021h, not reflected, over bytes in order, each from bit 7 to bit 0; the initial
value the caller's, no final exclusive-OR. -/
def crc16 (init : Nat) (bs : List Byte) : Nat :=
  bs.foldl (fun c b =>
    crc16Bit (crc16Bit (crc16Bit (crc16Bit (crc16Bit (crc16Bit (crc16Bit (crc16Bit (c ^^^ b.toNat * 256))))))))) init

/-- Advance the SMBus packet error code over one bit. -/
def pecBit (c : Nat) : Nat := if c / 128 % 2 = 1 then (c * 2 % 256) ^^^ 0x07 else c * 2 % 256

/-- SMBus packet error code: CRC-8, polynomial 07h (PRESUMED from SMBus 3.1, log 13). -/
def pec8 (bs : List Byte) : Byte :=
  BitVec.ofNat 8 (bs.foldl (fun c b =>
    pecBit (pecBit (pecBit (pecBit (pecBit (pecBit (pecBit (pecBit (c ^^^ b.toNat))))))))) 0)

/-! Sparse tables. -/

/-- The entry of a number, if the table lists one. -/
def tfind {α : Type} (t : Tab α) (n : Nat) : Option α :=
  match t with
  | [] => none
  | (k, v) :: r => if k = n then some v else tfind r n

/-- The entry of a number, or the initial value of its kind. -/
def tget {α : Type} (d : α) (t : Tab α) (n : Nat) : α := (tfind t n).getD d

/-- The table with an entry set. -/
def tput {α : Type} (t : Tab α) (n : Nat) (v : α) : Tab α :=
  match t with
  | [] => [(n, v)]
  | (k, w) :: r => if k = n then (n, v) :: r else if n < k then (n, v) :: (k, w) :: r else (k, w) :: tput r n v

/-- The table without an entry. -/
def tdrop {α : Type} (t : Tab α) (n : Nat) : Tab α := t.filter (fun e => e.1 ≠ n)

/-- The table with an entry changed. -/
def tmod {α : Type} (d : α) (t : Tab α) (n : Nat) (f : α → α) : Tab α := tput t n (f (tget d t n))

/-- The list with its entry at an index changed. -/
def lmod {α : Type} (f : α → α) : List α → Nat → List α
  | [], _ => []
  | a :: r, 0 => f a :: r
  | a :: r, n + 1 => a :: lmod f r n

/-- The list with its entry at an index replaced. -/
def lput {α : Type} (l : List α) (n : Nat) (v : α) : List α := lmod (fun _ => v) l n

/-! Byte memories. -/

/-- The byte last written at an address, if any. -/
def mfind (m : Mem) (a : Nat) : Option Byte :=
  match m with
  | [] => none
  | (k, v) :: r => if k = a then some v else mfind r a

/-- The memory with every byte of [a, a + n) unwritten. -/
def mclear (m : Mem) (a n : Nat) : Mem := m.filter (fun c => c.1 < a || a + n ≤ c.1)

/-- A run of cells from an address on. -/
def mrun (a : Nat) : List Byte → Mem
  | [] => []
  | b :: bs => (a, b) :: mrun (a + 1) bs

/-- The memory with a run of bytes written from an address on. -/
def mwrite (m : Mem) (a : Nat) (bs : List Byte) : Mem :=
  m.filter (fun c => c.1 < a) ++ mrun a bs ++ m.filter (fun c => a + bs.length ≤ c.1)

/-- The bytes from an address on, `free` standing where nothing was written. -/
def mread (m : Mem) (free : Nat → Byte) (a n : Nat) : List Byte :=
  let near := m.filter (fun c => a ≤ c.1 && c.1 < a + n)
  (List.range n).map (fun k => (mfind near (a + k)).getD (free (a + k)))

/-- Addresses strictly rising: the canonical form of a memory whose unlisted bytes were never written. -/
def Mem.wf : Mem → Bool
  | [] => true
  | [_] => true
  | a :: b :: r => decide (a.1 < b.1) && Mem.wf (b :: r)

end Sys2Proof.Machine

namespace Sys2Proof
open Sys2Proof.Machine

/-! Command parameters. -/

/-- An n-byte parameter at a byte offset. -/
def Icp.par (c : Icp) (off n : Nat) : Nat := fieldAt c.params off n

/-- Bits hi to lo of the parameters. -/
def Icp.bits (c : Icp) (hi lo : Nat) : Nat := Machine.bits (leNat c.params) hi lo

/-- The instance a command is carried for or names: its queue's, or from OQ the header's INSTANCE (R64). -/
def Icp.who (c : Icp) : Nat := if c.queue < 256 then c.queue / 16 else c.inst.toNat

end Sys2Proof
end

