-- ==== Sys2Proof/Machine/Crypto.lean ====
section
/-! DEFINITION. The algorithms that Hedgehog runs (R49, R278, R356, R358, R361 to R364): SHA-384, HMAC, HKDF, AES-256-GCM
and P-384 with ECDSA. The manual names them; their definitions are those of the standards it names (PRESUMED, log 15). -/

namespace Sys2Proof.Machine

/-! SHA-384 (FIPS 180-4). -/

/-- The 80 round constants. -/
def shaK : List (BitVec 64) :=
  [0x428a2f98d728ae22, 0x7137449123ef65cd, 0xb5c0fbcfec4d3b2f, 0xe9b5dba58189dbbc, 0x3956c25bf348b538,
   0x59f111f1b605d019, 0x923f82a4af194f9b, 0xab1c5ed5da6d8118, 0xd807aa98a3030242, 0x12835b0145706fbe,
   0x243185be4ee4b28c, 0x550c7dc3d5ffb4e2, 0x72be5d74f27b896f, 0x80deb1fe3b1696b1, 0x9bdc06a725c71235,
   0xc19bf174cf692694, 0xe49b69c19ef14ad2, 0xefbe4786384f25e3, 0x0fc19dc68b8cd5b5, 0x240ca1cc77ac9c65] ++
  [0x2de92c6f592b0275, 0x4a7484aa6ea6e483, 0x5cb0a9dcbd41fbd4, 0x76f988da831153b5, 0x983e5152ee66dfab,
   0xa831c66d2db43210, 0xb00327c898fb213f, 0xbf597fc7beef0ee4, 0xc6e00bf33da88fc2, 0xd5a79147930aa725,
   0x06ca6351e003826f, 0x142929670a0e6e70, 0x27b70a8546d22ffc, 0x2e1b21385c26c926, 0x4d2c6dfc5ac42aed,
   0x53380d139d95b3df, 0x650a73548baf63de, 0x766a0abb3c77b2a8, 0x81c2c92e47edaee6, 0x92722c851482353b] ++
  [0xa2bfe8a14cf10364, 0xa81a664bbc423001, 0xc24b8b70d0f89791, 0xc76c51a30654be30, 0xd192e819d6ef5218,
   0xd69906245565a910, 0xf40e35855771202a, 0x106aa07032bbd1b8, 0x19a4c116b8d2d0c8, 0x1e376c085141ab53,
   0x2748774cdf8eeb99, 0x34b0bcb5e19b48a8, 0x391c0cb3c5c95a63, 0x4ed8aa4ae3418acb, 0x5b9cca4f7763e373,
   0x682e6ff3d6b2b8a3, 0x748f82ee5defb2fc, 0x78a5636f43172f60, 0x84c87814a1f0ab72, 0x8cc702081a6439ec] ++
  [0x90befffa23631e28, 0xa4506cebde82bde9, 0xbef9a3f7b2c67915, 0xc67178f2e372532b, 0xca273eceea26619c,
   0xd186b8c721c0c207, 0xeada7dd6cde0eb1e, 0xf57d4f7fee6ed178, 0x06f067aa72176fba, 0x0a637dc5a2c898a6,
   0x113f9804bef90dae, 0x1b710b35131c471b, 0x28db77f523047d84, 0x32caab7b40c72493, 0x3c9ebe0a15c9bebc,
   0x431d67c49c100d4c, 0x4cc5d4becb3e42b6, 0x597f299cfc657e2a, 0x5fcb6fab3ad6faec, 0x6c44198c4a475817]

/-- The initial hash value of SHA-384. -/
def shaH : List (BitVec 64) :=
  [0xcbbb9d5dc1059ed8, 0x629a292a367cd507, 0x9159015a3070dd17, 0x152fecd8f70e5939, 0x67332667ffc00b31,
   0x8eb44a8768581511, 0xdb0c2e0d64f98fa7, 0x47b5481dbefa4fa4]

def bigSigma (x : BitVec 64) (a b c : Nat) : BitVec 64 := x.rotateRight a ^^^ x.rotateRight b ^^^ x.rotateRight c
def smallSigma (x : BitVec 64) (a b c : Nat) : BitVec 64 := x.rotateRight a ^^^ x.rotateRight b ^^^ (x >>> c)

/-- The message schedule, newest word first: `fuel` more words. -/
def shaSchedule : Nat → List (BitVec 64) → List (BitVec 64)
  | 0, w => w
  | fuel + 1, w =>
    shaSchedule fuel
      ((smallSigma (w.getD 1 0) 19 61 6 + w.getD 6 0 + smallSigma (w.getD 14 0) 1 8 7 + w.getD 15 0) :: w)

/-- One round. -/
def shaRound (v : List (BitVec 64)) (kw : BitVec 64 × BitVec 64) : List (BitVec 64) :=
  match v with
  | [a, b, c, d, e, f, g, h] =>
    let t1 := h + bigSigma e 14 18 41 + ((e &&& f) ^^^ (~~~e &&& g)) + kw.1 + kw.2
    let t2 := bigSigma a 28 34 39 + ((a &&& b) ^^^ (a &&& c) ^^^ (b &&& c))
    [t1 + t2, a, b, c, d + t1, e, f, g]
  | _ => v

/-- One 128-byte block. -/
def shaBlock (h : List (BitVec 64)) (block : List Byte) : List (BitVec 64) :=
  let w := (chunk8 16 block).map (fun bs => BitVec.ofNat 64 (beNat bs))
  let s := (shaSchedule 64 w.reverse).reverse
  List.zipWith (· + ·) h ((shaK.zip s).foldl shaRound h)
where
  /-- `k` pieces of 8 bytes. -/
  chunk8 : Nat → List Byte → List (List Byte)
    | 0, _ => []
    | k + 1, bs => bs.take 8 :: chunk8 k (bs.drop 8)

/-- `k` blocks one after the other. -/
def shaBlocks : Nat → List (BitVec 64) → List Byte → List (BitVec 64)
  | 0, h, _ => h
  | k + 1, h, bs => shaBlocks k (shaBlock h (bs.take 128)) (bs.drop 128)

/-- SHA-384 of bytes: 48 bytes. -/
def sha384 (bs : List Byte) : List Byte :=
  let n := bs.length
  let zeros := (128 - (n + 17) % 128) % 128
  let msg := bs ++ [0x80] ++ List.replicate zeros 0 ++ beBytes 16 (8 * n)
  ((shaBlocks (msg.length / 128) shaH msg).flatMap (fun w => beBytes 8 w.toNat)).take 48

/-- HMAC-SHA-384 (RFC 2104). -/
def hmac384 (key msg : List Byte) : List Byte :=
  let k := padTo 128 (if 128 < key.length then sha384 key else key)
  sha384 (k.map (· ^^^ 0x5C) ++ sha384 (k.map (· ^^^ 0x36) ++ msg))

/-- The output blocks of HKDF-Expand (RFC 5869), from block `i` on. -/
def hkdfBlocks (prk info : List Byte) : Nat → Nat → List Byte → List Byte
  | 0, _, _ => []
  | fuel + 1, i, prev =>
    let t := hmac384 prk (prev ++ info ++ [BitVec.ofNat 8 i])
    t ++ hkdfBlocks prk info fuel (i + 1) t

/-- HKDF-SHA-384: `n` bytes, at most 96. -/
def hkdf384 (salt ikm info : List Byte) (n : Nat) : List Byte :=
  (hkdfBlocks (hmac384 salt ikm) info 2 1 []).take n

/-! AES-256 (FIPS 197) and GCM (SP 800-38D). -/

/-- The S-box, entry k in bits 8k to 8k + 7. -/
def sboxWord : Nat := 0x16bb54b00f2d99416842e6bf0d89a18cdf2855cee9871e9b948ed9691198f8e19e1dc186b95735610ef6034866b53e708a8bbd4b1f74dde8c6b4a61c2e2578ba08ae7a65eaf4566ca94ed58d6d37c8e779e4959162acd3c25c2406490a3a32e0db0b5ede14b8ee4688902a22dc4f816073195d643d7ea7c41744975fec130ccdd2f3ff1021dab6bcf5389d928f40a351a89f3c507f02f94585334d43fbaaefd0cf584c4a39becb6a5bb1fc20ed00d153842fe329b3d63b52a05a6e1b1a2c830975b227ebe28012079a059618c323c7041531d871f1e5a534ccf73f362693fdb7c072a49cafa2d4adf04759fa7dc982ca76abd7fe2b670130c56f6bf27b777c63

def sbox (b : Byte) : Byte := BitVec.ofNat 8 (sboxWord / 2 ^ (8 * b.toNat))

/-- Multiply by x in GF(2^8). -/
def xtime (b : Byte) : Byte := (b <<< 1) ^^^ (if b.toNat < 128 then 0 else 0x1B)

/-- The key schedule, newest 4-byte word first: `fuel` more words, the next one numbered `i`. -/
def aesExpand : Nat → Nat → List (List Byte) → List (List Byte)
  | 0, _, w => w
  | fuel + 1, i, w =>
    let t := w.getD 0 []
    let t' :=
      if i % 8 = 0 then
        match t.map sbox with
        | [a, b, c, d] => [b ^^^ BitVec.ofNat 8 (2 ^ (i / 8 - 1)), c, d, a]
        | u => u
      else if i % 8 = 4 then t.map sbox else t
    aesExpand fuel (i + 1) (List.zipWith (· ^^^ ·) (w.getD 7 []) t' :: w)

/-- The 15 round keys of 16 bytes. -/
def aesKeys (key : List Byte) : List (List Byte) :=
  let w := (aesExpand 52 8 ((List.range 8).map (fun k => cut key (4 * k) 4)).reverse).reverse
  (List.range 15).map (fun r => (cutWords w (4 * r)).flatten)
where
  /-- four words from an index. -/
  cutWords (w : List (List Byte)) (k : Nat) : List (List Byte) := (w.drop k).take 4

def shiftRows (s : List Byte) : List Byte :=
  (List.range 16).map (fun i => s.getD ((i + 4 * (i % 4)) % 16) 0)

def mixColumn (a b c d : Byte) : Byte := xtime a ^^^ (xtime b ^^^ b) ^^^ c ^^^ d

def mixColumns (s : List Byte) : List Byte :=
  (List.range 16).map (fun i =>
    let c := i / 4 * 4
    mixColumn (s.getD i 0) (s.getD (c + (i + 1) % 4) 0) (s.getD (c + (i + 2) % 4) 0) (s.getD (c + (i + 3) % 4) 0))

/-- The middle rounds, then the last. -/
def aesRounds : List (List Byte) → List Byte → List Byte
  | [], s => s
  | [k], s => List.zipWith (· ^^^ ·) (shiftRows (s.map sbox)) k
  | k :: ks, s => aesRounds ks (List.zipWith (· ^^^ ·) (mixColumns (shiftRows (s.map sbox))) k)

/-- One 16-byte block under expanded keys. -/
def aesBlock (ks : List (List Byte)) (b : List Byte) : List Byte :=
  aesRounds ks.tail (List.zipWith (· ^^^ ·) b (ks.getD 0 []))

/-- The product of GCM's field: bit `fuel` down of y. -/
def ghashMul (x : Nat) : Nat → Nat → Nat → Nat
  | 0, _, z => z
  | fuel + 1, v, z =>
    ghashMul x fuel (if v % 2 = 1 then v / 2 ^^^ 0xE1000000000000000000000000000000 else v / 2)
      (if bitOf x fuel then z ^^^ v else z)

/-- GHASH over whole blocks. -/
def ghash (h : Nat) : Nat → List Byte → Nat → Nat
  | 0, _, y => y
  | fuel + 1, bs, y => ghash h fuel (bs.drop 16) (ghashMul (y ^^^ beNat (bs.take 16)) 128 h 0)

/-- The bytes padded with zeros to whole blocks of 16. -/
def pad16 (bs : List Byte) : List Byte := padTo (roundUp bs.length 16) bs

/-- Counter mode from counter `c` on. -/
def gcmCtr (ks : List (List Byte)) (nonce : List Byte) : Nat → Nat → List Byte → List Byte
  | 0, _, _ => []
  | fuel + 1, c, bs =>
    List.zipWith (· ^^^ ·) (bs.take 16) (aesBlock ks (nonce ++ beBytes 4 c)) ++ gcmCtr ks nonce fuel (c + 1) (bs.drop 16)

/-- The GCM tag of a ciphertext. -/
def gcmTag (ks : List (List Byte)) (nonce aad ct : List Byte) : List Byte :=
  let h := beNat (aesBlock ks (List.replicate 16 0))
  let msg := pad16 aad ++ pad16 ct ++ beBytes 8 (8 * aad.length) ++ beBytes 8 (8 * ct.length)
  let s := ghash h (msg.length / 16) msg 0
  List.zipWith (· ^^^ ·) (beBytes 16 s) (aesBlock ks (nonce ++ beBytes 4 1))

/-- AES-256-GCM encryption: ciphertext, then the 16-byte tag. -/
def gcmSeal (key nonce aad pt : List Byte) : List Byte :=
  let ks := aesKeys key
  let ct := gcmCtr ks nonce (divUp pt.length 16) 2 pt
  ct ++ gcmTag ks nonce aad ct

/-- AES-256-GCM decryption of ciphertext and tag; none when authentication fails. -/
def gcmOpen (key nonce aad sealed : List Byte) : Option (List Byte) :=
  let ks := aesKeys key
  let n := sealed.length - 16
  let ct := sealed.take n
  if sealed.length < 16 then none
  else if gcmTag ks nonce aad ct = sealed.drop n then some (gcmCtr ks nonce (divUp n 16) 2 ct) else none

/-! P-384 and ECDSA (FIPS 186, SEC 1). -/

def p384 : Nat := 2 ^ 384 - 2 ^ 128 - 2 ^ 96 + 2 ^ 32 - 1
def p384B : Nat := 0xb3312fa7e23ee7e4988e056be3f82d19181d9c6efe8141120314088f5013875ac656398d8a2ed19d2a85c8edd3ec2aef
def p384N : Nat := 0xffffffffffffffffffffffffffffffffffffffffffffffffc7634d81f4372ddf581a0db248b0a77aecec196accc52973
def p384Gx : Nat := 0xaa87ca22be8b05378eb1c71ef320ad746e1d3b628ba79b9859f741e082542a385502f25dbf55296c3a545e3872760ab7
def p384Gy : Nat := 0x3617de4a96262c6f5d9e98bf9292dc29f8f41dbd289a147ce9da3113b5f0b8c00a60b1ce1d7e819d7a431d7c90ea0e5f

/-- b^e mod m, over `fuel` bits of e. -/
def powMod (m : Nat) : Nat → Nat → Nat → Nat
  | 0, _, _ => 1 % m
  | fuel + 1, b, e =>
    let r := powMod m fuel (b * b % m) (e / 2)
    if e % 2 = 1 then b * r % m else r

/-- The inverse modulo a 384-bit prime. -/
def invMod (m a : Nat) : Nat := powMod m 384 a (m - 2)

def subMod (a b : Nat) : Nat := (a + p384 - b % p384) % p384

/-- A point of P-384 in Jacobian coordinates; z = 0 is the point at infinity. -/
structure JPoint where
  x : Nat
  y : Nat
  z : Nat
  deriving DecidableEq, Repr

def JPoint.double (q : JPoint) : JPoint :=
  let zz := q.z * q.z % p384
  let m := 3 * subMod q.x zz * ((q.x + zz) % p384) % p384
  let yy := q.y * q.y % p384
  let s := 4 * q.x * yy % p384
  let x := subMod (m * m % p384) (2 * s)
  { x := x, y := subMod (m * subMod s x % p384) (8 * yy * yy % p384), z := 2 * q.y * q.z % p384 }

def JPoint.add (a b : JPoint) : JPoint :=
  if a.z = 0 then b else if b.z = 0 then a else
  let za := a.z * a.z % p384
  let zb := b.z * b.z % p384
  let u1 := a.x * zb % p384
  let u2 := b.x * za % p384
  let s1 := a.y * zb * b.z % p384
  let s2 := b.y * za * a.z % p384
  if u1 = u2 then (if s1 = s2 then a.double else { x := 1, y := 1, z := 0 }) else
  let h := subMod u2 u1
  let r := subMod s2 s1
  let hh := h * h % p384
  let v := u1 * hh % p384
  let x := subMod (subMod (r * r % p384) (hh * h % p384)) (2 * v)
  { x := x, y := subMod (r * subMod v x % p384) (s1 * hh * h % p384), z := h * a.z * b.z % p384 }

/-- k × q over `fuel` bits of k. -/
def JPoint.mul : Nat → Nat → JPoint → JPoint
  | 0, _, _ => { x := 1, y := 1, z := 0 }
  | fuel + 1, k, q =>
    let r := JPoint.mul fuel (k / 2) q.double
    if k % 2 = 1 then r.add q else r

/-- The affine coordinates. -/
def JPoint.affine (q : JPoint) : Nat × Nat :=
  let i := invMod p384 q.z
  (q.x * i * i % p384, q.y * i * i * i % p384)

/-- k × (x, y). -/
def ecMul (k x y : Nat) : Nat × Nat := (JPoint.mul 384 k { x := x, y := y, z := 1 }).affine

/-- The public point of a private scalar. -/
def ecPublic (k : Nat) : Nat × Nat := ecMul k p384Gx p384Gy

/-- The point lies on P-384 (R362). -/
def onCurve (x y : Nat) : Bool :=
  x < p384 && y < p384 && y * y % p384 = subMod (x * x * x + p384B) (3 * x)

/-- A scalar from 1 to n − 1 taken from any number. -/
def ecScalar (v : Nat) : Nat := v % (p384N - 1) + 1

/-- The ECDSA signature (r, s) of a digest with private key d and nonce k. -/
def ecSign (d k : Nat) (digest : List Byte) : Nat × Nat :=
  let r := (ecPublic k).1 % p384N
  (r, invMod p384N k * (beNat digest + r * d) % p384N)

end Sys2Proof.Machine
end

