-- ==== Sys2Proof/Machine/Ops.lean ====
section
/-! DEFINITION. The named operations over the state that the meanings share: entries by number, time, free values,
counters, live units, notices, completion rings, replies. -/

namespace Sys2Proof.Machine

/-! Entries by number. -/

def Chip.queue (c : Chip) (q : Nat) : Queue := tget (Queue.initial q) c.queues q
def Chip.setQueue (c : Chip) (q : Nat) (v : Queue) : Chip := { c with queues := tput c.queues q v }
def Chip.onQueue (c : Chip) (q : Nat) (f : Queue → Queue) : Chip := c.setQueue q (f (c.queue q))

def Chip.noticeQ (c : Chip) (n : Nat) : NoticeQ := tget NoticeQ.initial c.notices n
def Chip.setNoticeQ (c : Chip) (n : Nat) (v : NoticeQ) : Chip := { c with notices := tput c.notices n v }
def Chip.onNoticeQ (c : Chip) (n : Nat) (f : NoticeQ → NoticeQ) : Chip := c.setNoticeQ n (f (c.noticeQ n))

def Chip.core (c : Chip) (n : Nat) : Core := tget Core.initial c.cores n
def Chip.setCore (c : Chip) (n : Nat) (v : Core) : Chip := { c with cores := tput c.cores n v }

def Chip.feed (c : Chip) (n : Nat) : Feed := tget Feed.initial c.feeds n
def Chip.setFeed (c : Chip) (n : Nat) (v : Feed) : Chip := { c with feeds := tput c.feeds n v }

def Chip.ethPort (c : Chip) (e : Nat) : EthPort := tget EthPort.initial c.eth e
def Chip.onEth (c : Chip) (e : Nat) (f : EthPort → EthPort) : Chip := { c with eth := tput c.eth e (f (c.ethPort e)) }

def Chip.link (c : Chip) (k : Nat) : Link := tget Link.initial c.links k
def Chip.setLink (c : Chip) (k : Nat) (v : Link) : Chip := { c with links := tput c.links k v }
def Chip.onLink (c : Chip) (k : Nat) (f : Link → Link) : Chip := c.setLink k (f (c.link k))

def Chip.cxlPort (c : Chip) (x : Nat) : Cxl := tget Cxl.initial c.cxl x
def Chip.setCxl (c : Chip) (x : Nat) (v : Cxl) : Chip := { c with cxl := tput c.cxl x v }

def Chip.inst (c : Chip) (i : Nat) : Inst := tget Inst.initial c.insts i
def Chip.setInst (c : Chip) (i : Nat) (v : Inst) : Chip := { c with insts := tput c.insts i v }
def Chip.onInst (c : Chip) (i : Nat) (f : Inst → Inst) : Chip := c.setInst i (f (c.inst i))
def Chip.job (c : Chip) (i : Nat) : Job := (c.inst i).job
def Chip.onJob (c : Chip) (i : Nat) (f : Job → Job) : Chip := c.onInst i (fun n => { n with job := f n.job })

def Chip.tile (c : Chip) (t : Nat) : Tile := tget Tile.initial c.tiles t
def Chip.setTile (c : Chip) (t : Nat) (v : Tile) : Chip := { c with tiles := tput c.tiles t v }
def Chip.onTile (c : Chip) (t : Nat) (f : Tile → Tile) : Chip := c.setTile t (f (c.tile t))

def Chip.engine (c : Chip) (e : Nat) : Engine := tget Engine.initial c.engines e
def Chip.setEngine (c : Chip) (e : Nat) (v : Engine) : Chip := { c with engines := tput c.engines e v }

def Chip.group (c : Chip) (g : Nat) : Group := tget Group.initial c.groups g
def Chip.setGroup (c : Chip) (g : Nat) (v : Group) : Chip := { c with groups := tput c.groups g v }
def Chip.onGroup (c : Chip) (g : Nat) (f : Group → Group) : Chip := c.setGroup g (f (c.group g))

/-- A group entry that is no longer set (R313, R380): its counters stay until GROUP_SET or cold reset. -/
def Group.unset (g : Group) : Group := { Group.initial with trail := g.trail, trailRun := g.trailRun, waits := g.waits }

/-- The number under which a unit is listed in `units` and `buckets`. -/
def unitKey (u : UnitId) : Nat := u.cls * 65536 + u.idx

def Chip.unit (c : Chip) (u : UnitId) : UnitCtl := tget UnitCtl.initial c.units (unitKey u)
def Chip.setUnit (c : Chip) (u : UnitId) (v : UnitCtl) : Chip := { c with units := tput c.units (unitKey u) v }

def Chip.session (c : Chip) (n : Nat) : Option Session := tfind c.sessions n

/-- Add to the record of what the ports send. -/
def Chip.emit (c : Chip) (o : Out) : Chip := { c with out := c.out ++ [o] }

/-! Free values (log 1). -/

/-- The next free number. -/
def Chip.freeNow (c : Chip) : Nat := Config.freeNat c.freeCount

/-- Count one draw. -/
def Chip.drew (c : Chip) : Chip := { c with freeCount := c.freeCount + 1 }

/-! Time (R371, R379, R396). -/

/-- The time base in sc. -/
def Chip.sc (c : Chip) : Nat := c.tc / 8

/-- The instance runs a job. -/
def Chip.jobRuns (c : Chip) (i : Nat) : Bool := (c.job i).phase ≠ .noJob

/-- The step epoch that decides which dense objects are pending (R25): the job's, also after its end while its dense
updates run on (R12, R224; DEDUCED, log 29). -/
def Chip.stepEpoch (c : Chip) (i : Nat) : Nat :=
  if c.jobRuns i then (c.job i).epoch
  else match (c.inst i).ended with
    | some e => e.job.epoch
    | none => 0

/-- A pending dense object (R25): an update of an earlier step is still to be swapped in. -/
def Chip.pendingObj (c : Chip) (i : Nat) (o : Obj) : Bool := o.due.any (· < c.stepEpoch i)

/-- The time in sc that instance i sees: job time while a job runs (R396). -/
def Chip.instTime (c : Chip) (i : Nat) : Nat :=
  if c.jobRuns i then (((c.tc / 2 : Nat) : Int) + (c.job i).timeOffset).toNat / 4 else c.sc

/-- Rounded down to a multiple of 250 sc (R367). -/
def coarse (t : Nat) : Nat := t / 250 * 250

/-! Counters of the instance block (R379, R380). -/

/-- Raise counter k of instance i, holding it at the top. -/
def Chip.count (c : Chip) (i k n : Nat) : Chip :=
  c.onInst i (fun x => { x with counters := tmod 0 x.counters k (fun v => satAdd v n) })

def Chip.counter (c : Chip) (i k : Nat) : Double := tget 0 (c.inst i).counters k

/-- The conversion counters 5 and 6 (R122). -/
def Chip.countConv (c : Chip) (i nans sats : Nat) : Chip :=
  (if nans = 0 then c else c.count i 5 nans) |> fun c => if sats = 0 then c else c.count i 6 sats

/-! Live units (R82, R148, R384, R385). -/

/-- The die of a tile (R82). -/
def dieOf (t : Nat) : Nat := t % 40 / 20 + 2 * (t / 40 / 20)

/-- The unit is out of service: retired itself, or a tile of a retired die (R384, R385). -/
def Chip.isRetired (c : Chip) (cls idx : Nat) : Bool :=
  c.retired.contains ⟨cls, idx⟩ || (cls = 3 && c.retired.contains ⟨11, dieOf idx⟩)

/-- The block of a tile (R82). -/
def blockOf (t : Nat) : Nat := 10 * (t / 40 / 4) + t % 40 / 4

def Chip.liveTile (c : Chip) (t : Nat) : Bool := t < 1600 && !c.isRetired 3 t

/-- How many of the first n units of a class are live. -/
def Chip.liveCount (c : Chip) (cls n : Nat) : Nat := ((List.range n).filter (fun k => !c.isRetired cls k)).length

def Chip.liveTiles (c : Chip) : Nat := ((List.range 1600).filter (c.liveTile ·)).length

/-- Live pseudo-channels of PC group g. -/
def Chip.livePcs (c : Chip) (g : Nat) : Nat :=
  ((List.range 16).filter (fun j => !c.isRetired 4 (16 * g + j))).length

/-- Live module channels of burrow engine k. -/
def Chip.liveChannels (c : Chip) (k : Nat) : Nat :=
  ((List.range 12).filter (fun j => !c.isRetired 5 (12 * k + j))).length

/-- Tile t belongs to instance i (R82, R348). -/
def Chip.ownsTile (c : Chip) (i t : Nat) : Bool := t < 1600 && (c.inst i).live && (c.inst i).blocks.getLsbD (blockOf t)

/-- The instance that holds tile t, if any. -/
def Chip.ownerOf (c : Chip) (t : Nat) : Option Nat := (List.range 16).find? (fun i => c.ownsTile i t)

/-- The tiles of instance i, in ascending number. -/
def Chip.tilesOf (c : Chip) (i : Nat) : List Nat := (List.range 1600).filter (c.ownsTile i ·)

/-- Instances that exist. -/
def Chip.liveInsts (c : Chip) : List Nat := (List.range 16).filter (fun i => (c.inst i).live)

/-! Notices (R71 to R75). -/

/-- SEVERITY of a notice code (R75). -/
def severityOf (code : Nat) : Nat :=
  if [0x13, 0x14, 0x31].contains code then 2
  else if [0x11, 0x12, 0x15, 0x16, 0x20, 0x21, 0x30, 0x32, 0x41].contains code then 1 else 0

/-- Put an occurrence into a notice queue: raise the COUNT of an entry not yet sent, or take a new entry, or drop it
(R73, R74). -/
def NoticeQ.add (q : NoticeQ) (code : Nat) (subject detail : Double) (time : Nat) : NoticeQ :=
  let same := fun (e : NEntry) => e.sent.isNone && e.code.toNat = code && e.subject = subject
  if q.entries.any same then
    { q with entries := q.entries.map (fun e => if same e then { e with count := satAdd e.count 1, detail := detail } else e) }
  else
    let sev := severityOf code
    let room := q.entries.length < 1024 &&
      (sev = 2 || (q.entries.filter (fun e => e.severity ≠ 2)).length < 992)
    if room then
      { q with entries := q.entries ++ [{ code := BitVec.ofNat 16 code, severity := BitVec.ofNat 8 sev, subject := subject,
                                          detail := detail, time := BitVec.ofNat 64 time, count := 1, sent := none }] }
    else { q with dropped := satAdd q.dropped 1, droppedSince := satAdd q.droppedSince 1 }

/-- Raise a notice in the operator's queue (16). -/
def Chip.noticeOp (c : Chip) (code subject detail : Nat) : Chip :=
  c.onNoticeQ 16 (·.add code (BitVec.ofNat 64 subject) (BitVec.ofNat 64 detail) c.sc)

/-- Raise a notice in the queue of an instance. -/
def Chip.noticeInst (c : Chip) (i code subject detail : Nat) : Chip :=
  c.onNoticeQ i (·.add code (BitVec.ofNat 64 subject) (BitVec.ofNat 64 detail) (coarse (c.instTime i)))

/-- Raise a notice at the operator and at the instances it concerns (R75). -/
def Chip.notify (c : Chip) (insts : List Nat) (code subject detail : Nat) : Chip :=
  insts.foldl (fun c i => c.noticeInst i code subject detail) (c.noticeOp code subject detail)

/-! Packets (R47, R61, R71). -/

/-- The bytes of a header and parameters, the CRC filled in (R47, R48). -/
def packetBytes (version opcode inst flags : Byte) (tag : Word) (params : List Byte) : List Byte :=
  let head := [version, opcode, inst, flags] ++ leBytes 4 tag.toNat ++ leBytes 4 (16 + params.length)
  head ++ leBytes 4 (crc32c (head ++ params)) ++ params

/-- The GCM nonce of R363. -/
def gcmNonce (ident : Word) (q dir : Nat) (tag : Word) : List Byte :=
  leBytes 4 ident.toNat ++ leBytes 2 q ++ [BitVec.ofNat 8 dir, 0] ++ leBytes 4 tag.toNat

/-- The 32 bytes of a session key. -/
def keyBytes (k : BitVec 256) : List Byte := beBytes 32 k.toNat

/-- The additional authenticated data of R49: the header. Its CRC depends on the ciphertext, so it counts as 0
(DESIGN CHOICE, log 16). -/
def headerAad (version opcode inst flags : Byte) (tag : Word) (length : Nat) : List Byte :=
  [version, opcode, inst, flags] ++ leBytes 4 tag.toNat ++ leBytes 4 length ++ [0, 0, 0, 0]

/-- The packet as it travels: sealed under the session's key where it has one (R49, R59, R363). -/
def Packet.wire (p : Packet) (s : Option Session) (q dir : Nat) : List Byte :=
  match s.bind (fun s => s.key.map (fun k => (s.ident, k))) with
  | none => packetBytes p.version p.opcode p.inst p.flags p.tag p.params
  | some (ident, k) =>
    packetBytes p.version p.opcode p.inst p.flags p.tag
      (gcmSeal (keyBytes k) (gcmNonce ident q dir p.tag)
        (headerAad p.version p.opcode p.inst p.flags p.tag (32 + p.params.length)) p.params)

/-- The SEC flag of a packet of a session that has a key (R49, R59). -/
def secFlag (s : Option Session) : Byte := if (s.bind (·.key)).isSome then 0x20 else 0

/-- Slots of a packet of n bytes (R55). -/
def slotsOf (n : Nat) : Nat := divUp n 56

/-- Bytes 0 to 63 of slot `idx` of a packet (R55); in a completion slot WEPOCH carries the lap (R324). -/
def slotBytes (wire : List Byte) (idx : Nat) (wepoch : Half) (last : Bool) : List Byte :=
  padTo 56 (cut wire (56 * idx) 56) ++ leBytes 8 (idx + wepoch.toNat * 2 ^ 32 + bit last * 2 ^ 63)

/-- The lap after a lap: it skips 0 (R324). -/
def nextLap (l : Half) : Half := if l = 0xFFFF then 1 else l + 1

/-- Number of slots of a ring. -/
def Queue.depth (q : Queue) : Nat := 2 ^ q.depthLog2

/-- Write position and lap after one slot. -/
def ringNext (depth : Nat) (p : Nat × Half) : Nat × Half :=
  if p.1 + 1 < depth then (p.1 + 1, p.2) else (0, nextLap p.2)

/-- Write position and lap after n slots. -/
def ringAfter (depth : Nat) : Nat → Nat × Half → Nat × Half
  | 0, p => p
  | n + 1, p => ringAfter depth n (ringNext depth p)

/-! Control cores (R318, R319, R322): traps as the RISC-V privileged architecture that R318 names gives them (PRESUMED,
log 101). -/

def Priv.code : Priv → Nat
  | .user => 0
  | .supervisor => 1
  | .machine => 3

def Core.csr (k : Core) (n : Nat) : Nat := (tget 0 k.csrs n).toNat
def Core.setCsr (k : Core) (n v : Nat) : Core := { k with csrs := tput k.csrs n (BitVec.ofNat 64 v) }

/-- mstatus with interrupts off: the interrupt enable at bit `ie` moves to `pie`, and the former mode goes into the
`w`-bit field at `pp`. -/
def trapStatus (v ie pie pp w mode : Nat) : Nat :=
  let keep := v - bits v ie ie * 2 ^ ie - bits v pie pie * 2 ^ pie - bits v (pp + w - 1) pp * 2 ^ pp
  keep + bits v ie ie * 2 ^ pie + mode * 2 ^ pp

/-- The handler's address of a trap vector: an interrupt in vectored mode enters at 4 bytes for each cause. -/
def trapPc (tvec cause : Nat) (interrupt : Bool) : Double :=
  BitVec.ofNat 64 (tvec / 4 * 4 + (if interrupt && tvec % 4 = 1 then 4 * cause else 0))

/-- A core takes a trap: in machine mode, or in supervisor mode where medeleg or mideleg delegates it. -/
def Core.trap (k : Core) (cause : Nat) (interrupt : Bool) (tval : Nat) : Core :=
  let code := cause + (if interrupt then 2 ^ 63 else 0)
  let st := k.csr 0x300
  if k.mode ≠ .machine && bitOf (k.csr (if interrupt then 0x303 else 0x302)) cause then
    { ((((k.setCsr 0x141 k.pc.toNat).setCsr 0x142 code).setCsr 0x143 tval).setCsr 0x300
        (trapStatus st 1 5 8 1 (k.mode.code % 2))) with
      mode := .supervisor, pc := trapPc (k.csr 0x105) cause interrupt, run := .running, resv := none }
  else
    { ((((k.setCsr 0x341 k.pc.toNat).setCsr 0x342 code).setCsr 0x343 tval).setCsr 0x300
        (trapStatus st 3 7 11 2 k.mode.code)) with
      mode := .machine, pc := trapPc (k.csr 0x305) cause interrupt, run := .running, resv := none }

/-- The core's external interrupt is asserted: a bit is set both in PENDING and in ENABLE (R322). -/
def Core.external (k : Core) : Bool := k.pending &&& k.enable ≠ 0

/-- A core meets its external interrupt (R322, R393, R397): one that waits wakes, and one whose mie and mstatus let it
takes it, with cause 11. -/
def Core.meet (k : Core) : Core :=
  if k.run = .halted || !k.external then k
  else if bitOf (k.csr 0x304) 11 && (k.mode ≠ .machine || bitOf (k.csr 0x300) 3) then k.trap 11 true 0
  else { k with run := .running }

/-- A core with an access fault (R319, R320): cause 5 for a load, 7 for a store. -/
def Chip.accessFault (c : Chip) (k addr : Nat) (store : Bool) : Chip :=
  c.setCore k ((c.core k).trap (if store then 7 else 5) false addr)

/-! Interrupts (R322, R327). -/

/-- Raise core interrupt vector v (R322). -/
def Chip.raiseVector (c : Chip) (v : Nat) : Chip :=
  let k := c.core (v / 16)
  c.setCore (v / 16) ({ k with pending := k.pending ||| BitVec.ofNat 16 (2 ^ (v % 16)) } : Core).meet

def Chip.msixEntry (c : Chip) (e : Nat) : MsixEntry := tget MsixEntry.initial c.pcie.msix e
def Chip.setMsix (c : Chip) (e : Nat) (m : MsixEntry) : Chip :=
  { c with pcie := { c.pcie with msix := tput c.pcie.msix e m } }

/-- The entry, the function mask and MSI-X Enable allow a message (R327). -/
def Chip.msixOpen (c : Chip) (e : Nat) : Bool :=
  c.pcie.msixEnable && !c.pcie.functionMask && !(c.msixEntry e).masked

/-- Send the message of an MSI-X entry, or set its PBA bit (R327). -/
def Chip.raiseMsix (c : Chip) (e : Nat) : Chip :=
  let m := c.msixEntry e
  if c.msixOpen e then c.emit (.msix e m.addr m.data) else c.setMsix e { m with pba := true }

/-! Completion rings (R324) and UDP replies (R338, R339). -/

/-- Slots in use or reserved leave this many free (R324). -/
def Queue.freeSlots (q : Queue) : Nat :=
  let used := (q.cWrite + q.depth - q.cHead) % q.depth
  q.depth - 1 - (if q.route = .udp then 0 else used) - q.reserved

/-- The slots of a packet, each with its ring address, from position and lap on. -/
def ringWrites (depth base : Nat) (wire : List Byte) (n : Nat) : Nat → Nat × Half → List (Nat × List Byte)
  | 0, _ => []
  | k + 1, p =>
    (base + 64 * p.1, slotBytes wire (n - (k + 1)) p.2 (k = 0)) :: ringWrites depth base wire n k (ringNext depth p)

/-- The transport header of R338. -/
def udpHeader (msg : Word) (q : Nat) (wepoch : Half) (segs seg kind : Nat) (jumbo : Bool) (len : Nat) : BitVec 128 :=
  BitVec.ofNat 128 (msg.toNat * 2 ^ 96 + q * 2 ^ 80 + wepoch.toNat * 2 ^ 64 + segs * 2 ^ 56 + seg * 2 ^ 48 +
    kind * 2 ^ 40 + bit jumbo * 2 ^ 32 + len * 2 ^ 16 + 0x1CF0)

/-- The Ethernet port carries frames: its unit is enabled and not retired (R337). -/
def Chip.ethUp (c : Chip) (e : Nat) : Bool := (c.unit ⟨1, e⟩).st = .enabled

/-- IPv4 and IPv6 addresses of a port; 0 is none (R336, R390). -/
def Chip.ipv4 (c : Chip) (port : Nat) : Word := c.boot.ipv4.getD port 0
def Chip.ipv6 (c : Chip) (port : Nat) : BitVec 128 := c.boot.ipv6.getD port 0

/-- The VLAN ID of a port, if its VLAN is in use (R335, R388). -/
def Chip.vlan (c : Chip) (port : Nat) : Option Nat :=
  let v := c.boot.vlan.getD port 0
  if v.getLsbD 15 then some (bits v.toNat 11 0) else none

/-- An IPv4 address as the IPv6 address ::FFFF:a.b.c.d (R342). -/
def mapped (a : Word) : BitVec 128 := BitVec.ofNat 128 (0xFFFF * 2 ^ 32 + a.toNat)

/-- An address stands for an IPv4 address. -/
def isV4 (a : BitVec 128) : Bool := a.toNat / 2 ^ 32 = 0xFFFF

/-- An address is one of a port's own (R336). -/
def Chip.ownAddr (c : Chip) (port : Nat) (a : BitVec 128) : Bool :=
  (a ≠ 0 && a = c.ipv6 port) || (c.ipv4 port ≠ 0 && a = mapped (c.ipv4 port))

/-- The own address from which a port answers an address: of the same IP version. -/
def Chip.sourceFor (c : Chip) (port : Nat) (a : BitVec 128) : BitVec 128 :=
  if isV4 a then mapped (c.ipv4 port) else c.ipv6 port

/-- The sum of big-endian halves, an odd last byte standing high. -/
def sumHalves : List Byte → Nat
  | [] => 0
  | [a] => 256 * a.toNat
  | a :: b :: r => 256 * a.toNat + b.toNat + sumHalves r

/-- One's complement sum in 16 bits. -/
def foldHalves (n : Nat) : Nat :=
  let once := fun n => n % 65536 + n / 65536
  once (once (once n))

/-- The bytes of an IP address as its header carries them. -/
def ipBytes (a : BitVec 128) : List Byte := if isV4 a then beBytes 4 (a.toNat % 2 ^ 32) else beBytes 16 a.toNat

/-- The UDP checksum of a datagram (R335; PRESUMED from RFC 768 and RFC 8200, log 82). -/
def udpSum (src dst : BitVec 128) (sport dport : Half) (payload : List Byte) : Half :=
  let n := 8 + payload.length
  let s := 0xFFFF - foldHalves (sumHalves (ipBytes src ++ ipBytes dst) + 17 + n + sport.toNat + dport.toNat + n + sumHalves payload)
  BitVec.ofNat 16 (if s = 0 then 0xFFFF else s)

/-- The UDP port of ICP (R338). -/
def icpPort : Half := 47610

/-- Send a packet to a UDP peer, in segments (R335, R338). -/
def Chip.sendUdp (c : Chip) (q : Nat) (peer : UdpPeer) (kind : Nat) (msg : Word) (wire : List Byte) : Chip :=
  let jumbo := c.boot.jumbo.getLsbD peer.port
  let size := if jumbo then 8192 else 1024
  let segs := max 1 (divUp wire.length size)
  let src := c.sourceFor peer.port peer.addr
  let c := (List.range segs).foldl (fun c k =>
    let seg := cut wire (size * k) size
    let hdr := udpHeader msg q 0 segs k kind jumbo seg.length
    c.emit (.datagram peer (c.vlan peer.port) src (udpSum src peer.addr icpPort peer.uport (leBytes 16 hdr.toNat ++ seg))
      hdr seg)) c
  c.onEth peer.port (fun e => { e with tx := satAdd e.tx segs })

/-! Frames that arrive (R335 to R337, R379). -/

/-- A frame matches nothing in use at its port: dropped and counted. -/
def Chip.noMatch (c : Chip) (port : Nat) : Chip := c.onEth port (fun e => { e with noMatch := satAdd e.noMatch 1 })

/-- A frame is malformed, fragmented or oversize: dropped and counted. -/
def Chip.malformed (c : Chip) (port : Nat) : Chip := c.onEth port (fun e => { e with malformed := satAdd e.malformed 1 })

/-- A frame of a port with n bytes above its Ethernet header: a port that is not enabled drops every frame, a frame
above 9,216 bytes is oversize, one without the port's VLAN matches nothing. The frame counts from its destination
address to its check sequence (DEDUCED, log 82). -/
def Chip.frame (c : Chip) (port : Nat) (vlan : Option Nat) (n : Nat) (f : Chip → Chip) : Chip :=
  if 2 ≤ port || !c.ethUp port then c
  else
    let c := c.onEth port (fun e => { e with rx := satAdd e.rx 1 })
    if 9216 < 18 + (if vlan.isSome then 4 else 0) + n then c.malformed port
    else if vlan ≠ c.vlan port then c.noMatch port
    else f c

/-- A UDP datagram of a port: for its own MAC and IP address, and with a right checksum. An IPv4 datagram with checksum 0
carries none. -/
def Chip.udpIn (c : Chip) (port : Nat) (f : Frame) (sport dport checksum : Half) (payload : List Byte) (k : Chip → Chip) : Chip :=
  c.frame port f.vlan ((if isV4 f.dst then 28 else 48) + payload.length) (fun c =>
    if f.mac ≠ Config.mac port || !c.ownAddr port f.dst then c.noMatch port
    else if checksum ≠ udpSum f.src f.dst sport dport payload && !(isV4 f.dst && checksum = 0) then c.malformed port
    else k c)

/-- Count slots or doorbells dropped (R76). -/
def Queue.addStale (q : Queue) (n : Nat) : Queue := { q with stale := satAdd q.stale n }

/-- Write a packet to the completion ring of queue q, or send it to its peer; then its interrupt (R49, R55, R322, R324,
R327, R337, R339). What leaves the module are the 64-byte slots of the packet as it travels, at their ring addresses: in
host memory on the on-die route, as posted writes on the PCIe route. `kind` is 2 for a reply and 3 for a notice, `msg`
the MSG of R338. -/
def Chip.deliver (c : Chip) (q kind : Nat) (msg : Word) (s : Option Session) (p : Packet) : Chip :=
  let u := c.queue q
  let wire := p.wire s q (kind - 1)
  let n := slotsOf wire.length
  match u.route with
  | .udp =>
    match u.peer.orElse (fun _ => u.lastPeer) with
    | none => c.setQueue q (u.addStale n)
    | some peer => if c.ethUp peer.port then c.sendUdp q peer kind msg wire else c.setQueue q (u.addStale n)
  | .pcie =>
    if c.pcie.linkUp then
      let e := ringAfter u.depth n (u.cWrite, u.lap)
      let c := (ringWrites u.depth u.cring wire n n (u.cWrite, u.lap)).foldl
        (fun (c : Chip) w => c.emit (.pcieWrite w.1 w.2)) c
      ((c.setQueue q { u with cWrite := e.1, lap := e.2 }).emit (.packet q u.cWrite u.lap p)).raiseMsix u.vector
    else c.setQueue q (u.addStale n)
  | .onDie =>
    let e := ringAfter u.depth n (u.cWrite, u.lap)
    let host := (ringWrites u.depth u.cring wire n n (u.cWrite, u.lap)).foldl
      (fun (h : Mem) (w : Nat × List Byte) => mwrite h w.1 w.2) c.host
    let c := { c with host := host }
    ((c.setQueue q { u with cWrite := e.1, lap := e.2 }).emit (.packet q u.cWrite u.lap p)).raiseVector u.vector

/-! Replies and COMMAND_DONE (R61). -/

/-- The status block of R61. -/
def statusBlock (status detail result : Nat) : List Byte := leBytes 4 status ++ leBytes 4 detail ++ leBytes 8 result

/-- A command that has started and not replied. -/
def Started.isOpen (st : Started) (q : Nat) (tag : Word) : Bool := st.cmd.queue = q && st.cmd.tag = tag && !st.pending

/-- The reference of a command that has started. -/
def Started.ref (st : Started) : Ref := { queue := st.cmd.queue, tag := st.cmd.tag, num := st.num }

/-- The command that a reference names, which has replied PENDING. -/
def Started.isPending (st : Started) (r : Ref) : Bool := st.ref = r && st.pending

/-- A reference is to the command of a queue with a TAG. -/
def Ref.is (r : Ref) (q : Nat) (tag : Word) : Bool := r.queue = q && r.tag = tag

/-- Who is served next in the rounds of R352: the one being served while it has turns left and work, else the next with
work in ascending number, with all its turns; the answer is it and its turns left after this one (the start of a round, log
27). -/
def nextTurn (turn : Nat × Nat) (ready : Nat → Bool) (weight : Nat → Nat) : Option (Nat × Nat) :=
  if 0 < turn.2 && ready turn.1 then some (turn.1, turn.2 - 1)
  else (((List.range 16).map (fun d => (turn.1 + 1 + d) % 16)).find? ready).map (fun i => (i, weight i - 1))

/-- Weight k of instance i: W_SETT, W_BURROW, W_BRUIN, W_PACK, W_STASH, W_LINK (R349). -/
def Chip.weight (c : Chip) (k i : Nat) : Nat := ((c.inst i).weights.getD k 0).toNat

/-- The list without its first element that meets a test. -/
def dropFirst {α : Type} (f : α → Bool) : List α → List α
  | [] => []
  | a :: r => if f a then r else a :: dropFirst f r

/-- The list with its first element that meets a test changed. -/
def modFirst {α : Type} (f : α → Bool) (g : α → α) : List α → List α
  | [] => []
  | a :: r => if f a then g a :: r else a :: modFirst f g r

/-- Enter a reply, or the COMMAND_DONE of a reply, in the cache of a UDP queue (R341). -/
def Queue.remember (u : Queue) (msg tag : Word) (isReply : Bool) (p : Packet) : Queue :=
  if u.route ≠ .udp then u
  else if isReply then
    let k : Cached := { msg := msg, tag := tag, reply := p, done := none }
    { u with cache := (u.cache ++ [k]).drop (u.cache.length + 1 - 64) }
  else { u with cache := u.cache.map (fun k => if k.msg = msg && k.tag = tag then { k with done := some p } else k) }

/-- Write a status reply (R61) to the queue that carried a command: status, DETAIL, RESULT and reply data. After the
session has ended it goes out in clear (DEDUCED, log 83). -/
def Chip.answer (c : Chip) (cmd : Icp) (op : Byte) (msg : Word) (s : Option Session) (status detail result : Nat)
    (data : List Byte) : Chip :=
  let p : Packet :=
    { opcode := op, version := cmd.version, inst := cmd.inst, flags := 0x80 ||| secFlag s, tag := cmd.tag,
      params := statusBlock status detail result ++ data }
  (c.onQueue cmd.queue (·.remember msg cmd.tag true p)).deliver cmd.queue 2 msg s p

/-- Write the one status reply of a started command (R61); its reserved slots are given back, those of a COMMAND_DONE
still to come excepted (R59). -/
def Chip.reply (c : Chip) (q : Nat) (tag : Word) (status detail result : Nat) (data : List Byte) : Chip :=
  match c.started.find? (·.isOpen q tag) with
  | none => c
  | some st =>
    let c := c.onQueue q (fun (u : Queue) =>
      { u with reserved := u.reserved - st.replySlots - (if status = 1 then 0 else st.doneSlots) })
    let c := c.answer st.cmd st.op st.msg (st.session.bind c.session) status detail result data
    { c with started :=
        if status = 1 then modFirst (·.isOpen q tag) (fun st => { st with pending := true }) c.started
        else dropFirst (·.isOpen q tag) c.started }

/-- Parameters of a notice (R71). -/
def noticeParams (code : Half) (count : Half) (severity : Byte) (dropped : Half) (time subject detail : Double) : List Byte :=
  leBytes 2 code.toNat ++ leBytes 2 count.toNat ++ [severity, 0] ++ leBytes 2 dropped.toNat ++ leBytes 8 time.toNat ++
    leBytes 8 subject.toNat ++ leBytes 8 detail.toNat

/-- TIME of a notice on queue q: coarse and job time for an instance's queue (R71, R396). -/
def Chip.queueTime (c : Chip) (q : Nat) : Nat := if q < 256 then coarse (c.instTime (q / 16)) else c.sc

/-- Send the COMMAND_DONE of a command that replied PENDING (R61): final status, and RESULT or DETAIL. Its INSTANCE byte
is the command's (DEDUCED, log 83). -/
def Chip.commandDone (c : Chip) (r : Ref) (status value : Nat) : Chip :=
  match c.started.find? (·.isPending r) with
  | none => c
  | some st =>
    let s := st.session.bind c.session
    let p : Packet :=
      { opcode := 0xF0, version := st.cmd.version, inst := st.cmd.inst, flags := 0x40 ||| secFlag s, tag := r.tag,
        params := noticeParams 2 1 0 0 (BitVec.ofNat 64 (c.queueTime r.queue)) (BitVec.ofNat 64 r.tag.toNat)
          (BitVec.ofNat 64 (status + value % 2 ^ 32 * 2 ^ 32)) }
    let c := c.onQueue r.queue (fun (u : Queue) =>
      let v : Queue := { u with reserved := u.reserved - st.doneSlots }
      v.remember st.msg r.tag false p)
    let c := c.deliver r.queue 3 st.msg s p
    { c with started := dropFirst (·.isPending r) c.started }

/-- COMMAND_DONE for each of several commands. -/
def Chip.doneAll (c : Chip) (rs : List Ref) (status value : Nat) : Chip :=
  rs.foldl (fun c r => c.commandDone r status value) c

/-! Running a meaning behind the supply (R393, R395, R399). -/

/-- An effect on the chip of a booted module; a module that is off, in cold reset or stopped does nothing (log 17).
Outside the input range the module's behaviour is undefined (R399). -/
def onChip (s : State) (f : Chip → Chip) : Host.Outcome State Fault Refusal :=
  if s.power.broken then .fault .supplyUndefined
  else if s.power.phase = .running then .next { s with chip := f s.chip }
  else .next s

end Sys2Proof.Machine
end

