-- ==== Sys2Proof/Machine/Flags.lean ====
section
/-! DEFINITION. The codes that report what happened: status codes (R63), notice codes (R75), descriptor error causes and
the error word (R96), the vote flag (R18). -/

namespace Sys2Proof.Machine

/-! Status codes (R63). -/
def stOK : Nat := 0
def stPending : Nat := 1
def stFlushed : Nat := 2
def stCancelled : Nat := 3
def stCrcError : Nat := 0x100
def stBadVersion : Nat := 0x101
def stBadOpcode : Nat := 0x102
def stBadLength : Nat := 0x103
def stRsvHeader : Nat := 0x104
def stRsvParam : Nat := 0x105
def stDescriptorError : Nat := 0x106
def stBadFlags : Nat := 0x107
def stTagInUse : Nat := 0x108
def stInlineTooLong : Nat := 0x109
def stBadParam : Nat := 0x10A
def stNoSession : Nat := 0x200
def stNotPermitted : Nat := 0x201
def stSecRequired : Nat := 0x202
def stAuthFail : Nat := 0x203
def stNoVersion : Nat := 0x204
def stNoSpace : Nat := 0x300
def stOverQuota : Nat := 0x301
def stGuaranteeRefused : Nat := 0x302
def stRetired : Nat := 0x303
def stNoObject : Nat := 0x304
def stAddrFault : Nat := 0x400
def stWriteProtected : Nat := 0x401
def stStaleSnapshot : Nat := 0x402
def stBadState : Nat := 0x500
def stAborted : Nat := 0x600
def stHostFault : Nat := 0x601

/-- DETAIL of NO_OBJECT when the name is the header's INSTANCE (R63). -/
def noInstance : Nat := 0xFFFFFFFF

/-! Notice codes (R75). -/
def ncTornItem : Nat := 0x01
def ncStepSkipped : Nat := 0x10
def ncUnderflowRisk : Nat := 0x11
def ncLogFull : Nat := 0x12
def ncEpochLimit : Nat := 0x13
def ncMemberFailed : Nat := 0x14
def ncSlowMember : Nat := 0x15
def ncSlowTile : Nat := 0x16
def ncGuaranteeScaled : Nat := 0x20
def ncOverQuota : Nat := 0x21
def ncChannelRetired : Nat := 0x30
def ncDieRetired : Nat := 0x31
def ncBusRetired : Nat := 0x32
def ncLinkV2 : Nat := 0x40
def ncPartnerRefused : Nat := 0x41
def ncDebugOpened : Nat := 0x50

/-! Descriptor error causes (R96). -/
def caRsvField : Nat := 0x01
def caBadOp : Nat := 0x02
def caBadFormat : Nat := 0x03
def caFormatMix : Nat := 0x04
def caAlign : Nat := 0x05
def caStoreRange : Nat := 0x06
def caForeignTile : Nat := 0x07
def caBadSpace : Nat := 0x08
def caBadShape : Nat := 0x09
def caRepeatNest : Nat := 0x0A
def caBadTarget : Nat := 0x0B
def caAddrFault : Nat := 0x0C
def caWriteProtected : Nat := 0x0D
def caWrongEpoch : Nat := 0x0E
def caRunOff : Nat := 0x0F
def caSemUnderflow : Nat := 0x10
def caSemOverflow : Nat := 0x11
def caSemResidue : Nat := 0x12
def caNoGroup : Nat := 0x13
def caNoTable : Nat := 0x14
def caStaleSnapshot : Nat := 0x15

/-- The descriptor error word of a fault of a tile's descriptor at a store offset (R96). -/
def errorWord (slot tile cause : Nat) : Word :=
  BitVec.ofNat 32 (slot / 64 * 2 ^ 18 + tile * 2 ^ 7 + cause)

/-- PHASE of EPOCH_STATUS (R43). -/
def JPhase.code : JPhase → Nat
  | .noJob => 0
  | .compute => 1
  | .vote => 2
  | .apply => 3
  | .flip => 4

/-- DETAIL of BAD_STATE for instance i (R63): its PHASE. -/
def Chip.phaseOf (c : Chip) (i : Nat) : Nat := (c.job i).phase.code

/-- The UNIT_STATE code (R69). -/
def UnitSt.code : UnitSt → Nat
  | .enabled => 0
  | .shuttingDown => 1
  | .disabled => 2
  | .shutdownEnablePending => 3
  | .enabling => 4
  | .retired => 5

/-- The LINK_STATUS.STATE code (R287). -/
def LinkSt.code : LinkSt → Nat
  | .down => 0
  | .train53 => 1
  | .train106 => 2
  | .up => 3
  | .fastRetrain => 4
  | .planeMismatch => 5
  | .disabled => 6
  | .retired => 7

/-- SUBJECT of CHANNEL_RETIRED and DETAIL of RETIRED (R384): class and index. -/
def unitSubject (u : UnitId) : Nat := u.cls * 65536 + u.idx

/-- Set the device's vote flag for the step of instance i (R18); only while a job runs. -/
def Chip.setVote (c : Chip) (i : Nat) : Chip :=
  if c.jobRuns i then c.onJob i (fun j => { j with voteFlag := true }) else c

end Sys2Proof.Machine
end

