-- ==== Sys2Proof/Machine/Memory.lean ====
section
/-! DEFINITION. Memories: what a byte nobody has written reads as, tile stores (R83), model space with its objects,
copies and checks (R150 to R159), capacity and placement (R148, R153, R155, R161). -/

namespace Sys2Proof.Machine

/-- An extent in bytes (R151). -/
def extentBytes : Nat := 262144
/-- Where table windows begin (R186). -/
def windowBase : Nat := 2 ^ 51
/-- End of the lower host region (R319). -/
def hostTop : Nat := 0x773594000

/-- The free byte of a place nobody has written since the boot in force (log 1): kind 0 host region, 1 tile store, 2 model
space, 3 configuration store. -/
def freeAt (kind boots serial addr : Nat) : Byte :=
  Config.freeByte (((serial * 2 ^ 32 + boots) * 8 + kind) * 2 ^ 62 + addr)

def Chip.bootNo (c : Chip) : Nat := c.boot.boots.toNat

/-! The lower host region (R319). -/

def Chip.hostRead (c : Chip) (a n : Nat) : List Byte := mread c.host (freeAt 0 c.bootNo 0) a n
def Chip.hostWrite (c : Chip) (a : Nat) (bs : List Byte) : Chip := { c with host := mwrite c.host a bs }

/-! Tile stores (R83). -/

def Chip.storeFree (c : Chip) (t a : Nat) : Byte :=
  if (c.tile t).zeroed then 0 else freeAt 1 c.bootNo t a

def Chip.storeRead (c : Chip) (t a n : Nat) : List Byte := mread (c.tile t).cells (c.storeFree t) a n
def Chip.storeWrite (c : Chip) (t a : Nat) (bs : List Byte) : Chip :=
  c.onTile t (fun k => { k with cells := mwrite k.cells a bs })

/-! Objects (R152, R153). -/

/-- Copies per extent of a placement class (R152). -/
def copiesOf (cls : Nat) : Nat := if cls = 1 then 2 else if cls = 2 then 3 else if cls = 3 then 2 else 1

/-- Extents of model space that an object takes: a stash object's listed extents are its staging (R177). -/
def Obj.span (o : Obj) : Nat := if o.cls = 4 then divUp o.length extentBytes else o.extents.length

/-- The object whose extents hold a model address. -/
def Chip.objNear (c : Chip) (i a : Nat) : Option Obj :=
  (c.inst i).objs.find? (fun o => o.addr ≤ a && a < o.addr + o.span * extentBytes)

/-- The object whose bytes hold a model address. -/
def Chip.objAt (c : Chip) (i a : Nat) : Option Obj :=
  (c.inst i).objs.find? (fun o => o.addr ≤ a && a < o.addr + o.length)

/-- The object that starts at a model address. -/
def Chip.objStart (c : Chip) (i a : Nat) : Option Obj := (c.inst i).objs.find? (fun o => o.addr = a)

/-- Change the object that starts at an address. -/
def Chip.onObj (c : Chip) (i a : Nat) (f : Obj → Obj) : Chip :=
  c.onInst i (fun x => { x with objs := x.objs.map (fun o => if o.addr = a then f o else o) })

/-- What an access check answers (R158): the object, or the DETAIL of ADDR_FAULT. -/
inductive Access where
  | ok (o : Obj)
  | fault (off : Nat)
  deriving DecidableEq, Repr

/-- First and last byte checked before any byte moves (R158); stash objects take no such access (R159). -/
def Chip.check (c : Chip) (i a n : Nat) : Access :=
  match c.objAt i a with
  | none => .fault 0
  | some o =>
    if o.addr + o.length < a + n then .fault (o.addr + o.length - a)
    else if o.cls = 4 then .fault 0
    else .ok o

/-- The place of a byte of model space in `dram`: copy 0 front or only, 1 back, 2 serving. -/
def dramKey (i copy a : Nat) : Nat := (i * 4 + copy) * 2 ^ 52 + a

/-- Bytes of one copy of an object as they stand; a poisoned granule reads FFh (R383). -/
def Chip.copyRead (c : Chip) (i : Nat) (o : Obj) (copy a n : Nat) : List Byte :=
  let bs := mread c.dram (freeAt 2 c.bootNo o.serial) (dramKey i copy a) n
  if c.poison.isEmpty then bs
  else bs.mapIdx (fun k b => if c.poison.contains ((dramKey i copy a + k) / 64) then 0xFF else b)

/-- The poisoned granules that a range of a copy touches (R383). -/
def Chip.poisonedIn (c : Chip) (i copy a n : Nat) : List Nat :=
  c.poison.filter (fun g => dramKey i copy a / 64 ≤ g && g ≤ (dramKey i copy a + n - 1) / 64)

/-- A read that returns poisoned granules: each is counted, and a running job of the reading instance is to fail (R383). -/
def Chip.meetPoison (c : Chip) (i copy a n : Nat) : Chip :=
  let k := (c.poisonedIn i copy a n).length
  if k = 0 then c
  else ({ c with poisonReads := satAdd c.poisonReads k } : Chip).onJob i (fun j => { j with poisoned := c.jobRuns i })

/-- Bytes written to one copy; a whole granule written clears its poison (R383). -/
def Chip.copyWrite (c : Chip) (i copy a : Nat) (bs : List Byte) : Chip :=
  let k := dramKey i copy a
  { c with dram := mwrite c.dram k bs
           poison := c.poison.filter (fun g => !(k ≤ 64 * g && 64 * g + 64 ≤ k + bs.length)) }

/-- An access sets the ages of its extents to 0 (R162). -/
def Chip.touch (c : Chip) (i : Nat) (o : Obj) (a n : Nat) : Chip :=
  c.onObj i o.addr (fun o => { o with extents := o.extents.mapIdx (fun k e =>
    if (a - o.addr) / extentBytes ≤ k && k ≤ (a + n - 1 - o.addr) / extentBytes then { e with age := 0 } else e) })

/-- A read of the front copy, for what it does beside its data: ages (R162) and poison (R383). -/
def Chip.readMarks (c : Chip) (i : Nat) (o : Obj) (a n : Nat) : Chip := (c.touch i o a n).meetPoison i 0 a n

/-- The same for a read given by its address. -/
def Chip.touchAt (c : Chip) (i a n : Nat) : Chip :=
  match c.objAt i a with
  | some o => c.readMarks i o a n
  | none => c

/-- Dense and serve-visible objects (R152). -/
def Obj.dense (o : Obj) : Bool := o.cls = 1 || o.cls = 2

/-- The front copy, which training reads and commands see (R23, R140). -/
def Chip.frontRead (c : Chip) (i : Nat) (o : Obj) (a n : Nat) : List Byte := c.copyRead i o 0 a n

/-- A write by a tile, a DMA channel or a command: R23 for dense objects, R140 for carried ones; none when R23 forbids
it. -/
def Chip.frontWrite (c : Chip) (i : Nat) (o : Obj) (a : Nat) (bs : List Byte) : Option Chip :=
  if o.dense then
    if c.jobRuns i then none
    else some (((c.copyWrite i 0 a bs).copyWrite i 1 a bs).touch i o a bs.length)
  else if o.cls = 3 then
    if c.jobRuns i then
      let p0 := (a - o.addr) / 4096
      let p1 := (a + bs.length - 1 - o.addr) / 4096
      let hit := ((List.range (p1 + 1 - p0)).map (p0 + ·)).filter (fun p => !o.panels.contains p)
      some (((c.copyWrite i 1 a bs).onObj i o.addr (fun o => { o with panels := o.panels ++ hit })).touch i o a bs.length)
    else some (((c.copyWrite i 0 a bs).copyWrite i 1 a bs).touch i o a bs.length)
  else some ((c.copyWrite i 0 a bs).touch i o a bs.length)

/-- The bytes of [a, a + n) of a copy forgotten: what then stands there is not promised (R357, R369). -/
def Chip.copyForget (c : Chip) (i copy a n : Nat) : Chip :=
  let k := dramKey i copy a
  { c with dram := mclear c.dram k n, poison := c.poison.filter (fun g => !(k ≤ 64 * g && 64 * g + 64 ≤ k + n)) }

/-- Granules of a copy as those of another copy of the same object. -/
def otherCopy (i src dst : Nat) (gs : List Nat) : List Nat := gs.map (fun g => g + dramKey i dst 0 / 64 - dramKey i src 0 / 64)

/-- Bytes of one copy put into another, poison with them (R24, R35, R141; DEDUCED, log 72). -/
def Chip.copyCopy (c : Chip) (i : Nat) (o : Obj) (src dst a n : Nat) : Chip :=
  let gs := otherCopy i src dst (c.poisonedIn i src a n)
  let c := c.copyWrite i dst a (c.copyRead i o src a n)
  { c with poison := c.poison ++ gs.filter (fun g => !c.poison.contains g) }

/-- Swap two copies of an object whole (R24, R141): the listed bytes change places, and poison with them. -/
def Chip.copySwap (c : Chip) (i : Nat) (o : Obj) (p q : Nat) : Chip :=
  let x := c.copyRead i o p o.addr o.length
  let y := c.copyRead i o q o.addr o.length
  let gs := otherCopy i p q (c.poisonedIn i p o.addr o.length) ++ otherCopy i q p (c.poisonedIn i q o.addr o.length)
  let c := (c.copyWrite i p o.addr y).copyWrite i q o.addr x
  { c with poison := c.poison ++ gs.filter (fun g => !c.poison.contains g) }

/-! Guarantees (R170 to R172). -/

/-- The derated bandwidth of a tier as a fraction of MB/s (R170); of the stacked tier, instance i's. Each expander's
share is rounded down by itself (DEDUCED, log 92). -/
def Chip.derated (c : Chip) (i tier : Nat) : Nat × Nat :=
  if tier = 0 then
    ((((List.range 64).filter (fun g => (c.inst i).pcGroups.getLsbD g)).map (fun g =>
      31250 * c.livePcs g * 985 * (if c.hotStacks.getLsbD (g / 4) then 96 else 100))).sum, 100000)
  else if tier = 1 then
    ((((List.range 96).filter (fun k => !c.isRetired 5 k)).map (fun k =>
      4600000 * (if c.hotChannels.getLsbD k then 97 else 100))).sum, 9600)
  else
    (((((List.range 4).filter (fun x => (c.unit ⟨2, x⟩).st = .enabled)).map (fun x =>
      (c.cxlPort x).bandwidth.toNat / 1000 * 1000)).sum), 1)

def Inst.guarOf (x : Inst) (tier : Nat) : Nat := x.guar.getD tier 0

/-- Admitted guarantees that share a tier's limit with instance i, its own left out (R171). -/
def Chip.otherGuar (c : Chip) (i tier : Nat) : Nat :=
  if tier = 0 then 0 else (((List.range 16).filter (· ≠ i)).map (fun k => (c.inst k).guarOf tier)).sum

/-- The factor f of a tier in 2^−16 (R172). The resolution is that of the notice (DEDUCED, log 92). -/
def Chip.factor (c : Chip) (i tier : Nat) : Nat :=
  let d := c.derated i tier
  let sum := c.otherGuar i tier + (c.inst i).guarOf tier
  if sum = 0 then 65536 else min 65536 (85 * d.1 * 65536 / (100 * d.2 * sum))

/-- D of a tier may have changed: factors are computed again, and a change is told (R172). -/
def Chip.rescale (c : Chip) : Chip :=
  let shared := fun (c : Chip) (tier old : Nat) (set : Chip → Nat → Chip) =>
    let f := c.factor 0 tier
    if f = old then c
    else (set c f).notify (c.liveInsts.filter (fun i => (c.inst i).guarOf tier ≠ 0)) ncGuaranteeScaled tier f
  let c := c.liveInsts.foldl (fun (c : Chip) i =>
    let f := c.factor i 0
    if f = (c.inst i).scaleStk then c
    else (c.onInst i (fun x => { x with scaleStk := f })).notify [i] ncGuaranteeScaled 0 f) c
  let c := shared c 1 c.scaleMod (fun c f => { c with scaleMod := f })
  shared c 2 c.scaleExp (fun c f => { c with scaleExp := f })

/-! Capacity (R148, R153, R155, R161, R165). -/

/-- Extents that the live PCs of a group hold (R148, R165). -/
def Chip.groupCap (c : Chip) (g : Nat) : Nat := c.livePcs g * 1500000000 / extentBytes

/-- Extents in the channels of burrow engine k: its live channels, less an eighth of the host region and the hoard area
(log 19). -/
def Chip.burrowCap (c : Chip) (k : Nat) : Nat :=
  (c.liveChannels k * 4096000000000 / 96 - 66000000000 / 8) / extentBytes

/-- The pool of a tier in extents (R148, R161, R384). -/
def Chip.pool (c : Chip) (tier : Nat) : Nat :=
  if tier = 1 then (4030000000000 - (96 - c.liveCount 5 96) * 4096000000000 / 96) / extentBytes
  else (((List.range 4).filter (fun x => (c.unit ⟨2, x⟩).st = .enabled)).map (fun x => (c.cxlPort x).extents)).sum

/-- Extents that unit `u` of a tier can hold. -/
def Chip.capOf (c : Chip) (tier u : Nat) : Nat :=
  if tier = 0 then c.groupCap u else if tier = 1 then c.burrowCap u else (c.cxlPort u).extents

/-- The units of a tier's rotation for instance i (R155). -/
def Chip.tierUnits (c : Chip) (i tier : Nat) : List Nat :=
  if tier = 0 then (List.range 64).filter (fun g => (c.inst i).pcGroups.getLsbD g)
  else if tier = 1 then (List.range 8).filter (fun k => 0 < c.liveChannels k && !c.isRetired 8 k)
  else (List.range 4).filter (fun x => (c.unit ⟨2, x⟩).st = .enabled && 0 < (c.cxlPort x).extents)

/-- Extents of an object charged to one place: both locations while one moves. -/
def Obj.chargeAt (o : Obj) (pl : Place) : Nat :=
  copiesOf o.cls *
    (o.extents.map (fun e => bit (decide (e.place = pl)) + bit (decide (e.other = some pl)))).sum

/-- The objects whose extents are charged to an instance: mapped ones, and freed ones still in use (R154). -/
def Inst.charged (x : Inst) : List Obj := x.objs ++ x.freed.map (·.obj)

/-- Extents in use in unit `u` of a tier, by all instances. -/
def Chip.usedAt (c : Chip) (tier u : Nat) : Nat :=
  ((List.range 16).map (fun i => ((c.inst i).charged.map (·.chargeAt ⟨tier, u⟩)).sum)).sum

/-- The live PCs of a group, or the live channels of a burrow engine, in ascending number. -/
def Chip.liveUnits (c : Chip) (pl : Place) : List Nat :=
  if pl.tier = 0 then ((List.range 16).map (16 * pl.unit + ·)).filter (fun k => !c.isRetired 4 k)
  else if pl.tier = 1 then ((List.range 12).map (12 * pl.unit + ·)).filter (fun k => !c.isRetired 5 k)
  else [pl.unit]

/-- The PC, channel or expander that holds panel p of an extent (R155). -/
def Chip.panelUnit (c : Chip) (pl : Place) (p : Nat) : Option Nat :=
  let us := c.liveUnits pl
  us[p % us.length]?

/-- An access to [a, a + n) meets a panel in a PC that is in its calibration window (R175); a write reaches both locations
of an extent that moves (R168). -/
def Chip.windowHeld (c : Chip) (o : Obj) (a n : Nat) (write : Bool) : Bool :=
  !c.windows.isEmpty && (o.extents.mapIdx (fun k e =>
    (e.place :: (if write then e.other.toList else [])).any (fun pl => pl.tier = 0 && (List.range 64).any (fun p =>
      meets a n (o.addr + k * extentBytes + p * 4096) 4096 && (c.panelUnit pl p).any (c.windows.contains ·))))).any id

/-- Bytes of a row slot of a table (R187). -/
def rowSlotBytes (block : BitVec 512) : Nat :=
  let dim := bits block.toNat 207 192
  let widest := bits block.toNat 67 66
  32 + 32 * divUp (if widest = 0 then 2 * dim else if widest = 1 then dim else dim / 2) 32

/-- Engine e is live: SE0 to SE15, then BE0 to BE7 (R384). -/
def Chip.liveEngine (c : Chip) (e : Nat) : Bool := if e < 16 then !c.isRetired 7 e else !c.isRetired 8 (e - 16)

/-- Live engines in the order of R192. -/
def Chip.liveEngines (c : Chip) : List Nat := (List.range 24).filter (c.liveEngine ·)

/-- Bytes of the replica buffers that a list of hot rows takes on each engine (R208). -/
def Inst.hotBytes (x : Inst) (rows : List (Nat × Nat)) : Nat :=
  2 * (rows.map (fun r => ((x.tables.find? (fun t => t.num = r.1)).map (fun t => rowSlotBytes t.block)).getD 0)).sum

/-- Extents that an instance's hot sets take on each live engine (R208). -/
def Inst.hotExtents (x : Inst) : Nat :=
  divUp ((x.hot.map (fun h => x.hotBytes h.rows + x.hotBytes ((h.next.map (·.1)).getD []))).sum) extentBytes

/-- Extents of a tier that an instance's hot sets take (R208). -/
def Chip.hotUse (c : Chip) (i tier : Nat) : Nat :=
  (c.inst i).hotExtents * (c.liveEngines.filter (fun e => if tier = 0 then e < 16 else tier = 1 && 16 ≤ e)).length

/-- An instance's use of a tier (R153, R161, R208): the extents charged to it there. -/
def Chip.use (c : Chip) (i tier : Nat) : Nat :=
  ((c.inst i).charged.map (fun o => copiesOf o.cls * (o.extents.filter (fun e => e.place.tier = tier)).length)).sum +
    c.hotUse i tier

/-- An instance's quota in extents (R161). -/
def Chip.quota (c : Chip) (i tier : Nat) : Nat :=
  (if tier = 1 then (c.inst i).quotaMod else (c.inst i).quotaExp) / extentBytes

/-- The rotation's units from a unit on, then the ones before it (R155). -/
def rotated (units : List Nat) (start : Nat) : List Nat :=
  units.filter (start ≤ ·) ++ units.filter (· < start)

/-- Places for n extents of a number of copies, and where the rotation then stands; none when one finds no room. `taken`
are places chosen already. -/
def Chip.placeFrom (c : Chip) (units : List Nat) (tier copies : Nat) : Nat → Nat → List Nat → Option (List Nat × Nat)
  | 0, start, taken => some (taken, start)
  | n + 1, start, taken =>
    match (rotated units start).find? (fun u =>
        c.usedAt tier u + copies * (taken.filter (· = u)).length + copies ≤ c.capOf tier u) with
    | none => none
    | some u => c.placeFrom units tier copies n (u + 1) (taken ++ [u])

/-- Room left for an instance in the stacked tier, its hot rows' replicas taken off (R149, R208). -/
def Chip.stackedLeft (c : Chip) (i : Nat) : Nat :=
  ((c.tierUnits i 0).map (fun g => c.groupCap g - c.usedAt 0 g)).sum - c.hotUse i 0

/-- Places for an object's extents in a tier (R155): the units, and the rotation after them. -/
def Chip.placeIn (c : Chip) (i tier copies n : Nat) : Option (List Place × Nat) :=
  if tier = 0 && c.stackedLeft i < copies * n then none else
  (c.placeFrom (c.tierUnits i tier) tier copies n ((c.inst i).rot.getD tier 0) []).map
    (fun r => (r.1.map (fun u => ⟨tier, u⟩), r.2))

/-- The quota of a tier can take so many more extents (R163, R164); the stacked tier has none. -/
def Chip.quotaTakes (c : Chip) (i tier extents : Nat) : Bool :=
  tier = 0 ||
    (!(if tier = 1 then (c.inst i).overMod else (c.inst i).overExp) && c.use i tier + extents ≤ c.quota i tier)

/-- An object or a table share may be placed in a tier. -/
def Chip.roomIn (c : Chip) (i tier copies n : Nat) : Option (List Place × Nat) :=
  if c.quotaTakes i tier (copies * n) then c.placeIn i tier copies n else none

/-- Why a tier refuses (R163): the quota is checked first. -/
def Chip.whyFull (c : Chip) (i tier copies n : Nat) : Nat :=
  if c.quotaTakes i tier (copies * n) then stNoSpace else stOverQuota

/-- The next tier down has room for one extent of an object within the quota there (R162). -/
def Chip.evictPlace (c : Chip) (i : Nat) (o : Obj) (tier : Nat) : Option (List Place × Nat) :=
  if tier < 2 then c.roomIn i (tier + 1) (copiesOf o.cls) 1 else none

/-- The unpinned extents of an instance in a tier that may be evicted, as object and index (R162); a table's never leave
the module tier (R186). -/
def Chip.evictable (c : Chip) (i tier : Nat) : List (Obj × Nat × Extent) :=
  (c.inst i).objs.flatMap (fun o =>
    if o.cls = 4 || (o.table.isSome && tier = 1) || (c.evictPlace i o tier).isNone then []
    else (o.extents.mapIdx (fun k e => (o, k, e))).filter (fun x =>
      x.2.2.place.tier = tier && !x.2.2.pinned && x.2.2.stage.isNone))

/-- The victim: highest age, then lowest model address (R162). -/
def victim (xs : List (Obj × Nat × Extent)) : Option (Obj × Nat × Extent) :=
  xs.foldl (fun b x => match b with
    | none => some x
    | some y =>
      if y.2.2.age.toNat < x.2.2.age.toNat ||
        (y.2.2.age = x.2.2.age && x.1.addr + x.2.1 * extentBytes < y.1.addr + y.2.1 * extentBytes) then some x else b) none

/-- The rotation of a tier set. -/
def Chip.setRot (c : Chip) (i tier v : Nat) : Chip := c.onInst i (fun x => { x with rot := lput x.rot tier v })

/-- Change one extent of an object. -/
def Chip.onExtent (c : Chip) (i a k : Nat) (f : Extent → Extent) : Chip :=
  c.onObj i a (fun o => { o with extents := lmod f o.extents k })

/-- The lowest free extent-aligned address with room for so many extents (R152). -/
def Chip.freeAddr (c : Chip) (i span : Nat) : Option Nat :=
  let objs := (c.inst i).objs
  let fits := fun a => a + span * extentBytes ≤ windowBase &&
    objs.all (fun o => a + span * extentBytes ≤ o.addr || o.addr + o.span * extentBytes ≤ a)
  let cands := (0x40000 :: objs.map (fun o => o.addr + o.span * extentBytes)).filter fits
  cands.foldl (fun b a => match b with
    | none => some a
    | some m => some (min a m)) none

/-- Bytes of the upper host region that stash stores take (R177). -/
def Chip.stashUsed (c : Chip) : Nat :=
  ((List.range 16).map (fun i =>
    (((c.inst i).charged.filter (fun o => o.cls = 4)).map (·.length)).sum)).sum

/-- Clear the over-quota state of a tier once use has fallen to the quota (R164). -/
def Chip.quotaSettle (c : Chip) (i : Nat) : Chip :=
  c.onInst i (fun x => { x with overMod := x.overMod && decide (c.quota i 1 < c.use i 1)
                                overExp := x.overExp && decide (c.quota i 2 < c.use i 2)
                                evicting := x.evicting.filter (fun t =>
                                  t = 0 || decide (c.quota i t < c.use i t)) })

/-! Table shares and what the engines keep of them (R155, R187, R188, R192). -/

/-- The engine that holds an extent of a table share (R155, R192): 0 to 15 sett, 16 to 23 burrow. -/
def engineOf (pl : Place) : Nat := if pl.tier = 0 then pl.unit / 4 else 16 + pl.unit

/-- The share of a table: its object. -/
def Chip.shareOf (c : Chip) (i table : Nat) : Option Obj := (c.inst i).objs.find? (fun o => o.table = some table)

/-- Slots per extent (R187). -/
def perExtent (b : BitVec 512) : Nat := extentBytes / rowSlotBytes b

def Chip.tableOf (c : Chip) (i num : Nat) : Option Table := (c.inst i).tables.find? (fun t => t.num = num)

/-- Change what instance i keeps of a table. -/
def Chip.onTable (c : Chip) (i num : Nat) (f : Table → Table) : Chip :=
  c.onInst i (fun x => { x with tables := x.tables.map (fun t => if t.num = num then f t else t) })

def Table.eng (t : Table) (e : Nat) : EngTab := tget EngTab.initial t.engs e

def Chip.onEngTab (c : Chip) (i num e : Nat) (f : EngTab → EngTab) : Chip :=
  c.onTable i num (fun t => { t with engs := tput t.engs e (f (t.eng e)) })

/-- Rows of extent k of a table's share now lie on another engine: the gradients it holds for them, the batches these belong
to, and their log entries go with them (R188, R201, R210; DESIGN CHOICE, log 48). -/
def Chip.shiftRows (c : Chip) (i num k e e2 : Nat) : Chip :=
  match c.tableOf i num with
  | none => c
  | some t =>
    let here := fun (l : Nat) => l / perExtent t.block = k
    let old := t.eng e
    let acc := old.acc.filter (fun a => here a.row)
    let log := old.log.filter (fun g => here g.row)
    if e = e2 || (acc.isEmpty && log.isEmpty) then c
    else
      let c := c.onEngTab i num e (fun x => { x with
        acc := x.acc.filter (fun a => !here a.row), log := x.log.filter (fun g => !here g.row) })
      c.onEngTab i num e2 (fun x => { x with
        acc := x.acc ++ acc, log := x.log ++ log,
        batches := if acc.isEmpty then x.batches else x.batches ++ old.batches.filter (fun b => !x.batches.contains b) })

/-- An extent of an object now lies at another place: what the engines keep for its rows goes with it. -/
def Chip.rowsMoved (c : Chip) (i : Nat) (o : Obj) (k : Nat) (old new : Place) : Chip :=
  match o.table with
  | some num => c.shiftRows i num k (engineOf old) (engineOf new)
  | none => c

/-- Evict one extent at once (R162): the sequence of R168 leaves the bytes as they are. None when nothing is evictable
(DEDUCED, log 94). -/
def Chip.evictOne (c : Chip) (i tier : Nat) : Option Chip :=
  match victim (c.evictable i tier) with
  | none => none
  | some (o, k, x) =>
    match c.evictPlace i o tier with
    | some ([pl], rot) =>
      let c := (c.onExtent i o.addr k (fun e => { e with place := pl })).setRot i (tier + 1) rot
      some ((c.rowsMoved i o k x.place pl).quotaSettle i)
    | _ => none

/-- Evict until n extents fit, or nothing more can be evicted (R163). -/
def Chip.evictFor (i tier copies n : Nat) : Nat → Chip → Chip
  | 0, c => c
  | fuel + 1, c =>
    if (c.roomIn i tier copies n).isSome then c
    else match c.evictOne i tier with
      | none => c
      | some c => Chip.evictFor i tier copies n fuel c

/-- Extents of an instance: a bound on how many can be evicted. -/
def Chip.extentCount (c : Chip) (i : Nat) : Nat := ((c.inst i).objs.map (fun o => o.extents.length)).sum

/-- The unit of a tier that takes the next extent of an object (R155, R163), after the extents placed already; `rots` are
the rotations. -/
def Chip.placeNext (c : Chip) (i t copies : Nat) (taken : List Place) (rots : List Nat) : Option Nat :=
  let n := copies * ((taken.filter (·.tier = t)).length + 1)
  if !c.quotaTakes i t n || (t = 0 && c.stackedLeft i < n) then none
  else (rotated (c.tierUnits i t) (rots.getD t 0)).find? (fun u =>
    c.usedAt t u + copies * (taken.filter (· = ⟨t, u⟩)).length + copies ≤ c.capOf t u)

/-- An object placed extent by extent (R163): each in the first of the tiers still tried that has room, the preferred tier
evicting first; the places and rotations, or the refusal and the tier last tried. Evictions made for a refused object
stay. -/
def Chip.placeEach (i copies : Nat) (pref : Option Nat) :
    Nat → List Nat → Nat → List Place → List Nat → Chip → Chip × ((List Place × List Nat) ⊕ (Nat × Nat))
  | _, _, 0, taken, rots, c => (c, .inl (taken, rots))
  | 0, _, _, _, _, c => (c, .inr (stNoSpace, 0))
  | _, [], _, _, _, c => (c, .inr (stNoSpace, 0))
  | fuel + 1, t :: ts, n + 1, taken, rots, c =>
    match c.placeNext i t copies taken rots with
    | some u => Chip.placeEach i copies pref fuel (t :: ts) n (taken ++ [⟨t, u⟩]) (lput rots t (u + 1)) c
    | none =>
      match if pref = some t then c.evictOne i t else none with
      | some c => Chip.placeEach i copies pref fuel (t :: ts) (n + 1) taken (lput (c.inst i).rot t (rots.getD t 0)) c
      | none =>
        if ts.isEmpty then (c, .inr (c.whyFull i t copies ((taken.filter (·.tier = t)).length + n + 1), t))
        else Chip.placeEach i copies pref fuel ts (n + 1) taken rots c

/-- Places for an object, and the rotations after them (R163): whole in the first tier where that has room, else extent by
extent. -/
def Chip.obtain (c : Chip) (i copies n : Nat) (pref : Option Nat) (tiers : List Nat) :
    Chip × ((List Place × List Nat) ⊕ (Nat × Nat)) :=
  match tiers.head?.bind (fun t => (c.roomIn i t copies n).map (fun r => (t, r))) with
  | some (t, ps, rot) => (c, .inl (ps, lput (c.inst i).rot t rot))
  | none => Chip.placeEach i copies pref (n + c.extentCount i + tiers.length + 1) tiers n [] (c.inst i).rot c

/-- The transfers of the mover under way that use an object, each with the bytes that it reads (R154, R409). -/
def Chip.usersOf (c : Chip) (i : Nat) (o : Obj) : List (Ref × List Byte) :=
  (c.moves.take 8).filterMap (fun m =>
    (c.started.find? (fun st => st.ref = m.cmd && !st.pending)).bind (fun st =>
      let p := st.cmd
      let at' := if st.op = 0x42 then p.par 32 8 else p.par 0 8
      let n := if st.op = 0x42 then p.par 16 8 * 2 ^ 15 else p.par 8 4
      if p.who = i && ((st.op = 0x42 && p.par 24 1 % 16 = 2) || st.op = 0x32 || st.op = 0x33) && o.addr ≤ at' &&
        at' < o.addr + o.length then
        some (m.cmd, if st.op = 0x32 then [] else c.frontRead i o at' (min n (o.addr + o.length - at')))
      else none))

/-- The bytes that a transfer reads of an object freed since its translation, none where it uses none (R154). -/
def Chip.freedFor (c : Chip) (i : Nat) (r : Ref) : Option (List Byte) :=
  ((c.inst i).freed.flatMap (·.users)).find? (fun u => u.1 = r) |>.map (·.2)

/-- A transfer is over: the capacity of a freed object returns with the last of its users (R154). -/
def Chip.dropUser (c : Chip) (r : Ref) : Chip :=
  (List.range 16).foldl (fun (c : Chip) i =>
    if (c.inst i).freed.any (fun f => f.users.any (·.1 = r)) then
      (c.onInst i (fun x => { x with freed := (x.freed.map (fun f =>
        { f with users := f.users.filter (·.1 ≠ r) })).filter (fun f => !f.users.isEmpty) })).quotaSettle i
    else c) c

/-- Take an object out of model space and forget its bytes (R154, R369). Its capacity returns with the last transfer that
was translated before. -/
def Chip.unmap (c : Chip) (i : Nat) (o : Obj) : Chip :=
  let us := c.usersOf i o
  let c := (List.range 3).foldl (fun c k => c.copyForget i k o.addr (o.span * extentBytes)) c
  (c.onInst i (fun x => { x with
    objs := x.objs.filter (fun p => p.addr ≠ o.addr)
    freed := if us.isEmpty then x.freed else x.freed ++ [{ obj := o, users := us }] })).quotaSettle i

end Sys2Proof.Machine
end

