-- ==== Sys2Proof/Machine/Operands.lean ====
section
/-! DEFINITION. Operand forms: the table "Opcodes" with the parameter block of each opcode (R64), the fields of a
descriptor's header and bodies (R97 to R101), operand references (R98). -/

namespace Sys2Proof.Machine

/-- A row of the table "Opcodes" (R64). -/
structure OpRow where
  code : Nat
  /-- scope I, scope O -/
  onInst : Bool
  onOper : Bool
  /-- the version that introduced it -/
  since : Nat
  deriving DecidableEq, Repr

/-- The table "Opcodes" (R64). -/
def opRows : List OpRow :=
  [⟨0x00, true, true, 0x20⟩, ⟨0x01, true, true, 0x20⟩, ⟨0x02, true, true, 0x20⟩, ⟨0x03, true, true, 0x20⟩,
   ⟨0x04, true, true, 0x20⟩, ⟨0x05, true, true, 0x20⟩, ⟨0x06, true, true, 0x30⟩, ⟨0x07, true, true, 0x30⟩,
   ⟨0x10, true, true, 0x20⟩, ⟨0x11, true, true, 0x20⟩, ⟨0x12, true, true, 0x20⟩, ⟨0x13, true, true, 0x20⟩,
   ⟨0x20, false, true, 0x20⟩, ⟨0x21, true, true, 0x20⟩, ⟨0x22, false, true, 0x20⟩, ⟨0x23, false, true, 0x20⟩,
   ⟨0x24, false, true, 0x30⟩, ⟨0x30, true, false, 0x20⟩, ⟨0x31, true, false, 0x20⟩, ⟨0x32, true, false, 0x20⟩,
   ⟨0x33, true, false, 0x20⟩, ⟨0x34, true, false, 0x20⟩, ⟨0x35, true, false, 0x20⟩, ⟨0x36, true, false, 0x20⟩] ++
  [⟨0x40, true, false, 0x30⟩, ⟨0x41, true, false, 0x30⟩, ⟨0x42, true, false, 0x30⟩, ⟨0x43, true, false, 0x30⟩,
   ⟨0x50, true, false, 0x20⟩, ⟨0x51, true, false, 0x20⟩, ⟨0x52, true, false, 0x20⟩, ⟨0x53, true, false, 0x20⟩,
   ⟨0x54, true, false, 0x30⟩, ⟨0x55, true, false, 0x30⟩, ⟨0x56, true, false, 0x20⟩, ⟨0x58, true, false, 0x30⟩,
   ⟨0x60, true, false, 0x20⟩, ⟨0x61, true, false, 0x20⟩, ⟨0x70, false, true, 0x20⟩, ⟨0x71, false, true, 0x20⟩,
   ⟨0x72, false, true, 0x20⟩, ⟨0x80, true, true, 0x20⟩, ⟨0x81, false, true, 0x30⟩, ⟨0x82, false, true, 0x30⟩,
   ⟨0x90, false, true, 0x20⟩, ⟨0x91, false, true, 0x20⟩, ⟨0x92, false, true, 0x20⟩, ⟨0x93, false, true, 0x20⟩]

/-- The row of an opcode, if the table has one. -/
def opRow (op : Nat) : Option OpRow := opRows.find? (·.code = op)

/-- A bit of the block is named. -/
def namedBit (named : List (Nat × Nat)) (k : Nat) : Bool := named.any (fun r => r.2 ≤ k && k ≤ r.1)

/-- A byte holds a non-zero reserved bit. -/
def rsvByte (named : List (Nat × Nat)) (k : Nat) (b : Byte) : Bool :=
  (List.range 8).any (fun j => b.getLsbD j && !namedBit named (8 * k + j))

/-- Whether the session has a key, as the 16 bytes of a GCM tag. -/
def tagBytes (s : Option Session) : Nat := if (s.bind (·.key)).isSome then 16 else 0

end Sys2Proof.Machine

namespace Sys2Proof
open Sys2Proof.Machine

/-- Inline data bytes that the parameters of an opcode carry (R50, R64, R250). -/
def Icp.inlineBytes (c : Icp) (op : Nat) : Nat :=
  if op = 0x32 then (if c.par 12 4 = 0 then c.par 8 4 else 0)
  else if op = 0x91 then c.par 4 4
  else if op = 0x56 then c.par 16 4
  else 0

/-- Bytes of an opcode's parameter block without the inline data, and the named bit ranges in it as (hi, lo): every
other bit is reserved (R64). -/
def Icp.block (c : Icp) (op : Nat) : Nat × List (Nat × Nat) :=
  if op = 0x01 then (8, [(47, 16), (1, 0)])
  else if op = 0x04 then (8, [(63, 0)])
  else if op = 0x05 then (24, [(31, 0), (191, 64)])
  else if op = 0x06 then (96, [(767, 0)])
  else if op = 0x07 then (48, [(383, 0)])
  else if op = 0x10 then (28, [(39, 0), (223, 64)])
  else if op = 0x11 then (4, [(15, 0)])
  else if op = 0x12 then (4, [(15, 0)])
  else if op = 0x13 then (4, [(31, 0)])
  else if op = 0x20 then (64, [(511, 344), (319, 296), (255, 192), (163, 64), (0, 0)])
  else if op = 0x23 then (16, [(7, 0), (127, 64)])
  else if op = 0x24 then (16, [(7, 0), (127, 64)])
  else if op = 0x30 then (24, [(191, 64), (23, 20), (17, 16), (8, 8), (0, 0)])
  else if op = 0x31 then (8, [(63, 0)])
  else if op = 0x32 then if c.par 12 4 = 0 then (16, [(127, 0)]) else (24, [(191, 0)])
  else if op = 0x33 then (24, [(191, 0)])
  else if op = 0x34 then (20, [(135, 0)])
  else if op = 0x35 then (20, [(135, 0)])
  else if op = 0x40 then
    (64, [(511, 384), (359, 320), (296, 112), (105, 96), (87, 84), (81, 80), (72, 72), (69, 64), (18, 0)])
  else if op = 0x41 then (4, [(15, 0)])
  else if op = 0x42 then (40, [(15, 0), (199, 64), (319, 256)])
  else if op = 0x43 then (24, [(148, 16), (9, 0)])
  else if op = 0x50 then (20, [(152, 0)])
  else if op = 0x52 then (40, [(319, 256), (193, 0)])
  else if op = 0x53 then (8, [(63, 0)])
  else if op = 0x54 then (8, [(63, 0)])
  else if op = 0x56 then (32, [(159, 64), (45, 40), (26, 16), (7, 0)])
  else if op = 0x58 then
    let k := c.par 0 1
    if k = 0 then (8, [(63, 48), (7, 0)])
    else if k ≤ 2 then
      (128, [(1023, 800), (783, 776), (767, 752), (703, 336), (330, 320), (263, 260), (257, 256), (7, 0)])
    else if k ≤ 4 then (16, [(127, 64), (7, 0)])
    else (c.params.length, [(8 * c.params.length - 1, 0)])
  else if op = 0x60 then (32, [(255, 192), (175, 160), (144, 128), (16, 16), (9, 0)])
  else if op = 0x61 then (4, [(15, 0)])
  else if op = 0x70 || op = 0x71 || op = 0x72 then (4, [(7, 0), (31, 16)])
  else if op = 0x80 then (4, [(31, 0)])
  else if op = 0x81 then (4, [(15, 0)])
  else if op = 0x90 then (8, [(63, 0)])
  else if op = 0x91 then (8, [(63, 0)])
  else if op = 0x93 then (4, [(7, 0)])
  else (0, [])

/-- Parameter bytes an opcode requires (R64). -/
def Icp.wanted (c : Icp) (op : Nat) : Nat := (c.block op).1 + roundUp (c.inlineBytes op) 4

/-- The lowest parameter byte that holds a non-zero reserved bit (R8): the bytes after the block are inline data, and
after the data zero. -/
def Icp.rsvParam (c : Icp) (op : Nat) : Option Nat :=
  let b := c.block op
  (((List.range b.1).find? (fun k => rsvByte b.2 k (c.params.getD k 0)))).orElse (fun _ =>
    let from' := b.1 + c.inlineBytes op
    ((List.range (c.params.length - from')).map (from' + ·)).find? (fun k => c.params.getD k 0 ≠ 0))

/-- An opcode may reply PENDING (R12, R16, R39, R70, R95, R167, R208, R251). -/
def Icp.mayPend (c : Icp) (op : Nat) : Bool :=
  [0x34, 0x43, 0x51, 0x52, 0x53, 0x54, 0x71].contains op || (op = 0x56 && c.par 0 1 = 2)

/-- Data bytes of an opcode's largest reply, and the offset of the parameter that sets them (R59). A parameter out of
its range is refused, so it sets none. -/
def Icp.replyData (c : Icp) (op : Nat) : Nat × Nat :=
  let upTo := fun (n top per off : Nat) => if 1 ≤ n && n ≤ top then (n * per, off) else (0, off)
  if op = 0x03 then (256, 0)
  else if op = 0x04 then upTo (c.par 4 4) 512 8 4
  else if op = 0x06 then (192, 0)
  else if op = 0x07 then (496, 0)
  else if op = 0x33 then if c.par 12 4 = 0 then upTo (c.par 8 4) 4096 1 8 else (0, 8)
  else if op = 0x58 then if c.par 0 1 = 4 then (32, 0) else (0, 0)
  else if op = 0x80 then upTo (c.par 2 2) 512 8 2
  else if op = 0x90 then upTo (c.par 4 4) 4096 1 4
  else (0, 0)

/-- Completion slots of a command's largest reply, and of its COMMAND_DONE (R59, R61). -/
def Icp.slotsNeeded (c : Icp) (op : Nat) (s : Option Session) : Nat × Nat :=
  (slotsOf (32 + (c.replyData op).1 + tagBytes s), if c.mayPend op then slotsOf (48 + tagBytes s) else 0)


end Sys2Proof

namespace Sys2Proof.Machine

/-! Descriptors (R97, R101). -/

/-- Bits hi to lo of a descriptor. -/
def dbits (d : Desc) (hi lo : Nat) : Nat := Machine.bits d.toNat hi lo

/-- Bit n of a descriptor. -/
def dbit (d : Desc) (n : Nat) : Bool := d.getLsbD n

/-- A signed field of n bits. -/
def toSigned (n v : Nat) : Int := if v < 2 ^ (n - 1) then v else (v : Int) - 2 ^ n

/-! The table "Descriptor header". -/
def dOp (d : Desc) : Nat := dbits d 7 0
def dCh (d : Desc) : Nat := dbits d 8 8
def dFence (d : Desc) : Bool := dbit d 31
def dWait (d : Desc) : Bool := dbit d 32
def dSig (d : Desc) : Bool := dbit d 33
def dGrad (d : Desc) : Bool := dbit d 34
def dWaitSem (d : Desc) : Nat := dbits d 46 41
def dSigSem (d : Desc) : Nat := dbits d 52 47
def dSigTile (d : Desc) : Nat := dbits d 63 53

/-- The class of an operation of the table "Operations" (R100). -/
inductive OpClass where
  | move | matrix | vector | convert | exchange | control
  deriving DecidableEq, Repr

/-- The class of an OP; none where the table has no such OP (R100). -/
def opClass (op : Nat) : Option OpClass :=
  if op ≤ 0x06 then some .move
  else if 0x10 ≤ op && op ≤ 0x12 then some .matrix
  else if 0x20 ≤ op && op ≤ 0x36 then some .vector
  else if 0x40 ≤ op && op ≤ 0x42 then some .convert
  else if 0x50 ≤ op && op ≤ 0x52 then some .exchange
  else if (0x70 ≤ op && op ≤ 0x78) || op = 0x7F then some .control
  else none

/-- The unit of a descriptor: 0 matrix, 1 vector, 2 and 3 the DMA channels; none for the sequencer (R85, R100). -/
def unitOf (d : Desc) : Option Nat :=
  match opClass (dOp d) with
  | some .matrix => some 0
  | some .vector => some 1
  | some .convert => some 1
  | some .move => some (2 + dCh d)
  | some .exchange => some (2 + dCh d)
  | _ => none

/-- An operand reference as its 64 bits (R98). -/
abbrev RefBits := Nat

/-- Reference k, from 0, of a body: bits [127..64] up (R101). -/
def dRef (d : Desc) (k : Nat) : RefBits := dbits d (127 + 64 * k) (64 + 64 * k)

/-- The spaces of R98. -/
def refSpace (r : RefBits) : Nat := Machine.bits r 63 62
/-- The byte offset of a tile-store reference. -/
def refOff (r : RefBits) : Nat := Machine.bits r 19 0
/-- TILE of a reference with SPACE 01b. -/
def refTile (r : RefBits) : Nat := Machine.bits r 50 40
/-- The model address of a reference with SPACE 10b. -/
def refAddr (r : RefBits) : Nat := Machine.bits r 51 0

/-- A reference holds a non-zero reserved bit: bits [61..52], and the bits that its SPACE gives as zero (R98). A FILL
pattern (`pattern`) and a stream word are not read so. -/
def refRsv (r : RefBits) : Bool :=
  Machine.bits r 61 52 ≠ 0 ||
    (if refSpace r = 0 then Machine.bits r 51 20 ≠ 0
     else if refSpace r = 1 then Machine.bits r 51 51 ≠ 0 || Machine.bits r 39 20 ≠ 0
     else if refSpace r = 3 then Machine.bits r 51 0 ≠ 0
     else false)

/-- SPACE 11b: none. -/
def refNone (r : RefBits) : Bool := refSpace r = 3

/-- A reference with a signed increment added to its ADDR; SPACE 11b is left (R113). In SPACE 01b the byte offset is
the part incremented (DEDUCED, log 20). -/
def refBump (r : RefBits) (inc : Int) : RefBits :=
  if refSpace r = 3 then r
  else
    let w := if refSpace r = 2 then 52 else 20
    let low : Nat := r % 2 ^ w
    let moved : Int := ((low : Int) + inc) % ((2 ^ w : Nat) : Int)
    r - low + moved.toNat

/-- The sum of the increments of the REPEATs in progress for the three references (R113, R114). -/
def loopIncs (ls : List Loop) : Int × Int × Int :=
  ls.foldl (fun a l => (a.1 + l.iter * l.inc1, a.2.1 + l.iter * l.inc2, a.2.2 + l.iter * l.inc3)) (0, 0, 0)

/-- An operand leaves its tile store or model space under its increment (R113): the plain sum, not wrapped. -/
def bumpLeaves (r : RefBits) (inc : Int) : Bool :=
  if refSpace r = 3 then false
  else
    let w := if refSpace r = 2 then 52 else 20
    let v : Int := ((r % 2 ^ w : Nat) : Int) + inc
    v < 0 || ((2 ^ w : Nat) : Int) ≤ v

/-- A descriptor of a REPEAT span with its increments added; a control body has no operand references. -/
def bumped (d : Desc) (incs : Int × Int × Int) : Desc :=
  if opClass (dOp d) = some .control then d
  else
    let n := d.toNat
    let a := refBump (dRef d 0) incs.1
    let b := refBump (dRef d 1) incs.2.1
    let c := refBump (dRef d 2) incs.2.2
    BitVec.ofNat 512 (n % 2 ^ 64 + a * 2 ^ 64 + b * 2 ^ 128 + c * 2 ^ 192 + n / 2 ^ 256 * 2 ^ 256)

end Sys2Proof.Machine
end

