-- ==== Sys2Proof/Machine/Icp.lean ====
section
/-! DEFINITION. How Owl checks a command, starts it and carries its verdict out (R8, R47 to R53, R59 to R64, R363). -/

namespace Sys2Proof.Machine

/-- The session of the queue that carries a command. -/
def Chip.sessionOf (c : Chip) (p : Icp) : Option Session := (c.queue p.queue).session.bind c.session

/-- An instance number of the header that R47 admits: 00h to 0Fh, or FFh. -/
def instOk (b : Byte) : Bool := b.toNat < 16 || b = 0xFF

/-- The checks of the header, in order (R8, R47, R51 to R53, R64): RSV_HEADER, INSTANCE, the version, the session, the
opcode, the flags, SEC_REQUIRED. Answers a status and its DETAIL. The order among them is the model's (DEDUCED, log 98).
-/
def Chip.headCheck (c : Chip) (op : Byte) (p : Icp) : Option (Nat × Nat) :=
  let s := c.sessionOf p
  let major := p.version.toNat / 16
  let hasKey := (s.bind (·.key)).isSome
  let sec := p.flags.getLsbD 5
  match lowestBit p.flags.toNat 4 with
  | some k => some (stRsvHeader, 24 + k)
  | none =>
    if !instOk p.inst then some (stNotPermitted, 0)
    else if s.isNone && !(major = 2 || major = 3) then some (stBadVersion, p.version.toNat)
    else if s.isNone && !(op = 0 || op = 1 || op = 3) then some (stNoSession, 0)
    else if s.any (fun s => s.version ≠ p.version) then some (stBadVersion, p.version.toNat)
    else match opRow op.toNat with
      | none => some (stBadOpcode, op.toNat)
      | some r =>
        if s.any (fun s => s.version.toNat < r.since) then some (stBadOpcode, op.toNat)
        else if 0x40 ≤ p.flags.toNat then some (stBadFlags, p.flags.toNat)
        else if sec && major = 2 then some (stBadFlags, p.flags.toNat)
        else if op = 6 && sec ≠ hasKey then some (stBadFlags, p.flags.toNat)
        else if s.any (·.secRequired) && hasKey && !sec && op ≠ 0 then some (stSecRequired, 0)
        else none

/-- Owl refuses a SEC packet without a key to open it, or whose TAG does not rise (R49, R363; the first DESIGN CHOICE,
log 21). -/
def Chip.authCheck (c : Chip) (p : Icp) : Option (Nat × Nat) :=
  if !p.flags.getLsbD 5 then none
  else if ((c.sessionOf p).bind (·.key)).isNone then some (stAuthFail, 0)
  else match (c.queue p.queue).secTag with
    | none => none
    | some t => if p.tag ≤ t then some (stAuthFail, 0) else none

/-- Record the TAG of a SEC command that Owl started (R363). -/
def Chip.noteSec (c : Chip) (p : Icp) : Chip :=
  if p.flags.getLsbD 5 then
    c.onQueue p.queue (fun u =>
      { u with secTag := some (match u.secTag with | none => p.tag | some t => if t < p.tag then p.tag else t) })
  else c

/-- READ and WRITE from OQ reach an instance's model space in an open debug session (R366). -/
def Chip.debugReach (c : Chip) (op : Byte) (p : Icp) : Bool :=
  (op = 0x32 || op = 0x33) && c.side.debugOpen && p.inst.toNat < 16 && c.side.debugMask.getLsbD p.inst.toNat

/-- The opcodes of scope O that act on the instance of the header: ATTEST, the queue commands, the instance commands,
quotas and guarantees (R64, R66, R161, R171, R348 to R351, R364). -/
def actsOnInst (op : Byte) : Bool := [0x07, 0x10, 0x11, 0x12, 0x20, 0x21, 0x22, 0x23, 0x24].contains op.toNat

/-- The command is outside its scope (R64, R366): from OQ, INSTANCE is FFh or the instance acted on, and a command that
acts on no instance takes FFh alone. -/
def Chip.outOfScope (c : Chip) (op : Byte) (p : Icp) : Bool :=
  match opRow op.toNat with
  | none => true
  | some r =>
    if p.queue < 256 then !r.onInst || p.inst.toNat ≠ p.queue / 16
    else if c.debugReach op p then false
    else !r.onOper || (p.inst ≠ 0xFF && !actsOnInst op)

/-- The checks after authentication, in order: the opcode's LENGTH, the scope, the TAG, RSV_PARAM, a reply too large for
its ring (R59, R62, R64, R8). -/
def Chip.bodyCheck (c : Chip) (op : Byte) (p : Icp) : Option (Nat × Nat) :=
  let s := c.sessionOf p
  let extra := if p.flags.getLsbD 5 then 16 else 0
  if p.params.length ≠ p.wanted op.toNat then some (stBadLength, 16 + p.params.length + extra)
  else if c.outOfScope op p then some (stNotPermitted, 0)
  else if c.started.any (·.isOpen p.queue p.tag) then some (stTagInUse, 0)
  else match p.rsvParam op.toNat with
    | some k => some (stRsvParam, k)
    | none =>
      let n := p.slotsNeeded op.toNat s
      if (c.queue p.queue).depth - 1 < n.1 + n.2 then some (stBadParam, (p.replyData op.toNat).2)
      else none

/-- All checks of a command whose bytes arrived whole. -/
def Chip.refusal (c : Chip) (op : Byte) (p : Icp) : Option (Nat × Nat) :=
  ((c.headCheck op p).orElse (fun _ => c.authCheck p)).orElse (fun _ => c.bodyCheck op p)

/-- The entry of a command that starts: it reserves the slots of its reply and COMMAND_DONE (R59). -/
def Chip.enter (c : Chip) (op : Byte) (p : Icp) (msg : Word) (taken : Bool) : Chip :=
  let n := p.slotsNeeded op.toNat (c.sessionOf p)
  let st : Started :=
    { num := c.starts, op := op, cmd := p, msg := msg, replySlots := n.1, doneSlots := n.2, pending := false, taken := taken,
      session := (c.queue p.queue).session }
  let c := c.onQueue p.queue (fun u => { u with reserved := u.reserved + n.1 + n.2 })
  { c with started := c.started ++ [st], starts := c.starts + 1 }

/-- The reference of a command that has started and not replied; its TAG is unique among those (R62). -/
def Chip.refOf (c : Chip) (p : Icp) : Ref :=
  ((c.started.find? (·.isOpen p.queue p.tag)).map (·.ref)).getD { queue := p.queue, tag := p.tag, num := 0 }

/-- What carrying a command out comes to. -/
inductive Verdict where
  /-- refused: no effect beyond its reply (R63) -/
  | refuse (status detail : Nat)
  /-- carried out: RESULT, reply data, and the chip before the reply -/
  | done (result : Nat) (data : List Byte) (c : Chip)
  /-- ended with another status after part of its effect -/
  | overs (status detail : Nat) (c : Chip)
  /-- accepted: PENDING, and the chip before the reply -/
  | pending (c : Chip)
  /-- it replies later, or has replied already -/
  | later (c : Chip)
  /-- the command waits, with no effect yet; its row comes again -/
  | wait

/-- Write the reply that a verdict gives. -/
def Chip.settle (c : Chip) (p : Icp) : Verdict → Chip
  | .refuse st d => c.reply p.queue p.tag st d 0 []
  | .done r data c => c.reply p.queue p.tag stOK 0 r data
  | .overs st d c => c.reply p.queue p.tag st d 0 []
  | .pending c => c.reply p.queue p.tag stPending 0 0 []
  | .later c => c
  | .wait =>
    { c with started := modFirst (fun st => st.cmd = p && st.taken && !st.pending) (fun st => { st with taken := false }) c.started }

/-- The queue exists and is not fenced (R66, R80). -/
def Chip.queueOpen (c : Chip) (q : Nat) : Bool :=
  q ≤ 256 && (c.queue q).depthLog2 ≠ 0 && !(c.queue q).fenced

/-- The entry of a command that Owl has started and whose own row is still to be carried out. -/
def Started.waits (op : Byte) (p : Icp) (st : Started) : Bool :=
  st.op = op && st.cmd = p && !st.taken && !st.pending

/-- Slots are free for the reply and the COMMAND_DONE (R59). -/
def Chip.hasSlots (c : Chip) (op : Byte) (p : Icp) : Bool :=
  let n := p.slotsNeeded op.toNat (c.sessionOf p)
  n.1 + n.2 ≤ (c.queue p.queue).freeSlots

/-- Slots are free for a refusal. -/
def Chip.hasSlot (c : Chip) (p : Icp) : Bool := slotsOf (32 + tagBytes (c.sessionOf p)) ≤ (c.queue p.queue).freeSlots

/-- FENCE lets the command start: it is clear, or every earlier command of the queue has replied (R47, R59). -/
def Chip.fenceMet (c : Chip) (p : Icp) : Bool :=
  !p.flags.getLsbD 4 || !c.started.any (fun st => st.cmd.queue = p.queue && !st.pending)

/-- `run` carries this command out now: it neither waits nor is refused by the checks that every command meets. -/
def Chip.runs (c : Chip) (op : Byte) (p : Icp) : Bool :=
  c.queueOpen p.queue &&
    (c.started.any (Started.waits op p) || ((c.refusal op p).isNone && c.fenceMet p && c.hasSlots op p))

/-- The chip as a command begins: its entry is marked, or made now (R59). -/
def Chip.begun (c : Chip) (op : Byte) (p : Icp) : Chip :=
  if c.started.any (Started.waits op p) then
    { c with started := modFirst (Started.waits op p) (fun st => { st with taken := true }) c.started }
  else (c.noteSec p).enter op p 0 true

/-- Carry a command out. A command that Owl has started from a ring (R59) was checked then; one given by its row alone
stands for an item that is started now, and is checked here (log 22). On a queue that does not exist, is fenced or has
no free completion slots, or while its FENCE waits, it does not start. -/
def Chip.run (c : Chip) (op : Byte) (p : Icp) (f : Chip → Icp → Verdict) : Chip :=
  if c.runs op p then (c.begun op p).settle p (f (c.begun op p) p)
  else if c.queueOpen p.queue then
    match c.refusal op p with
    | some (st, d) =>
      if c.fenceMet p && c.hasSlot p then (c.noteSec p).answer p op 0 (c.sessionOf p) st d 0 [] else c
    | none => c
  else c

/-- DETAIL of BAD_STATE (R63). -/
def Chip.phaseDetail (c : Chip) (p : Icp) : Nat := if p.who < 16 then c.phaseOf p.who else 0

/-- Refused with BAD_STATE. -/
def Chip.badState (c : Chip) (p : Icp) : Verdict := .refuse stBadState (c.phaseDetail p)

/-- Refused with BAD_PARAM and a byte offset. -/
def badParam (off : Nat) : Verdict := .refuse stBadParam off

/-- A command of OQ that acts on the instance of the header is refused when there is none (R63, R66, R351) (DETAIL
DEDUCED, log 98). -/
def Chip.needInst (c : Chip) (p : Icp) (k : Verdict) : Verdict :=
  if p.who = 255 then .refuse stNotPermitted 0
  else if !(c.inst p.who).live then .refuse stNoObject noInstance
  else k

/-- An ICP command behind the supply. -/
def icp (op : Byte) (p : Icp) (s : State) (f : Chip → Icp → Verdict) : Host.Outcome State Fault Refusal :=
  onChip s (fun c => c.run op p f)

end Sys2Proof.Machine
end

