-- ==== Sys2Proof/Machine/Rings.lean ====
section
/-! DEFINITION. Queue rings (R55 to R60), flushes, doorbells, completion heads (R324), items that Owl starts (R48, R49,
R59), notices written to their session (R72), ICP over UDP (R338 to R341). -/

namespace Sys2Proof.Machine

/-! Slot control (R55). -/
def slotEnd (s : BitVec 512) : Bool := s.getLsbD 511
def slotEpoch (s : BitVec 512) : Nat := bits s.toNat 495 480
def slotIndex (s : BitVec 512) : Nat := bits s.toNat 459 448
/-- The 56 packet bytes of a slot. -/
def slotData (s : BitVec 512) : List Byte := leBytes 56 s.toNat

def Queue.slot (u : Queue) (pos : Nat) : BitVec 512 := tget 0 u.slots pos

/-- QUEUE_STATUS.HEAD: the next slot Owl will read. -/
def Queue.head (u : Queue) : Nat :=
  match u.items with
  | [] => u.committed
  | i :: _ => i.start

/-- The positions of n slots of a ring from one on. -/
def Queue.span (u : Queue) (start n : Nat) : List Nat := (List.range n).map (fun k => (start + k) % u.depth)

/-- A position lies in a committed item that has not started. -/
def Queue.inItem (u : Queue) (pos : Nat) : Bool :=
  u.items.any (fun i => i.udp.isNone && (pos + u.depth - i.start) % u.depth < i.count)

/-- The TAG that a packet's first bytes hold. -/
def tagAt (bs : List Byte) : Nat := fieldAt bs 4 4

/-- DETAIL of TORN_ITEM (R75): how many were discarded, and the TAG where the first was held. -/
def tornDetail (n : Nat) (tag : Option Nat) : Nat :=
  n % 65536 * 2 ^ 48 + (match tag with | none => 0 | some t => 2 ^ 47 + t)

/-- TORN rises and TORN_ITEM is sent (R56, R60, R340). -/
def Chip.torn (c : Chip) (q n : Nat) (tag : Option Nat) : Chip :=
  let c := c.onQueue q (fun u => { u with torn := satAdd u.torn 1 })
  c.notify (if q < 256 then [q / 16] else []) ncTornItem q (tornDetail n tag)

/-- The TAG of the first discarded slot with INDEX 0, in ring order from a position. -/
def Queue.firstTag (u : Queue) (ps : List Nat) : Option Nat :=
  (ps.find? (fun p => slotIndex (u.slot p) = 0)).map (fun p => tagAt (slotData (u.slot p)))

/-- What an END slot at a position does (R56): its item runs from the end of the last one. A torn item too moves the end
of the last one (DEDUCED, log 84). -/
def Chip.endSlot (c : Chip) (q pos : Nat) : Chip :=
  let u := c.queue q
  let n := (pos + u.depth - u.committed) % u.depth + 1
  let ps := u.span u.committed n
  let good := (List.range n).all (fun k =>
    let p := (u.committed + k) % u.depth
    u.landed.contains p && slotIndex (u.slot p) = k && slotEpoch (u.slot p) = u.wepoch.toNat)
  let held := ps.filter (u.landed.contains ·)
  let v : Queue := { u with landed := u.landed.filter (fun p => !ps.contains p), committed := (pos + 1) % u.depth }
  if good then c.setQueue q { v with items := v.items ++ [{ start := u.committed, count := n, udp := none }] }
  else (c.setQueue q v).torn q held.length (u.firstTag held)

/-- A slot lands (R46, R56, R57, R59, R66, R80). A slot of a fenced queue, and one at a position at or above the queue's
depth, is ignored and counted nowhere (DEDUCED, log 84). -/
def Chip.landSlot (c : Chip) (r : Route) (q pos : Nat) (s : BitVec 512) : Chip :=
  let u := c.queue q
  if q > 256 || u.depthLog2 = 0 || r = .udp then c
  else if u.route ≠ r then c.setQueue q (u.addStale 1)
  else if u.depth ≤ pos || u.fenced then c
  else
    let c := if r = .onDie then c.hostWrite (u.ring + 64 * pos) (leBytes 64 s.toNat) else c
    if slotEpoch s ≠ u.wepoch.toNat then c.setQueue q (u.addStale 1)
    else
      let v : Queue := { u with slots := tput u.slots pos s }
      if u.inItem pos then c.setQueue q v
      else
        let v : Queue := { v with landed := if u.landed.contains pos then u.landed else u.landed ++ [pos] }
        let c := c.setQueue q v
        if slotEnd s then c.endSlot q pos else c

/-! Replies to commands that never started. -/

/-- Write a reply to a command that never started, or keep it until slots are free (R60, R80, R324) (DEDUCED, log 84).
-/
def Chip.owe (c : Chip) (o : Owed) : Chip :=
  let s := o.session.bind c.session
  let u := c.queue o.cmd.queue
  if u.owed.isEmpty && slotsOf (32 + tagBytes s) ≤ u.freeSlots then
    c.answer o.cmd o.op o.msg s o.status o.detail 0 []
  else c.setQueue o.cmd.queue { u with owed := u.owed ++ [o] }

/-- Write the owed replies that now find slots, oldest first. -/
def Chip.payOwed (q : Nat) : Nat → Chip → Chip
  | 0, c => c
  | n + 1, c =>
    match (c.queue q).owed with
    | [] => c
    | o :: rest =>
      let s := o.session.bind c.session
      if slotsOf (32 + tagBytes s) ≤ (c.queue q).freeSlots then
        Chip.payOwed q n ((c.onQueue q (fun u => { u with owed := rest })).answer o.cmd o.op o.msg s o.status o.detail 0 [])
      else c

/-- The bytes of an item as they stand (R59). -/
def Queue.itemBytes (u : Queue) (i : Item) : List Byte :=
  match i.udp with
  | some (_, bs) => bs
  | none => (u.span i.start i.count).flatMap (fun p => slotData (u.slot p))

/-- The opcode of a packet's header. -/
def headOp (bs : List Byte) : Byte := bs.getD 1 0

/-- The header of a packet, with parameters. -/
def headIcp (q : Nat) (bs params : List Byte) : Icp :=
  { queue := q, version := bs.getD 0 0, inst := bs.getD 2 0, flags := bs.getD 3 0, tag := BitVec.ofNat 32 (fieldAt bs 4 4),
    params := params }

def Item.msg (i : Item) : Word := match i.udp with | some (m, _) => m | none => 0

/-- Answer every committed item that has not started with a status (R60, R80). -/
def Chip.answerItems (c : Chip) (q status detail : Nat) : Chip :=
  let u := c.queue q
  (u.items.foldl (fun (c : Chip) i =>
    let bs := u.itemBytes i
    let p := headIcp q bs []
    (c.noteSec p).owe { op := headOp bs, cmd := p, msg := i.msg, session := u.session, status := status, detail := detail })
    c).onQueue q (fun u => { u with items := [] })

/-- Discard every partial packet of a UDP queue (R340). -/
def Chip.dropPartials (c : Chip) (q : Nat) : Chip :=
  let ps := (c.queue q).partials
  (ps.foldl (fun (c : Chip) p =>
    c.torn q p.held.length ((p.held.find? (·.1 = 0)).map (fun h => tagAt h.2))) c).onQueue q
      (fun u => { u with partials := [] })

/-- Segments held in partial packets. -/
def Queue.partialSegs (u : Queue) : Nat := (u.partials.map (·.held.length)).sum

/-- Flush a queue (R60): answers how many slots were discarded. -/
def Chip.flush (c : Chip) (q : Nat) : Chip × Nat :=
  let u := c.queue q
  let order := (u.span u.committed u.depth).filter (u.landed.contains ·)
  let n := order.length + u.partialSegs
  let c := c.answerItems q stFlushed q
  let c := c.onQueue q (fun u =>
    { u with wepoch := u.wepoch + 1, landed := [], slots := [], committed := 0, tail := 0, flushes := satAdd u.flushes 1 })
  let c := if order.isEmpty then c else c.torn q order.length (u.firstTag order)
  (c.dropPartials q, n)

/-- A doorbell write that arrives by a route (R58, R60, R66, R410); one to a fenced queue is ignored and counted nowhere
(DEDUCED, log 84). -/
def Chip.ringDoorbell (c : Chip) (r : Route) (q : Nat) (v : Double) : Chip :=
  let u := c.queue q
  if q > 256 || u.depthLog2 = 0 || u.fenced then c
  else if u.route ≠ r then c.setQueue q (u.addStale 1)
  else if v.extractLsb' 48 16 ≠ u.wepoch then c.setQueue q (u.addStale 1)
  else if v.getLsbD 47 then (c.flush q).1
  else
    let t := bits v.toNat 11 0
    if u.depth ≤ t then c.setQueue q (u.addStale 1) else c.setQueue q { u with tail := t }

/-- A host's write to a BAR reaches the function only in D0 (R325; PRESUMED, log 6). -/
def Chip.reaches (c : Chip) (r : Route) : Bool := r ≠ .pcie || !c.pcie.d3hot

/-- SLOT_WRITE (R56). -/
def execSlotWrite (r : Route) (q pos : Nat) (slot : BitVec 512) (s : State) : Host.Outcome State Fault Refusal :=
  onChip s (fun c => if c.reaches r then c.landSlot r q pos slot else c)

/-- DOORBELL (R58). -/
def execDoorbell (r : Route) (q : Nat) (v : Double) (s : State) : Host.Outcome State Fault Refusal :=
  onChip s (fun c => if c.reaches r then c.ringDoorbell r q v else c)

/-- DOORBELL_FLUSH (R60): the same write with FLUSH = 1. -/
def execDoorbellFlush (r : Route) (q : Nat) (v : Double) (s : State) : Host.Outcome State Fault Refusal :=
  onChip s (fun c => if c.reaches r then c.ringDoorbell r q (v ||| BitVec.ofNat 64 (2 ^ 47)) else c)

/-- A completion head write at a route's location (R324). -/
def Chip.writeHead (c : Chip) (r : Route) (q head : Nat) : Chip :=
  let u := c.queue q
  if q > 256 || u.depthLog2 = 0 || u.route ≠ r || r = .udp || u.depth ≤ head then c
  else Chip.payOwed q 4096 (c.setQueue q { u with cHead := head })

/-- COMPLETION_HEAD_WRITE (R324). -/
def execCompletionHeadWrite (r : Route) (q : Nat) (v : Double) (s : State) : Host.Outcome State Fault Refusal :=
  onChip s (fun c => if c.reaches r then c.writeHead r q (bits v.toNat 11 0) else c)

/-- What a route's location of a completion head reads as: 0 where the queue is of the other route (R324). -/
def Chip.readHead (c : Chip) (r : Route) (q : Nat) : Nat :=
  let u := c.queue q
  if q > 256 || u.depthLog2 = 0 || u.route ≠ r then 0 else u.cHead

/-! Owl (R59). -/

/-- LENGTH fits the bytes that the item carries (R48). -/
def lengthFits (i : Item) (len : Nat) : Bool :=
  16 ≤ len && len ≤ 65536 && len % 4 = 0 &&
    (match i.udp with | some (_, bs) => len = bs.length | none => slotsOf len = i.count)

/-- Parameters in clear: opened under the session's key where SEC is set (R49, R363). -/
def Chip.openParams (c : Chip) (q : Nat) (bs : List Byte) (raw : List Byte) : Option (List Byte) :=
  let p := headIcp q bs raw
  if !p.flags.getLsbD 5 then some raw
  else match (c.sessionOf p).bind (fun s => s.key.map (fun k => (s.ident, k))) with
    | none => none
    | some (ident, k) =>
      gcmOpen (keyBytes k) (gcmNonce ident q 0 p.tag)
        (headerAad p.version (headOp bs) p.inst p.flags p.tag (16 + raw.length)) raw

/-- What Owl makes of an item: its opcode, the command in clear, and the refusal, if any (R48, R49, R59, R63). -/
def Chip.judge (c : Chip) (q : Nat) (i : Item) : Byte × Icp × Option (Nat × Nat) :=
  let bs := (c.queue q).itemBytes i
  let op := headOp bs
  let len := fieldAt bs 8 4
  let raw := cut bs 16 (len - 16)
  let p0 := headIcp q bs raw
  let crc := crc32c (cut bs 0 12 ++ raw)
  if !lengthFits i len then (op, p0, some (stBadLength, len))
  else if crc ≠ fieldAt bs 12 4 then (op, p0, some (stCrcError, crc))
  else match (c.headCheck op p0).orElse (fun _ => c.authCheck p0) with
    | some r => (op, p0, some r)
    | none =>
      match c.openParams q bs raw with
      | none => (op, p0, some (stAuthFail, 0))
      | some clear =>
        let p : Icp := { p0 with params := clear }
        (op, p, c.bodyCheck op p)

/-- A queue whose first item Owl may start now: not fenced, its FENCE met, its completion slots free. -/
def Chip.startable (c : Chip) (q : Nat) : Bool :=
  let u := c.queue q
  match u.items with
  | [] => false
  | i :: _ =>
    let j := c.judge q i
    c.queueOpen q && c.fenceMet j.2.1 && (if j.2.2.isSome then c.hasSlot j.2.1 else c.hasSlots j.1 j.2.1)

/-- The queue whose turn it is, round-robin from the one started last (R59). -/
def Chip.turn (c : Chip) : Option Nat :=
  ((List.range 257).map (fun k => (c.lastStarted + 1 + k) % 257)).find? (c.startable ·)

/-- Owl takes the first item of a queue: refuses it, or starts its command. A SEC packet whose CRC holds counts for
R363. -/
def Chip.startItem (c : Chip) (q : Nat) : Chip :=
  let u := c.queue q
  match u.items with
  | [] => c
  | i :: rest =>
    let (op, p, r) := c.judge q i
    let ses := c.sessionOf p
    let c : Chip := { c.setQueue q { u with items := rest } with lastStarted := q }
    let c := if r.any (fun r => r.1 = stBadLength || r.1 = stCrcError) then c else c.noteSec p
    match r with
    | some r => c.answer p op i.msg ses r.1 r.2 0 []
    | none => c.enter op p i.msg false

/-- OWL_ITEM_START (R59): only the queue whose turn it is starts. No doorbell is needed (DEDUCED, log 84). -/
def execOwlItemStart (q : Nat) (s : State) : Host.Outcome State Fault Refusal :=
  onChip s (fun c => if c.turn = some q then c.startItem q else c)

/-! Notices (R71, R72). -/

/-- The queue that a session's notices are written to: its lowest-numbered (R72). -/
def Session.noticeQueue (s : Session) : Option Nat :=
  s.queues.foldl (fun b q => match b with | none => some q | some m => some (min m q)) none

/-- The notice packet of an entry (R71). -/
def NEntry.packet (e : NEntry) (nq : Nat) (s : Session) (seq : Word) (dropped : Half) : Packet :=
  { opcode := 0xF0, version := s.version, inst := if nq = 16 then 0xFF else BitVec.ofNat 8 nq,
    flags := 0x40 ||| secFlag (some s), tag := seq,
    params := noticeParams e.code e.count e.severity dropped e.time e.subject e.detail }

/-- The route of a queue can carry a packet of a session now (R324, R329, R337). -/
def Chip.canDeliver (c : Chip) (q : Nat) (s : Session) : Bool :=
  let u := c.queue q
  match u.route with
  | .udp => u.peer.any (fun p => c.ethUp p.port)
  | .pcie => c.pcie.linkUp && slotsOf (48 + tagBytes (some s)) ≤ u.freeSlots
  | .onDie => slotsOf (48 + tagBytes (some s)) ≤ u.freeSlots

/-- Send the next notice of a notice queue: first the entries sent and not acknowledged before this session, as they
were sent, then those not yet sent (R72). -/
def Chip.deliverNotice (c : Chip) (nq : Nat) : Chip :=
  let n := c.noticeQ nq
  match n.receiver.bind c.session with
  | none => c
  | some s =>
    match s.noticeQueue with
    | none => c
    | some q =>
      if !c.canDeliver q s then c
      else match n.entries.find? (fun e => e.sent.any (fun p => !n.deliveredNow.contains p.1)) with
        | some e =>
          let sd := e.sent.getD (0, 0)
          (c.setNoticeQ nq { n with deliveredNow := n.deliveredNow ++ [sd.1] }).deliver q 3 sd.1 (some s)
            (e.packet nq s sd.1 sd.2)
        | none =>
          match n.entries.find? (·.sent.isNone) with
          | none => c
          | some e =>
            let v : NoticeQ :=
              { n with entries := modFirst (·.sent.isNone) (fun e => { e with sent := some (n.nextSeq, n.droppedSince) }) n.entries
                       nextSeq := n.nextSeq + 1, droppedSince := 0, deliveredNow := n.deliveredNow ++ [n.nextSeq] }
            (c.setNoticeQ nq v).deliver q 3 n.nextSeq (some s) (e.packet nq s n.nextSeq n.droppedSince)

/-- NOTICE_DELIVER (R72). -/
def execNoticeDeliver (nq : Nat) (s : State) : Host.Outcome State Fault Refusal :=
  onChip s (fun c => if nq ≤ 16 then c.deliverNotice nq else c)

/-- Every notice already sent on a UDP queue and not covered is sent again (R341). -/
def Chip.resendNotices (c : Chip) (q : Nat) : Chip :=
  if (c.queue q).route ≠ .udp then c
  else
    let nq := if q < 256 then q / 16 else 16
    let n := c.noticeQ nq
    match n.receiver.bind c.session with
    | none => c
    | some s =>
      if s.noticeQueue ≠ some q || !c.canDeliver q s then c
      else n.entries.foldl (fun (c : Chip) e => match e.sent with
        | none => c
        | some sd => if n.deliveredNow.contains sd.1 then c.deliver q 3 sd.1 (some s) (e.packet nq s sd.1 sd.2) else c) c

/-- UDP_NOTICE_RESEND (R341). -/
def execUdpNoticeResend (q : Nat) (s : State) : Host.Outcome State Fault Refusal :=
  onChip s (fun c => c.resendNotices q)

/-! ICP over UDP (R338 to R341). -/

/-- A whole packet of a UDP queue: answered from the reply cache, discarded as a resend of a running command, or
committed (R340, R341). An OPEN_SESSION binds the queue (R339). -/
def Chip.commitUdp (c : Chip) (q : Nat) (peer : UdpPeer) (msg : Word) (bs : List Byte) : Chip :=
  let u := c.queue q
  let tag := BitVec.ofNat 32 (tagAt bs)
  let u : Queue := if headOp bs = 1 && u.peer.isNone then { u with peer := some peer, lastPeer := some peer } else u
  let c := c.setQueue q u
  match u.cache.find? (fun k => k.msg = msg && k.tag = tag) with
  | some k =>
    let s := u.session.bind c.session
    let c := c.deliver q 2 msg s k.reply
    (match k.done with | none => c | some d => c.deliver q 3 msg s d)
  | none =>
    if c.started.any (fun st => st.cmd.queue = q && st.msg = msg && st.cmd.tag = tag) ||
      u.items.any (fun i => i.msg = msg && BitVec.ofNat 32 (tagAt (u.itemBytes i)) = tag) then c
    else c.setQueue q { u with items := u.items ++ [{ start := 0, count := 0, udp := some (msg, bs) }] }

/-- The bytes of a complete partial packet, in order of segment. -/
def Partial.whole (p : Partial) : Option (List Byte) :=
  if (List.range p.segs).all (fun k => p.held.any (·.1 = k)) then
    some ((List.range p.segs).flatMap (fun k => ((p.held.find? (·.1 = k)).map (·.2)).getD []))
  else none

/-- Hold a segment of a packet; a fifth partial packet discards the oldest (R340). -/
def Chip.holdSegment (c : Chip) (q : Nat) (peer : UdpPeer) (msg : Word) (segs size seg : Nat) (wep : Half) (bs : List Byte) :
    Chip :=
  let u := c.queue q
  let c :=
    if u.partials.any (·.msg = msg) then
      c.setQueue q { u with partials := u.partials.map (fun p =>
        if p.msg = msg && p.segs = segs && p.size = size && p.wepoch = wep && !p.held.any (·.1 = seg) then
          { p with held := p.held ++ [(seg, bs)] } else p) }
    else
      let c := if u.partials.length < 4 then c else
        match u.partials with
        | [] => c
        | p :: rest => (c.setQueue q { u with partials := rest }).torn q p.held.length
            ((p.held.find? (·.1 = 0)).map (fun h => tagAt h.2))
      c.onQueue q (fun u =>
        { u with partials := u.partials ++ [{ msg := msg, segs := segs, size := size, wepoch := wep, held := [(seg, bs)] }] })
  let u := c.queue q
  match (u.partials.find? (·.msg = msg)).bind (·.whole) with
  | none => c
  | some bs => (c.setQueue q { u with partials := u.partials.filter (·.msg ≠ msg) }).commitUdp q peer msg bs

/-- A segment is well formed (R338): MAGIC, KIND, SIZE, SEGS, SEG, LEN; every segment but the last has exactly the size. -/
def segmentOk (h : Nat) (n : Nat) : Bool :=
  let size := if bits h 39 32 = 0 then 1024 else 8192
  bits h 15 0 = 0x1CF0 && bits h 47 40 = 1 && bits h 39 32 ≤ 1 && 1 ≤ bits h 63 56 && bits h 63 56 ≤ 64 &&
    bits h 55 48 < bits h 63 56 && bits h 31 16 = n && n % 4 = 0 && n ≤ size &&
    (bits h 55 48 + 1 = bits h 63 56 || n = size)

/-- A segment taken from the ICP port (R338 to R340); a malformed one is dropped and counted so (R379; DEDUCED, log 23). -/
def Chip.udpSegment (c : Chip) (port : Nat) (src : BitVec 128) (srcPort : Half) (hdr : BitVec 128) (seg : List Byte) : Chip :=
  let h := hdr.toNat
  let q := bits h 95 80
  if !segmentOk h seg.length then c.malformed port
  else
    let c := c.onEth port (fun e => { e with icp := satAdd e.icp 1 })
    let u := c.queue q
    let peer : UdpPeer := { port := port, addr := src, uport := srcPort }
    if 256 ≤ q || u.depthLog2 = 0 || u.fenced then c
    else if u.route ≠ .udp then c.setQueue q (u.addStale 1)
    else if u.peer.any (· ≠ peer) || hdr.extractLsb' 64 16 ≠ u.wepoch then c.setQueue q (u.addStale 1)
    else c.holdSegment q peer (hdr.extractLsb' 96 32) (bits h 63 56) (bits h 39 32) (bits h 55 48) u.wepoch seg

/-- UDP_SEGMENT (R335, R336, R340). -/
def execUdpSegment (port : Nat) (f : Frame) (srcPort checksum : Half) (hdr : BitVec 128) (seg : List Byte) (s : State) :
    Host.Outcome State Fault Refusal :=
  onChip s (fun c => c.udpIn port f srcPort icpPort checksum (leBytes 16 hdr.toNat ++ seg) (fun c =>
    c.udpSegment port f.src srcPort hdr seg))

/-- UDP_PARTIAL_TIMEOUT (R340): 10 ms after its first segment, a partial packet is discarded with TORN_ITEM. -/
def execUdpPartialTimeout (q : Nat) (msg : Word) (s : State) : Host.Outcome State Fault Refusal :=
  onChip s (fun c =>
    match (c.queue q).partials.find? (·.msg = msg) with
    | none => c
    | some p =>
      (c.onQueue q (fun u => { u with partials := u.partials.filter (·.msg ≠ msg) })).torn q p.held.length
        ((p.held.find? (·.1 = 0)).map (fun h => tagAt h.2)))

end Sys2Proof.Machine
end

