-- ==== Sys2Proof/Machine/Regs.lean ====
section
/-! DEFINITION. The register window (R76 to R79, R410), the module status block (R400), core-local registers and feed
stream blocks (R322, R342), the MSI-X table (R326, R327). -/

namespace Sys2Proof.Machine

/-- A 64-bit register from its fields, each a value and its lowest bit. -/
def fields (fs : List (Nat × Nat)) : Double := BitVec.ofNat 64 (fs.map (fun f => f.1 * 2 ^ f.2)).sum

/-- Pending dense objects of an instance (R25). -/
def Chip.densePending (c : Chip) (i : Nat) : Nat := ((c.inst i).objs.filter (c.pendingObj i)).length

/-- EPOCH_STATUS (R43). -/
def Chip.epochStatus (c : Chip) (i : Nat) : Double :=
  let j := c.job i
  fields [(j.phase.code, 61), (bit j.skipped, 60), (min (c.densePending i) 255, 48), (j.epoch, 0)]

/-- An engine of this device stalls overwrites of the instance on a full log (R37). -/
def Chip.logStall (c : Chip) (i : Nat) : Bool := (c.inst i).tables.any (fun t => t.engs.any (fun e => e.2.stalled))

/-- SNAPSHOT_STATUS (R43). -/
def Chip.snapshotStatus (c : Chip) (i : Nat) : Double :=
  fields [(bit (c.inst i).snapValid, 63), (bit (c.logStall i), 62),
    (if (c.inst i).snapValid then (c.inst i).snapEpoch else 0, 0)]

/-- NOTICE_STATUS (R76). -/
def Chip.noticeStatus (c : Chip) (n : Nat) : Double :=
  let q := c.noticeQ n
  fields [(q.nextSeq.toNat, 32), (q.entries.length, 16), (q.dropped.toNat, 0)]

/-- ROUTE of QUEUE_STATUS. -/
def routeCode : Route → Nat
  | .onDie => 0
  | .pcie => 1
  | .udp => 2

/-- QUEUE_STATUS (R76); a queue that does not exist keeps only WEPOCH (R66). -/
def Chip.queueStatus (c : Chip) (q : Nat) : Double :=
  let u := c.queue q
  if u.depthLog2 = 0 then fields [(u.wepoch.toNat, 48)]
  else fields [(u.wepoch.toNat, 48), (u.depthLog2, 32), (bit (u.session.bind c.session).isSome, 31),
    (routeCode u.route, 29), (u.head, 12), (u.committed, 0)]

/-- QUEUE_COUNTS (R76). -/
def Chip.queueCounts (c : Chip) (q : Nat) : Double :=
  let u := c.queue q
  fields [(u.stale.toNat, 32), (u.torn.toNat, 16), (u.flushes.toNat, 0)]

/-- RESET_STATUS (R400). -/
def Chip.resetStatus (c : Chip) : Double :=
  fields [(c.boot.cause.toNat, 60), (bit c.boot.copyB, 59), (bit c.boot.defaults, 58), (bit c.boot.fallback, 57),
    (c.boot.boots.toNat, 0)]

/-- The retired units of a class among the first n, as bits. -/
def Chip.retiredBits (c : Chip) (cls n : Nat) : Nat := ((List.range n).map (fun k => bit (c.isRetired cls k) * 2 ^ k)).sum

/-- LIVE (R400). -/
def Chip.live (c : Chip) : Double :=
  fields [(c.liveTiles, 48), (c.liveCount 4 1024, 37), (c.liveCount 5 96, 30), (c.liveCount 9 64, 23),
    (c.liveCount 7 16, 18), (c.liveCount 8 8, 14), (c.retiredBits 11 4, 10), (c.retiredBits 10 4, 6),
    (c.retiredBits 2 4, 2)]

/-- UNIT_STATE (R69). -/
def Chip.unitState (c : Chip) (cls n : Nat) : Double :=
  fields [(if c.isRetired cls n then 5 else (c.unit ⟨cls, n⟩).st.code, 0)]

/-- The ID register (R76): E2F0h, 1600h, B0h. -/
def idReg : Double := 0xE2F01600B0000000

/-- The double at a window offset that is a multiple of 8 (R76, R400); `tenant` for an instance session. -/
def Chip.reg (c : Chip) (tenant : Bool) (off : Nat) : Double :=
  if off = 0x0000 then idReg
  else if off = 0x0008 then Config.serial
  else if off = 0x0010 then 0x322420
  else if off = 0x0018 then c.boot.fw.getD 0 0
  else if off = 0x0020 then c.boot.fw.getD 1 0
  else if off = 0x0028 then c.boot.fw.getD 2 0
  else if off = 0x0038 then c.boot.configSeq
  else if off = 0x0100 then c.resetStatus
  else if off = 0x0108 then c.live
  else if off = 0x0110 then if tenant then 0 else fields [(meanOf c.side.vins, 16), (meanOf c.side.pins, 0)]
  else if off = 0x0118 then if tenant then 0 else c.poisonReads
  else if 0x0200 ≤ off && off < 0x0300 then c.unitState 0 ((off - 0x0200) / 8)
  else if 0x0300 ≤ off && off < 0x0310 then c.unitState 1 ((off - 0x0300) / 8)
  else if 0x0310 ≤ off && off < 0x0330 then c.unitState 2 ((off - 0x0310) / 8)
  else if 0x1000 ≤ off && off < 0x2000 then
    let i := (off - 0x1000) / 256
    if off % 256 = 0 then c.epochStatus i
    else if off % 256 = 8 then c.snapshotStatus i
    else if off % 256 = 16 then c.noticeStatus i
    else 0
  else if 0x4000 ≤ off && off < 0x5010 then
    let q := (off - 0x4000) / 16
    if off % 16 = 0 then c.queueStatus q else c.queueCounts q
  else if off = 0x5010 then c.noticeStatus 16
  else 0

/-- The queue whose doorbell lies at an offset (R58). -/
def bellOf (off : Nat) : Option Nat := if 0x8000 ≤ off && off ≤ 0x8800 && off % 8 = 0 then some ((off - 0x8000) / 8) else none

/-- The offset holds a W1C register or a doorbell, which half writes stage (R79). -/
def stages (off : Nat) : Bool :=
  (bellOf off).isSome || (0x4000 ≤ off && off < 0x5010 && off % 16 = 8) || off = 0x5010 ||
    (0x1000 ≤ off && off < 0x2000 && off % 256 = 16)

/-- A write to a window register under a mask, on a route (R76, R79, R410): W1C bits are cleared where mask and value are
1; a doorbell takes the bits outside the mask as 0; everything else is read-only. -/
def Chip.regWrite (c : Chip) (r : Route) (off : Nat) (mask value : Double) : Chip :=
  let v := mask &&& value
  match bellOf off with
  | some q => c.ringDoorbell r q v
  | none =>
    if 0x4000 ≤ off && off < 0x5010 && off % 16 = 8 then
      c.onQueue ((off - 0x4000) / 16) (fun u =>
        { u with stale := u.stale &&& ~~~(v.extractLsb' 32 32), torn := u.torn &&& ~~~(v.extractLsb' 16 16),
                 flushes := u.flushes &&& ~~~(v.extractLsb' 0 16) })
    else if off = 0x5010 then c.onNoticeQ 16 (fun n => { n with dropped := n.dropped &&& ~~~(v.extractLsb' 0 16) })
    else if 0x1000 ≤ off && off < 0x2000 && off % 256 = 16 then
      c.onNoticeQ ((off - 0x1000) / 256) (fun n => { n with dropped := n.dropped &&& ~~~(v.extractLsb' 0 16) })
    else c

/-- New bits under a mask. -/
def merge {w : Nat} (mask old new : BitVec w) : BitVec w := (old &&& ~~~mask) ||| (new &&& mask)

/-! Local registers of a core (R322). -/

/-- A write to a local register of a core (R322): IRQ only. The core meets its external interrupt at once. -/
def Chip.coreWrite (c : Chip) (k off : Nat) (mask v : Double) : Chip :=
  if off ≠ 0 then c
  else
    let r := c.core k
    c.setCore k ({ r with enable := merge (mask.extractLsb' 32 16) r.enable (v.extractLsb' 32 16)
                          pending := r.pending &&& ~~~((mask &&& v).extractLsb' 0 16) } : Core).meet

/-- A local register of a core (R322): IRQ, TIME, and 0 elsewhere. -/
def Chip.coreRead (c : Chip) (k off : Nat) : Double :=
  if off = 0 then fields [((c.core k).enable.toNat, 32), ((c.core k).pending.toNat, 0)]
  else if off = 8 then BitVec.ofNat 64 c.sc
  else 0

/-! Feed stream blocks (R342). -/

/-- A write that sets EN of a feed stream is allowed (R337, R342; the ranges of its fields, log 25). -/
def Chip.feedMay (c : Chip) (s : Nat) (f : Feed) : Bool :=
  let p := f.udpPort.toNat
  !c.isRetired 1 (s / 16) && p ≠ 47610 && 1024 ≤ p && 6 ≤ f.log2Slots.toNat && f.log2Slots.toNat ≤ 16 &&
    1 ≤ f.coalesce.toNat && f.base.toNat % 16384 = 0 && f.base.toNat + 16384 * 2 ^ f.log2Slots.toNat ≤ hostTop &&
    (List.range 32).all (fun t => t = s || t / 16 ≠ s / 16 || !(c.feed t).en || (c.feed t).udpPort ≠ f.udpPort)

/-- A write to a feed stream's block (R342). -/
def Chip.feedWrite (c : Chip) (s off : Nat) (mask v : Double) : Chip :=
  if 32 ≤ s then c
  else
    let f := c.feed s
    if off = 0 then
      let g : Feed :=
        { f with vector := merge (mask.extractLsb' 48 8) f.vector (v.extractLsb' 48 8)
                 udpPort := merge (mask.extractLsb' 32 16) f.udpPort (v.extractLsb' 32 16)
                 log2Slots := if f.en then f.log2Slots else merge (mask.extractLsb' 16 5) f.log2Slots (v.extractLsb' 16 5)
                 coalesce := merge (mask.extractLsb' 0 16) f.coalesce (v.extractLsb' 0 16) }
      let wants := if mask.getLsbD 63 then v.getLsbD 63 else f.en
      if wants && c.feedMay s g then c.setFeed s { g with en := true }
      else if f.en || (mask.getLsbD 63 && !v.getLsbD 63) then c.setFeed s { g with en := false, head := 0, tail := 0 }
      else c.setFeed s { g with en := false }
    else if off = 8 then if f.en then c else c.setFeed s { f with base := merge mask f.base v }
    else if off = 16 then c.setFeed s { f with tail := merge (mask.extractLsb' 0 32) f.tail (v.extractLsb' 0 32) }
    else if off = 24 then c.setFeed s { f with dropped := f.dropped &&& ~~~((mask &&& v).extractLsb' 0 32) }
    else c

/-- A double of a feed stream's block (R342). -/
def Chip.feedRead (c : Chip) (s off : Nat) : Double :=
  let f := c.feed s
  if off = 0 then
    fields [(bit f.en, 63), (f.vector.toNat, 48), (f.udpPort.toNat, 32), (f.log2Slots.toNat, 16), (f.coalesce.toNat, 0)]
  else if off = 8 then f.base
  else if off = 16 then fields [(f.head.toNat, 32), (f.tail.toNat, 0)]
  else if off = 24 then fields [(f.received.toNat, 32), (f.dropped.toNat, 0)]
  else 0

/-! The MSI-X table and PBA (R326, R327) and the configuration space (R325). -/

/-- A write to an MSI-X entry (R326, R327): address at 0, data and the Mask bit of the vector control at 8. -/
def Chip.msixWrite (c : Chip) (e off : Nat) (mask v : Double) : Chip :=
  if 257 ≤ e then c
  else
    let m := c.msixEntry e
    if off = 0 then c.setMsix e { m with addr := merge mask m.addr v }
    else if off = 8 then
      c.setMsix e { m with data := merge (mask.extractLsb' 0 32) m.data (v.extractLsb' 0 32)
                           masked := if mask.getLsbD 32 then v.getLsbD 32 else m.masked }
    else c

/-- A double of the MSI-X table (R326). -/
def Chip.msixRead (c : Chip) (e off : Nat) : Double :=
  let m := c.msixEntry e
  if off = 0 then m.addr else fields [(bit m.masked, 32), (m.data.toNat, 0)]

/-- A double of the PBA: a bit for each of 64 entries (R326). -/
def Chip.pbaRead (c : Chip) (n : Nat) : Double :=
  fields ((List.range 64).map (fun k => (bit (64 * n + k < 257 && (c.msixEntry (64 * n + k)).pba), k)))

/-- A double of the configuration space of the function (R325). Identity and class stand where the header of PCI Express
has them; the offsets of the three capabilities are the model's (DESIGN CHOICE, log 6): power state at 40h, Device Control
at 78h, MSI-X at B0h. -/
def Chip.configRead (c : Chip) (off : Nat) : Double :=
  if off = 0 then fields [(0x1600, 16), (0xE2F0, 0)]
  else if off = 8 then fields [(0x120000, 8), (0xB0, 0)]
  else if off = 0x40 then fields [(if c.pcie.d3hot then 3 else 0, 32)]
  else if off = 0x78 then fields [(c.pcie.maxRead, 12), (c.pcie.maxPayload, 5)]
  else if off = 0xB0 then fields [(bit c.pcie.msixEnable, 31), (bit c.pcie.functionMask, 30), (256, 16)]
  else 0

/-- A write to the configuration space: the states and sizes of R325, and nothing that it does not list. -/
def Chip.configWrite (c : Chip) (off : Nat) (mask v : Double) : Chip :=
  let w := (merge mask (c.configRead off) v).toNat
  let p := c.pcie
  if off = 0x40 then
    { c with pcie := { p with d3hot := if bits w 33 32 = 3 then true else if bits w 33 32 = 0 then false else p.d3hot } }
  else if off = 0x78 then
    { c with pcie := { p with maxPayload := if bits w 7 5 ≤ 2 then bits w 7 5 else p.maxPayload
                              maxRead := if bits w 14 12 ≤ 5 then bits w 14 12 else p.maxRead } }
  else if off = 0xB0 then { c with pcie := { p with msixEnable := bitOf w 31, functionMask := bitOf w 30 } }
  else c

/-! Slots written by parts (R321, R327). -/

/-- The slot at a position of a ring with n bytes written from byte `at_` on. -/
def Queue.slotWith (u : Queue) (pos at_ n v : Nat) : BitVec 512 :=
  let old := (tget 0 u.slots pos).toNat
  BitVec.ofNat 512 (old - old / 2 ^ (8 * at_) % 2 ^ (8 * n) * 2 ^ (8 * at_) + v % 2 ^ (8 * n) * 2 ^ (8 * at_))

/-- A store of n bytes into a slot of a BAR2 ring: the slot lands with its byte 63 (R327). -/
def Chip.slotStore (c : Chip) (q pos at_ n v : Nat) : Chip :=
  let u := c.queue q
  if q > 256 || u.depthLog2 = 0 || u.route ≠ .pcie || u.depth ≤ pos then c
  else if 64 ≤ at_ + n then c.landSlot .pcie q pos (u.slotWith pos at_ n v)
  else c.setQueue q { u with slots := tput u.slots pos (u.slotWith pos at_ n v) }

/-- The on-die queue and the position whose slot has its byte 63 at a host address (R321). -/
def Chip.slotEnding (c : Chip) (a : Nat) : Option (Nat × Nat) :=
  ((List.range 257).find? (fun q =>
    let u := c.queue q
    u.depthLog2 ≠ 0 && u.route = .onDie && u.ring ≤ a && a < u.ring + 64 * u.depth)).bind (fun q =>
      if (a - (c.queue q).ring) % 64 = 63 then some (q, (a - (c.queue q).ring) / 64) else none)

/-- A store of a core to the lower host region: plain memory, and the slots whose byte 63 it writes land (R321). -/
def Chip.hostStore (c : Chip) (a n v : Nat) : Chip :=
  (List.range n).foldl (fun (c : Chip) k => match c.slotEnding (a + k) with
    | some (q, pos) => c.landSlot .onDie q pos (BitVec.ofNat 512 (leNat (c.hostRead (a + k - 63) 64)))
    | none => c) (c.hostWrite a (leBytes n v))

/-! Loads and stores (R76, R78, R79, R319, R320, R322, R324, R326). -/

/-- What stands at an address. -/
inductive Loc where
  | window (off : Nat)
  | coreLocal (k off : Nat)
  | feed (s off : Nat)
  | head (r : Route) (q : Nat)
  | slot (q pos off : Nat)
  | msix (entry off : Nat)
  | pba (n : Nat)
  | config (off : Nat)
  | memory (a : Nat)
  /-- it reads 0 and ignores writes -/
  | nothing
  /-- no access of that kind: the fault of R319 and R320 on a core; through the function it has no effect -/
  | absent
  deriving DecidableEq, Repr, Inhabited

/-- The double at a physical address of the control cores (table "Control-core physical map"). -/
def coreLoc (a : Nat) : Loc :=
  let base := 0x1000000000
  if a < base then .absent
  else
    let o := (a - base) / 8 * 8
    if o < 0x10000 then .window o
    else if o < 0x20000 then .coreLocal ((o - 0x10000) / 0x1000) (o % 0x1000)
    else if o < 0x20800 then .feed ((o - 0x20000) / 0x40) (o % 0x40)
    else if 0x30000 ≤ o && o ≤ 0x30800 then .head .onDie ((o - 0x30000) / 8)
    else .absent

/-- The double at an offset of BAR2 (table "BAR map"). -/
def bar2Loc (a : Nat) : Loc :=
  let o := a / 8 * 8
  if o < 0x4040000 then .slot (o / 0x40000) (o % 0x40000 / 64) (o % 64)
  else if 0x6000000 ≤ o && o ≤ 0x6000800 then .head .pcie ((o - 0x6000000) / 8)
  else .nothing

/-- The double at an offset of BAR4 (table "BAR map"). -/
def bar4Loc (a : Nat) : Loc :=
  let o := a / 8 * 8
  if o < 16 * 257 then .msix (o / 16) (o % 16)
  else if 0x2000 ≤ o && o < 0x2028 then .pba ((o - 0x2000) / 8)
  else .nothing

/-- Where an access of `size` bytes goes. An access to an I/O range is of 4 or 8 bytes and aligned (R320); the same is
taken of the function's BARs, which answer only in D0 (log 6). -/
def Chip.locate (c : Chip) (p : Path) (a size : Nat) : Loc :=
  let aligned := (size = 4 || size = 8) && a % size = 0
  match p with
  | .core k => if k < 16 && a + size ≤ hostTop then .memory a else if k < 16 && aligned then coreLoc a else .absent
  | .config => if aligned then .config (a / 8 * 8) else .absent
  | .bar0 => if !aligned || c.pcie.d3hot then .absent else if a < 0x10000 then .window (a / 8 * 8) else .absent
  | .bar2 => if !aligned || c.pcie.d3hot then .absent else bar2Loc a
  | .bar4 => if !aligned || c.pcie.d3hot then .absent else bar4Loc a

/-- The double at a place other than the window and plain memory. -/
def Chip.loadAt (c : Chip) : Loc → Double
  | .coreLocal k off => c.coreRead k off
  | .feed s off => c.feedRead s off
  | .head r q => BitVec.ofNat 64 (c.readHead r q)
  | .slot q pos off =>
    let u := c.queue q
    if u.depthLog2 = 0 || u.route ≠ .pcie || u.depth ≤ pos then 0 else (tget 0 u.slots pos).extractLsb' (8 * off) 64
  | .msix e off => c.msixRead e off
  | .pba n => c.pbaRead n
  | .config off => c.configRead off
  | .window _ | .memory _ | .nothing | .absent => 0

/-- The route by which a path's doorbell writes arrive (R44). -/
def pathRoute : Path → Route
  | .core _ => .onDie
  | _ => .pcie

/-- The path is a control core: all 16 share a latch and a stage (R78). -/
def isCore : Path → Bool
  | .core _ => true
  | _ => false

def Chip.latch (c : Chip) (p : Path) (off : Nat) : Word := tget 0 (if isCore p then c.latchCore else c.latchBar) off

def Chip.setLatch (c : Chip) (p : Path) (off : Nat) (v : Word) : Chip :=
  if isCore p then { c with latchCore := tput c.latchCore off v } else { c with latchBar := tput c.latchBar off v }

def Chip.stage (c : Chip) (p : Path) (off : Nat) : Option Word :=
  tget none (if isCore p then c.stageCore else c.stageBar) off

def Chip.setStage (c : Chip) (p : Path) (off : Nat) (v : Option Word) : Chip :=
  if isCore p then { c with stageCore := tput c.stageCore off v } else { c with stageBar := tput c.stageBar off v }

/-- A 4-byte access is to the upper half of its double. -/
def upper (a size : Nat) : Bool := size = 4 && a % 8 = 4

/-- The part of a double that an access reads. -/
def partOf (a size : Nat) (v : Double) : Double :=
  if size = 8 then v else if upper a size then (v.extractLsb' 32 32).zeroExtend 64 else (v.extractLsb' 0 32).zeroExtend 64

/-- The bits of a double that an access writes. -/
def partMask (a size : Nat) : Double :=
  if size = 8 then BitVec.allOnes 64 else if upper a size then 0xFFFFFFFF00000000 else 0xFFFFFFFF

/-- A load: what it returns is the read port's value. -/
def Chip.load (c : Chip) (p : Path) (a size : Nat) : Chip :=
  match c.locate p a size with
  | .absent => (match p with | .core k => if k < 16 then c.accessFault k a false else c | _ => c)
  | .window off =>
    if size = 8 then { c with readData := c.reg false off }
    else if upper a size then { c with readData := (c.latch p off).zeroExtend 64 }
    else
      let v := c.reg false off
      { c.setLatch p off (v.extractLsb' 32 32) with readData := (v.extractLsb' 0 32).zeroExtend 64 }
  | .memory a => { c with readData := BitVec.ofNat 64 (leNat (c.hostRead a size)) }
  | l => { c with readData := partOf a size (c.loadAt l) }

/-- A store of the value v. -/
def Chip.storeTo (c : Chip) (p : Path) (a size : Nat) (v : Double) : Chip :=
  let mask := partMask a size
  let w := if upper a size then v <<< 32 else v
  match c.locate p a size with
  | .absent => (match p with | .core k => if k < 16 then c.accessFault k a true else c | _ => c)
  | .window off =>
    if size = 8 then c.regWrite (pathRoute p) off mask w
    else if !stages off then c
    else if upper a size then
      match c.stage p off with
      | some lo => (c.setStage p off none).regWrite (pathRoute p) off (BitVec.allOnes 64) (v.extractLsb' 0 32 ++ lo)
      | none => c.regWrite (pathRoute p) off mask w
    else c.setStage p off (some (v.extractLsb' 0 32))
  | .coreLocal k off => c.coreWrite k off mask w
  | .feed s off => c.feedWrite s off mask w
  | .head r q => if upper a size then c else c.writeHead r q (bits v.toNat 11 0)
  | .slot q pos off => c.slotStore q pos (off + a % 8) size v.toNat
  | .msix e off => c.msixWrite e off mask w
  | .config off => c.configWrite off mask w
  | .memory a => c.hostStore a size v.toNat
  | .pba _ | .nothing => c

/-- REGISTER_LOWER_HALF_READ (R78, R320): the lower half, and any load that is not of an upper half. -/
def execRegisterLowerHalfRead (p : Path) (a size : Nat) (s : State) : Host.Outcome State Fault Refusal :=
  onChip s (fun c => c.load p a size)

/-- REGISTER_UPPER_HALF_READ (R78, R320, R322). -/
def execRegisterUpperHalfRead (p : Path) (a size : Nat) (s : State) : Host.Outcome State Fault Refusal :=
  onChip s (fun c => c.load p a size)

/-- REGISTER_LOWER_HALF_WRITE (R79, R320). -/
def execRegisterLowerHalfWrite (p : Path) (a size : Nat) (v : Word) (s : State) : Host.Outcome State Fault Refusal :=
  onChip s (fun c => c.storeTo p a size (v.zeroExtend 64))

/-- REGISTER_UPPER_HALF_WRITE (R79, R320, R322). -/
def execRegisterUpperHalfWrite (p : Path) (a size : Nat) (v : Word) (s : State) : Host.Outcome State Fault Refusal :=
  onChip s (fun c => c.storeTo p a size (v.zeroExtend 64))

/-- REGISTER_WRITE (R410 and the rules of the register's own block): a store to any register of the module. -/
def execRegisterWrite (p : Path) (a size : Nat) (v : Double) (s : State) : Host.Outcome State Fault Refusal :=
  onChip s (fun c => c.storeTo p a size v)

/-- MSIX_PENDING_SEND (R327). -/
def execMsixPendingSend (entry : Nat) (s : State) : Host.Outcome State Fault Refusal :=
  onChip s (fun c =>
    let m := c.msixEntry entry
    if entry < 257 && m.pba && c.msixOpen entry then (c.setMsix entry { m with pba := false }).emit (.msix entry m.addr m.data)
    else c)

/-! Feed streams (R342). -/

/-- FEED_STREAM_ENABLE (R342): the whole double at +00h with EN set. -/
def execFeedStreamEnable (stream : Nat) (v : Double) (s : State) : Host.Outcome State Fault Refusal :=
  onChip s (fun c => c.feedWrite stream 0 (BitVec.allOnes 64) (v ||| BitVec.ofNat 64 (2 ^ 63)))

/-- FEED_STREAM_DISABLE (R342): the whole double at +00h with EN clear. -/
def execFeedStreamDisable (stream : Nat) (v : Double) (s : State) : Host.Outcome State Fault Refusal :=
  onChip s (fun c => c.feedWrite stream 0 (BitVec.allOnes 64) (v &&& BitVec.ofNat 64 (2 ^ 63 - 1)))

/-- FEED_TAIL_WRITE (R342). -/
def execFeedTailWrite (stream : Nat) (tail : Word) (s : State) : Host.Outcome State Fault Refusal :=
  onChip s (fun c => c.feedWrite stream 16 0xFFFFFFFF (tail.zeroExtend 64))

/-- The header of a feed entry (table "Feed entry header"). -/
def feedHeader (src : BitVec 128) (time : Nat) (srcPort : Half) (n : Nat) : List Byte :=
  leBytes 64 (src.toNat * 2 ^ 128 + time % 2 ^ 64 * 2 ^ 64 + srcPort.toNat * 2 ^ 48 + n % 65536)

/-- A datagram lands in a stream's ring, or is dropped on a full one (R342). -/
def Chip.feedLand (c : Chip) (s : Nat) (src : BitVec 128) (srcPort : Half) (payload : List Byte) : Chip :=
  let f := c.feed s
  let n := 2 ^ f.log2Slots.toNat
  if (f.head.toNat + 1) % n = f.tail.toNat then c.setFeed s { f with dropped := satAdd f.dropped 1 }
  else
    let a := f.base.toNat + 16384 * f.head.toNat
    let c := c.hostWrite a (feedHeader src c.sc srcPort payload.length ++ payload)
    let due := f.coalesce.toNat ≤ f.unsignalled + 1
    let c := c.setFeed s { f with head := BitVec.ofNat 32 ((f.head.toNat + 1) % n), received := f.received + 1
                                  unsignalled := if due then 0 else f.unsignalled + 1 }
    if due then c.raiseVector f.vector.toNat else c

/-- FEED_DATAGRAM (R335, R336, R337, R342): a datagram that matches no enabled stream of its port is dropped and
counted. -/
def execFeedDatagram (port : Nat) (f : Frame) (srcPort udpPort checksum : Half) (payload : List Byte) (s : State) :
    Host.Outcome State Fault Refusal :=
  onChip s (fun c => c.udpIn port f srcPort udpPort checksum payload (fun c =>
    match (List.range 32).find? (fun k => k / 16 = port && (c.feed k).en && (c.feed k).udpPort = udpPort) with
    | none => c.noMatch port
    | some k => c.feedLand k f.src srcPort payload))

/-- FEED_INTERRUPT_TIMER (R342). -/
def execFeedInterruptTimer (stream : Nat) (s : State) : Host.Outcome State Fault Refusal :=
  onChip s (fun c =>
    let f := c.feed stream
    if f.unsignalled = 0 then c else (c.setFeed stream { f with unsignalled := 0 }).raiseVector f.vector.toNat)

/-! READ_REG, WRITE_REG, IDENTIFY (R64, R410). -/

/-- The offsets that an instance session may reach (R76). -/
def tenantMay (i off : Nat) : Bool :=
  off < 0x0200 || (0x1000 + 256 * i ≤ off && off < 0x1000 + 256 * (i + 1)) ||
    (0x4000 + 256 * i ≤ off && off < 0x4000 + 256 * (i + 1)) ||
    (0x8000 + 128 * i ≤ off && off < 0x8000 + 128 * (i + 1))

/-- The doubles from an offset on, as a session sees them. -/
def Chip.regs (c : Chip) (tenant : Bool) (off n : Nat) : List Byte :=
  (List.range n).flatMap (fun k => leBytes 8 (c.reg tenant (off + 8 * k)).toNat)

/-- IDENTIFY (R64): window bytes 0000h to 00FFh. -/
def execIdentify (p : Icp) (s : State) : Host.Outcome State Fault Refusal :=
  icp 0x03 p s (fun c p => .done 0 (c.regs (p.queue < 256) 0 32) c)

/-- READ_REG (R410). -/
def execReadReg (p : Icp) (s : State) : Host.Outcome State Fault Refusal :=
  icp 0x04 p s (fun c p =>
    let off := p.par 0 4
    let n := p.par 4 4
    if off % 8 ≠ 0 then badParam 0
    else if n = 0 || 512 < n || 0x10000 < off + 8 * n then badParam 4
    else if p.queue < 256 && !(List.range n).all (fun k => tenantMay (p.queue / 16) (off + 8 * k)) then
      .refuse stNotPermitted 0
    else .done 0 (c.regs (p.queue < 256) off n) c)

/-- WRITE_REG (R410). An offset at or above 1_0000h names no byte of the window: it is refused with BAD_PARAM, DETAIL 0,
like an offset that is no multiple of 8, and before the check of R76 (DEDUCED, log 98). -/
def execWriteReg (p : Icp) (s : State) : Host.Outcome State Fault Refusal :=
  icp 0x05 p s (fun c p =>
    let off := p.par 0 4
    if off % 8 ≠ 0 || 0x10000 ≤ off then badParam 0
    else if p.queue < 256 && !tenantMay (p.queue / 16) off then .refuse stNotPermitted 0
    else .done (c.reg (p.queue < 256) off).toNat []
      (c.regWrite (c.queue p.queue).route off (BitVec.ofNat 64 (p.par 8 8)) (BitVec.ofNat 64 (p.par 16 8))))

end Sys2Proof.Machine
end

