-- ==== Sys2Proof/Machine/Protocol.lean ====
section
/-! DEFINITION. Sessions, keys and attestation, queues, notices acknowledged, counters, debug (R51 to R54, R66, R72,
R361 to R366, R379), the FENCE and NOP commands (R64). -/

namespace Sys2Proof.Machine

/-- NOP (R64). -/
def execNop (p : Icp) (s : State) : Host.Outcome State Fault Refusal :=
  icp 0x00 p s (fun c _ => .done 0 [] c)

/-- FENCE (R64): it replies once every earlier command of the instance has replied (R41). -/
def execFence (p : Icp) (s : State) : Host.Outcome State Fault Refusal :=
  icp 0x36 p s (fun c p =>
    let earlier := c.started.takeWhile (fun st => !(st.op = 0x36 && st.cmd = p))
    if earlier.any (fun st => st.cmd.who = p.who && !st.pending) then .wait else .done 0 [] c)

/-! Sessions (R51 to R54). -/

/-- The version that OPEN_SESSION chooses (R52). -/
def chooseVersion (p : Icp) : Option Byte :=
  let lo := p.bits 19 16
  let hi := p.bits 23 20
  if lo ≤ 3 && 3 ≤ hi then some (BitVec.ofNat 8 (0x30 + min (p.bits 31 28) 2))
  else if lo ≤ 2 && 2 ≤ hi then some (BitVec.ofNat 8 (0x20 + min (p.bits 27 24) 4))
  else none

/-- Bind a queue to a session; a UDP queue not yet bound takes the source of the queue that carries the OPEN_SESSION
(R339; DEDUCED, log 24). -/
def Chip.joinQueue (c : Chip) (n : Nat) (peer : Option UdpPeer) (q : Nat) : Chip :=
  c.onQueue q (fun u =>
    let pr := if u.route = .udp && u.peer.isNone then peer else u.peer
    { u with session := some n, secTag := none, peer := pr, lastPeer := pr.orElse (fun _ => u.lastPeer) })

/-- The queues that an OPEN_SESSION names (R53). -/
def sessionQueues (p : Icp) : List Nat :=
  if p.queue = 256 then [256]
  else ((List.range 16).filter (fun k => bitOf (p.bits 47 32) k)).map (fun k => 16 * (p.queue / 16) + k)

/-- OPEN_SESSION (R52, R53, R72). Its identifier is a free value (log 1). -/
def execOpenSession (p : Icp) (s : State) : Host.Outcome State Fault Refusal :=
  icp 0x01 p s (fun c p =>
    match chooseVersion p with
    | none => .refuse stNoVersion 0
    | some v =>
      let qs := sessionQueues p
      if (c.queue p.queue).session.isSome || qs.any (fun q => (c.queue q).session.isSome) then c.badState p
      else if qs.isEmpty || qs.any (fun q => (c.queue q).depthLog2 = 0) then badParam 4
      else
        let n := c.nextSession
        let ident := BitVec.ofNat 32 c.freeNow
        let nq := if p.queue = 256 then 16 else p.queue / 16
        let ses : Session := { inst := nq, version := v, ident := ident, secRequired := bitOf (p.bits 1 1) 0, key := none,
                               queues := qs }
        let peer := (c.queue p.queue).peer
        let c : Chip := { c.drew with sessions := tput c.sessions n ses, nextSession := n + 1 }
        let c := qs.foldl (fun c q => c.joinQueue n peer q) c
        let c := if bitOf (p.bits 0 0) 0 then c.onNoticeQ nq (fun q => { q with receiver := some n, deliveredNow := [] })
          else c
        .done (ident.toNat * 2 ^ 32 + v.toNat) [] c)

/-- A session ends (R54, R72, R339, R362). -/
def Chip.endSession (c : Chip) (n : Nat) : Chip :=
  match c.session n with
  | none => c
  | some ses =>
    let c := ses.queues.foldl (fun (c : Chip) q => c.onQueue q (fun u => { u with session := none, peer := none, secTag := none })) c
    let c := if (c.noticeQ ses.inst).receiver = some n then
      c.onNoticeQ ses.inst (fun q => { q with receiver := none, deliveredNow := [] }) else c
    { c with sessions := tdrop c.sessions n }

/-- CLOSE_SESSION (R54): the reply, then the end. -/
def execCloseSession (p : Icp) (s : State) : Host.Outcome State Fault Refusal :=
  icp 0x02 p s (fun c p =>
    match (c.queue p.queue).session with
    | none => .refuse stNoSession 0
    | some n => .later ((c.reply p.queue p.tag stOK 0 0 []).endSession n))

/-! Keys and attestation (R361 to R364). -/

/-- The bytes of an ASCII text. -/
def ascii (t : List Nat) : List Byte := t.map (BitVec.ofNat 8 ·)

/-- "EZ1600 ICP". -/
def icpInfo : List Byte := ascii [0x45, 0x5A, 0x31, 0x36, 0x30, 0x30, 0x20, 0x49, 0x43, 0x50]

/-- The session key of R362 from the shared x coordinate, the four coordinates and the identifier. -/
def sessionKey (shared : Nat) (salt : List Byte) (ident : Word) : BitVec 256 :=
  BitVec.ofNat 256 (beNat ((hkdf384 salt (beBytes 48 shared) (icpInfo ++ leBytes 4 ident.toNat) 32).take 32))

/-- The identity key as a scalar. -/
def identityScalar : Nat := ecScalar Config.identityKey.toNat

/-- A signature by the identity key, r then s (R361); its random number is a free value. -/
def identitySign (draw : Nat) (digest : List Byte) : List Byte :=
  let sg := ecSign identityScalar (ecScalar draw) digest
  beBytes 48 sg.1 ++ beBytes 48 sg.2

/-- KEY_AGREE (R361, R362): the ephemeral scalar and the signature's random number are free values (log 1). The reply
goes out under the key in force before. -/
def execKeyAgree (p : Icp) (s : State) : Host.Outcome State Fault Refusal :=
  icp 0x06 p s (fun c p =>
    match (c.queue p.queue).session, c.sessionOf p with
    | some n, some ses =>
      let hx := beNat (cut p.params 0 48)
      let hy := beNat (cut p.params 48 48)
      if !onCurve hx hy then badParam 0
      else
        let k := ecScalar c.freeNow
        let m := ecPublic k
        let salt := cut p.params 0 96 ++ beBytes 48 m.1 ++ beBytes 48 m.2
        let digest := sha384 (salt ++ leBytes 4 ses.ident.toNat ++ leBytes 8 Config.serial.toNat)
        let data := beBytes 48 m.1 ++ beBytes 48 m.2 ++ identitySign c.drew.freeNow digest
        let key := sessionKey (ecMul k hx hy).1 salt ses.ident
        let c := c.drew.drew.reply p.queue p.tag stOK 0 0 data
        let c : Chip := { c with sessions := tput c.sessions n { ses with key := some key } }
        .later (ses.queues.foldl (fun (c : Chip) q => c.onQueue q (fun u => { u with secTag := none })) c)
    | _, _ => .refuse stNoSession 0)

/-- The generation of a tenant slot (R357). -/
def Chip.generation (c : Chip) (i : Nat) : Nat := c.boot.boots.toNat % 65536 * 65536 + (c.inst i).resets.toNat

/-! Memory keys (R354 to R356): no command reads one, and every read decrypts, so the state holds the bytes in clear. -/

/-- The key slot of a tenant's memory is its instance number; the host region and the hoard area have this one (R354). -/
def hostSlot : Nat := 16

/-- "EZ1600 MEM". -/
def memInfo : List Byte := ascii [0x45, 0x5A, 0x31, 0x36, 0x30, 0x30, 0x20, 0x4D, 0x45, 0x4D]

/-- The data key and the tweak key of a slot (R356). -/
def Chip.memKey (c : Chip) (slot : Nat) : List Byte × List Byte :=
  let k := hkdf384 (List.replicate 48 0) (keyBytes Config.rootSecret)
    (memInfo ++ leBytes 1 slot ++ leBytes 4 (c.generation slot)) 64
  (k.take 32, cut k 32 32)

/-- The XTS tweak of the 64-byte unit at a physical address of a tier (R355). -/
def xtsTweak (tier phys : Nat) : Nat := tier % 256 * 2 ^ 120 + phys / 64 % 2 ^ 120

/-- AES-256-XTS over the 16-byte blocks of a unit, the tweak already encrypted. -/
def xtsBlocks (ks : List (List Byte)) : Nat → Nat → List Byte → List Byte
  | 0, _, _ => []
  | n + 1, t, bs =>
    let mask := leBytes 16 t
    let next := if t < 2 ^ 127 then 2 * t else (2 * t - 2 ^ 128) ^^^ 0x87
    List.zipWith (· ^^^ ·) (aesBlock ks (List.zipWith (· ^^^ ·) (bs.take 16) mask)) mask ++ xtsBlocks ks n next (bs.drop 16)

/-- What the cells of a memory tier hold for a 64-byte unit of a slot: its bytes encrypted (R354 to R356). -/
def Chip.cellUnit (c : Chip) (slot tier phys : Nat) (bytes : List Byte) : List Byte :=
  let k := c.memKey slot
  xtsBlocks (aesKeys k.1) 4 (leNat (aesBlock (aesKeys k.2) (leBytes 16 (xtsTweak tier phys)))) bytes

/-- A number from fields, each a value and its lowest bit. -/
def packed (fs : List (Nat × Nat)) : Nat := (fs.map (fun f => f.1 * 2 ^ f.2)).sum

/-- The six weights as bits [23..0] in the order of INSTANCE_CREATE [319..296]. -/
def weightBits (ws : List (BitVec 4)) : Nat := ws.foldl (fun a w => a * 16 + w.toNat) 0

/-- The first 400 bytes of the attestation report (R364): `inst` is the instance described, or 255. -/
def Chip.report (c : Chip) (inst : Nat) (time : Nat) (nonce : List Byte) : List Byte :=
  let b := c.boot
  let head := packed [(1, 0), (0x1F0, 16), (Config.serial.toNat, 64), (0xB0, 128), (Config.clan.toNat, 144),
    (b.devnum.toNat, 160), (bit c.side.debugOpen, 176), (bit (c.side.debugCount ≠ 0), 177), (inst, 184),
    (c.side.debugCount.toNat, 192), (b.configSeq.toNat, 256), (coarse time % 2 ^ 64, 320)]
  let n := c.inst inst
  let rec' := if inst = 255 then 0 else
    packed [(n.blocks.toNat, 0), (n.pcGroups.toNat, 128), (n.quotaMod, 192), (n.quotaExp, 256), (c.generation inst, 320),
      (weightBits n.weights, 352), (n.guar.getD 0 0 % 2 ^ 32, 384), (n.guar.getD 1 0 % 2 ^ 32, 416),
      (n.guar.getD 2 0 % 2 ^ 32, 448)]
  let pub := ecPublic identityScalar
  leBytes 48 head ++ (b.measure.flatMap (padTo 48 ·)) ++ padTo 48 nonce ++ leBytes 64 rec' ++
    beBytes 48 pub.1 ++ beBytes 48 pub.2

/-- ATTEST (R364). -/
def execAttest (p : Icp) (s : State) : Host.Outcome State Fault Refusal :=
  icp 0x07 p s (fun c p =>
    let go := fun (_ : Unit) =>
      let time := if p.queue < 256 then c.instTime p.who else c.sc
      let r := c.report p.who time (cut p.params 0 48)
      Verdict.done 0 (r ++ identitySign c.freeNow (sha384 r)) c.drew
    if p.who = 255 then go ()
    else if !(c.inst p.who).live then .refuse stNoObject noInstance
    else if (c.inst p.who).resetting.isSome then c.badState p
    else go ())

/-! Queues (R66, R323). -/

/-- The first queue field that breaks R323: 0 depth, 1 route, 2 ring, 3 completion ring, 4 vector. -/
def queueFault (route depth ring cring vector : Nat) : Option Nat :=
  if !(isPow2 depth && 64 ≤ depth && depth ≤ 4096) then some 0
  else if 2 < route then some 1
  else if route = 0 then
    if !(ring % 64 = 0 && ring + 64 * depth ≤ hostTop) then some 2
    else if !(cring % 64 = 0 && cring + 64 * depth ≤ hostTop) then some 3
    else if 255 < vector then some 4
    else none
  else if route = 1 then
    if ring ≠ 0 then some 2 else if cring % 64 ≠ 0 then some 3 else if 256 < vector then some 4 else none
  else if ring ≠ 0 then some 2 else if cring ≠ 0 then some 3 else if vector ≠ 0 then some 4 else none

/-- The route of a code. -/
def routeOf (n : Nat) : Route := if n = 0 then .onDie else if n = 1 then .pcie else .udp

/-- A queue created (R66): WEPOCH advances from its last value, the counts stay. -/
def Chip.makeQueue (c : Chip) (q route depth ring cring vector : Nat) : Chip :=
  let old := c.queue q
  c.setQueue q { Queue.initial q with
    depthLog2 := log2 depth, route := routeOf route, wepoch := old.wepoch + 1, ring := ring, cring := cring,
    vector := vector, stale := old.stale, torn := old.torn, flushes := old.flushes }

/-- A queue deleted (R66): WEPOCH and the counts stay. -/
def Chip.dropQueue (c : Chip) (q : Nat) : Chip :=
  let old := c.queue q
  c.setQueue q { Queue.initial q with wepoch := old.wepoch, stale := old.stale, torn := old.torn, flushes := old.flushes }

/-- The checks that the three queue commands share, in the order of R66; `off` is 0, the queue's offset. -/
def Chip.queueCheck (c : Chip) (p : Icp) (q : Nat) : Option (Nat × Nat) :=
  if p.who = 255 || (q < 256 && q / 16 ≠ p.who) then some (stNotPermitted, 0)
  else if !(c.inst p.who).live then some (stNoObject, noInstance)
  else if 255 < q then some (stBadParam, 0)
  else none

/-- QUEUE_CREATE (R66, R323). -/
def execQueueCreate (p : Icp) (s : State) : Host.Outcome State Fault Refusal :=
  icp 0x10 p s (fun c p =>
    let q := p.par 0 2
    match c.queueCheck p q with
    | some r => .refuse r.1 r.2
    | none =>
      match queueFault (p.par 4 1) (p.par 2 2) (p.par 8 8) (p.par 16 8) (p.par 24 4) with
      | some k => badParam ([2, 4, 8, 16, 24].getD k 0)
      | none =>
        if (c.queue q).depthLog2 ≠ 0 then c.badState p
        else .done 0 [] (c.makeQueue q (p.par 4 1) (p.par 2 2) (p.par 8 8) (p.par 16 8) (p.par 24 4)))

/-- Commands of a queue that have not replied or whose COMMAND_DONE is to come, and items not started. -/
def Chip.queueBusy (c : Chip) (q : Nat) : Bool :=
  c.started.any (fun st => st.cmd.queue = q) || !(c.queue q).items.isEmpty || !(c.queue q).owed.isEmpty

/-- QUEUE_DELETE (R66). -/
def execQueueDelete (p : Icp) (s : State) : Host.Outcome State Fault Refusal :=
  icp 0x11 p s (fun c p =>
    let q := p.par 0 2
    match c.queueCheck p q with
    | some r => .refuse r.1 r.2
    | none =>
      if (c.queue q).depthLog2 = 0 then .refuse stNoObject 0
      else if q % 16 = 0 || (c.queue q).session.isSome || c.queueBusy q then c.badState p
      else .done 0 [] (c.dropQueue q))

/-- QUEUE_FLUSH (R60, R66). -/
def execQueueFlush (p : Icp) (s : State) : Host.Outcome State Fault Refusal :=
  icp 0x12 p s (fun c p =>
    let q := p.par 0 2
    match c.queueCheck p q with
    | some r => .refuse r.1 r.2
    | none =>
      if (c.queue q).depthLog2 = 0 then .refuse stNoObject 0
      else if q = p.queue then c.badState p
      else
        let f := c.flush q
        .done ((f.1.queue q).wepoch.toNat * 2 ^ 32 + f.2) [] f.1)

/-! Notices (R72). -/

/-- An acknowledgement of number s covers an entry. -/
def NEntry.covered (s : Word) (e : NEntry) : Bool := e.sent.any (fun p => (s - p.1).toNat < 2 ^ 31)

/-- NOTICE_ACK (R72): of the instance's notice queue. One carried by OQ is of the operator's, the only queue that an
operator session receives notices from (DEDUCED, log 98). -/
def execNoticeAck (p : Icp) (s : State) : Host.Outcome State Fault Refusal :=
  icp 0x13 p s (fun c p =>
    let nq := if p.queue < 256 then p.queue / 16 else 16
    let q := c.noticeQ nq
    let w := BitVec.ofNat 32 (p.par 0 4)
    let kept := q.entries.filter (fun e => !e.covered w)
    .done (q.entries.length - kept.length) [] (c.setNoticeQ nq { q with entries := kept }))

/-! Counters (R313, R367, R379). -/

/-- This device's member index in a member list. -/
def Chip.selfIn (c : Chip) (ms : List Half) : Option Nat := (List.range ms.length).find? (fun k => ms.getD k 0 = c.boot.devnum)

/-- GROUP_STATUS (R313). -/
def Chip.groupStatus (c : Chip) (g : Nat) : Double :=
  let e := c.group g
  match e.owner with
  | none => 0
  | some _ =>
    let self := c.selfIn e.members
    fields [(1, 63), (bit self.isSome, 62), (self.getD 0, 32), (e.trail.toNat, 16), (e.trailRun.toNat, 0)]

/-- Live lanes of a link (R287). -/
def Link.liveLanes (l : Link) : Nat := popCount ((~~~(l.retiredLanes ||| l.partnerRetired)).toNat) 16

/-- LINK_STATUS (R287). -/
def Link.status (l : Link) (retired : Bool) : Double :=
  let up := l.st = .up
  fields [(if retired then 7 else l.st.code, 61), (if up then l.major.toNat else 0, 48), (l.pstep.toNat, 40),
    (l.pplane.toNat, 32), (l.retiredLanes.toNat, 16), (if up then l.liveLanes else 0, 0)]

/-- LINK_ERRORS (R287). -/
def Link.errors (l : Link) : Double :=
  fields [(l.uncorr.toNat, 48), (l.replays.toNat, 32), (l.relocks.toNat, 16), (l.falseLocks.toNat, 8), (l.retrains.toNat, 0)]

/-- A count of cycles as an instance reads it: whole µs (R367). -/
def coarsen (tenant : Bool) (per n : Nat) : Nat := if tenant then n / per * per else n

/-- Counter n as a session reads it: `tenant` is the instance, if one. None where it may not read it (R379). -/
def Chip.counterValue (c : Chip) (tenant : Option Nat) (n : Nat) : Option Double :=
  let oper := fun (v : Double) => if tenant.isSome then none else some v
  if n = 0 then some (BitVec.ofNat 64 (match tenant with | some i => coarse (c.instTime i) | none => c.sc))
  else if n = 1 then some (if tenant.isSome then 0 else BitVec.ofNat 64 (meanOf c.side.pins))
  else if 0x10 ≤ n && n < 0x210 then
    let i := (n - 0x10) / 32
    let k := (n - 0x10) % 32
    if 15 ≤ k then some 0
    else if tenant.any (· ≠ i) then none
    else
      let per := if k ≤ 2 then 2000 else if k ≤ 4 then 1000 else 1
      some (BitVec.ofNat 64 (coarsen tenant.isSome per (c.counter i k).toNat))
  else if 0x300 ≤ n && n < 0x380 then
    let k := (n - 0x300) / 4
    let l := c.link k
    oper (if n % 4 = 0 then l.status (c.isRetired 0 k) else if n % 4 = 1 then (if l.st = .up then l.xlat.zeroExtend 64 else 0)
      else if n % 4 = 2 then l.errors else l.dropped)
  else if 0x380 ≤ n && n < 0x390 then
    let e := c.ethPort ((n - 0x380) / 8)
    let k := (n - 0x380) % 8
    if 5 ≤ k then some 0 else oper ([e.rx, e.tx, e.noMatch, e.malformed, e.icp].getD k 0)
  else if 0x390 ≤ n && n < 0x3A0 then
    if (n - 0x390) % 4 = 3 then some 0 else oper (tget 0 c.side.i2c (n - 0x390))
  else if 0x3A0 ≤ n && n < 0x3A8 then
    let x := c.cxlPort ((n - 0x3A0) / 2)
    oper (if n % 2 = 0 then x.bandwidth else x.latency)
  else if 0x1000 ≤ n && n < 0x3000 then
    let g := (n - 0x1000) / 8
    let k := (n - 0x1000) % 8
    if 5 ≤ k then some 0
    else if tenant.any (fun i => (c.group g).owner ≠ some i) then none
    else if k = 0 then some (c.groupStatus g)
    else some (BitVec.ofNat 64 (coarsen tenant.isSome 1000 ((c.group g).waits.getD (k - 1) 0).toNat))
  else some 0

/-- COUNTERS_READ (R379). -/
def execCountersRead (p : Icp) (s : State) : Host.Outcome State Fault Refusal :=
  icp 0x80 p s (fun c p =>
    let first := p.par 0 2
    let n := p.par 2 2
    let tenant := if p.queue < 256 then some (p.queue / 16) else none
    if n = 0 || 512 < n then badParam 2
    else
      let vs := (List.range n).map (fun k => c.counterValue tenant (first + k))
      if vs.any (·.isNone) then .refuse stNotPermitted 0
      else .done 0 (vs.flatMap (fun v => leBytes 8 (v.getD 0).toNat)) c)

/-! Operator debug (R365, R366). -/

/-- DEBUG_OPEN (R365). -/
def execDebugOpen (p : Icp) (s : State) : Host.Outcome State Fault Refusal :=
  icp 0x81 p s (fun c p =>
    if c.side.debugOpen then c.badState p
    else
      let n := satAdd c.side.debugCount 1
      let c : Chip := { c with side := { c.side with debugOpen := true, debugMask := BitVec.ofNat 16 (p.par 0 2), debugCount := n } }
      .done n.toNat [] (c.notify c.liveInsts ncDebugOpened n.toNat 0))

/-- DEBUG_CLOSE (R366); with no session open it is refused (00_scope, "Words of obligation") (DEDUCED, log 85). -/
def execDebugClose (p : Icp) (s : State) : Host.Outcome State Fault Refusal :=
  icp 0x82 p s (fun c p =>
    if !c.side.debugOpen then c.badState p
    else .done 0 [] { c with side := { c.side with debugOpen := false, debugMask := 0 } })

end Sys2Proof.Machine
end

