-- ==== Sys2Proof/Machine/Fabric.lean ====
section
/-! DEFINITION. Packets of the fabric: the slot table (R275), streams and their numbers (R276), sealing (R278, R279), the
turn of classes and instances at a link and flits sent against credits (R263, R265, R271, R273, R277). -/

namespace Sys2Proof.Machine

/-- A link takes new packets: up, and its unit enabled (R284, R285). -/
def Chip.linkUp (c : Chip) (k : Nat) : Bool := (c.link k).st = .up && (c.unit ⟨0, k⟩).st = .enabled && !c.isRetired 0 k

/-- The filled entries of the slot table: each live link as often as it has live lanes (R275); a job that requires
encryption leaves out links at version 2 (R279). -/
def Chip.slotTable (c : Chip) (enc : Bool) : List Nat :=
  (List.range 32).flatMap (fun k =>
    if c.linkUp k && !(enc && (c.link k).major = 2) then List.replicate (c.link k).liveLanes k else [])

/-- The link of a stream (R275). -/
def Chip.linkFor (c : Chip) (enc : Bool) (dst dunit sunit : Nat) : Option Nat :=
  let t := c.slotTable enc
  if t.isEmpty then none
  else t[crc32c (leBytes 2 dst ++ leBytes 1 dunit ++ leBytes 1 sunit) % t.length]?

/-- The packet header (table "Packet header"); PLEN counts the payload without the GCM tag. -/
def FabPkt.header (p : FabPkt) (plen : Nat) : List Byte :=
  leBytes 24 (packed [(bit p.enc, 0), (p.sseq.toNat, 16), (plen, 32), (p.opc.toNat, 48), (p.jepoch.toNat, 56),
    (p.job.toNat, 64), (p.sunit.toNat, 80), (p.dunit.toNat, 88), (p.src.toNat, 96), (p.dst.toNat, 112), (p.ctr.toNat, 128)])

/-- PLEN of a packet whose payload field holds the GCM tag where ENC is 1. -/
def FabPkt.plen (p : FabPkt) : Nat := p.payload.length - (if p.enc then 16 else 0)

/-- The bytes of a packet. -/
def FabPkt.wire (p : FabPkt) : List Byte := p.header p.plen ++ p.payload

/-- The nonce of R278, most significant first. -/
def FabPkt.nonce (p : FabPkt) : List Byte := beBytes 2 p.src.toNat ++ [p.sunit, p.jepoch] ++ beBytes 8 p.ctr.toNat

/-- The packet sealed under a job key (R278). -/
def FabPkt.sealed (p : FabPkt) (key : BitVec 256) : FabPkt :=
  { p with payload := gcmSeal (keyBytes key) p.nonce (p.header p.payload.length) p.payload }

/-- The number of a stream in the stream tables (R275). -/
def streamKey (dev dunit sunit job : Nat) : Nat := ((dev * 256 + dunit) * 256 + sunit) * 65536 + job

/-- Packets of a class at a link that may start: of the instance being served while it has turns left in the round, else
of the next one in ascending number (R273, R352; the start of a round, log 27). -/
def Chip.nextOfClass (c : Chip) (l : Link) (cls : Nat) : Option (Nat × FabPkt × (Nat × Nat)) :=
  let first := fun i => l.txq.find? (fun e => e.1 = cls && e.2.1 = i)
  (nextTurn (l.turns.getD cls (0, 0)) (fun i => (first i).isSome) (c.weight 5)).bind (fun t =>
    (first t.1).map (fun e => (t.1, e.2.2, t)))

/-! Flits as they are sent (R258, R263, R265). A flit slot passes in the model where a flit has something to carry: data, a
RETRY, an acknowledgement or credits; the idle flits between say nothing new and are left out (DESIGN CHOICE, log 77). -/

/-- Live lanes of a link, in ascending number (R258, R283). -/
def Link.lanesUp (l : Link) : List Nat := (List.range 16).filter (fun n => !(l.retiredLanes ||| l.partnerRetired).getLsbD n)

/-- The flit that goes next is the marker of its group. -/
def Link.atMarker (l : Link) : Bool := l.flitNo % 64 = 0

/-- The class whose credits the next flit returns. -/
def Link.backClass (l : Link) : Nat := ((List.range 3).find? (fun r => l.back.getD r 0 ≠ 0)).getD 0

/-- The 256 bytes of the next flit (R263). -/
def Link.flitBytes (l : Link) (type cls : Nat) (first last : Bool) (seq : Half) (len : Nat) (payload : List Byte) : List Byte :=
  let mid := if l.atMarker then [(0x5E1AC3F9, 48)]
    else [(l.back.getD l.backClass 0, 48), (l.backClass, 62), (l.rxSeq.toNat, 64)]
  let head := leBytes 10 (packed ([(l.flitNo % 64, 0), (len, 16), (bit last, 24), (bit first, 25), (cls, 26), (type, 28),
    (seq.toNat, 32)] ++ mid))
  let body := head ++ leBytes 2 (crc16 l.session.toNat head) ++ padTo 240 payload
  body ++ leBytes 4 (crc32c body)

/-- The lanes of the 8 blocks of the next flit (R258). -/
def Link.flitLanes (l : Link) : List Nat :=
  (List.range 8).map (fun b => l.lanesUp.getD ((8 * l.flitNo + b) % max 1 l.lanesUp.length) 0)

/-- Send one flit; any but a marker returns ACK_SEQ and a class's credits (R263, R265, R269). -/
def Chip.putFlit (c : Chip) (k type cls : Nat) (first last : Bool) (seq : Half) (len : Nat) (payload : List Byte) : Chip :=
  let l := c.link k
  (c.setLink k { l with
    flitNo := l.flitNo + 1, ackDue := l.ackDue && l.atMarker,
    back := if l.atMarker then l.back else lput l.back l.backClass 0 }).emit
    (.flit k l.flitNo (l.flitBytes type cls first last seq len payload) l.flitLanes)

/-- Send a data flit. -/
def Chip.putData (c : Chip) (k : Nat) (f : Flit) : Chip :=
  c.putFlit k 1 f.cls.toNat f.first f.last f.seq f.payload.length f.payload

/-- Send a RETRY, which names the SEQ expected (R270). -/
def Chip.putRetry (c : Chip) (k : Nat) : Chip :=
  let l := c.link k
  c.putFlit k 3 0 false false l.txSeq 0 ([1, 0] ++ leBytes 2 l.rxSeq.toNat)

/-- Idle flits return what is still to be returned (R265, R269, R273). -/
def Chip.returnN (k : Nat) : Nat → Chip → Chip
  | 0, c => c
  | n + 1, c =>
    let l := c.link k
    if l.ackDue || l.back.any (· ≠ 0) then Chip.returnN k n (c.putFlit k 0 0 false false l.txSeq 0 []) else c

/-- What a class can send next: its packet in progress, or the packet whose turn it is. -/
def Chip.readyOf (c : Chip) (l : Link) (cls : Nat) : Option (Going × Option (Nat × Nat)) :=
  match l.going.getD cls none with
  | some g => some (g, none)
  | none => (c.nextOfClass l cls).map (fun x => ({ inst := x.1, pkt := x.2.1, off := 0 }, some x.2.2))

/-- Send one data flit at a link, if a class with credit has one and the replay buffer has room: the classes take turns flit
by flit, each with one packet in progress (R265, R271, R273; log 27). A packet of an older job epoch tag is discarded unsent
(R277). -/
def Chip.sendFlit (c : Chip) (k : Nat) : Option Chip :=
  let l := c.link k
  if 1024 ≤ l.replay.length then none
  else
    match (((List.range 3).map (fun d => (l.classTurn + d) % 3)).filter (fun cls => l.credits.getD cls 0 ≠ 0)).findSome?
        (fun cls => (c.readyOf l cls).map (fun r => (cls, r))) with
    | none => none
    | some (cls, g, turn) =>
      let queue := if turn.isSome then dropFirst (fun e => e.2.2 = g.pkt) l.txq else l.txq
      if turn.isSome && g.pkt.jepoch ≠ (c.inst g.inst).jepoch then some (c.setLink k { l with txq := queue })
      else
        let wire := g.pkt.wire
        let last : Bool := wire.length ≤ g.off + 240
        let f : Flit := { seq := l.txSeq, cls := BitVec.ofNat 2 cls, first := g.off = 0, last := last, payload := cut wire g.off 240,
                          replays := 0 }
        some ((c.setLink k { l with
          txq := queue, turns := (match turn with | some t => lput l.turns cls t | none => l.turns),
          going := lput l.going cls (if last then none else some { g with off := g.off + 240 }), txSeq := l.txSeq + 1,
          replay := l.replay ++ [f], credits := lmod (· - 1) l.credits cls, classTurn := (cls + 1) % 3,
          sent := if last then l.sent ++ [(l.txSeq, cls, g.inst, g.pkt)] else l.sent }).putData k f)

/-- Send what may be sent on a link that is up. -/
def Chip.pumpN (k : Nat) : Nat → Chip → Chip
  | 0, c => c
  | n + 1, c => match c.sendFlit k with
    | none => c
    | some c => Chip.pumpN k n c

/-- Flits that wait at a link. -/
def Link.waiting (l : Link) : Nat :=
  ((l.txq.map (·.2.2) ++ l.going.filterMap (fun g => g.map (·.pkt))).map (fun p => divUp p.wire.length 240)).sum

def Chip.pump (c : Chip) (k : Nat) : Chip :=
  if (c.link k).st = .up then Chip.returnN k 5 (Chip.pumpN k (c.link k).waiting c) else c

/-- Packets at a link that are not acknowledged whole: class, instance, packet (R276). -/
def Link.unacked (l : Link) : List (Nat × Nat × FabPkt) :=
  l.sent.map (·.2) ++ (l.going.mapIdx (fun cls g => (g.map (fun g => (cls, g.inst, g.pkt))).toList)).flatten

/-- Put a packet on the link that its stream has now, or keep it until there is one (R275). -/
def Chip.place (c : Chip) (cls i : Nat) (p : FabPkt) : Chip :=
  match c.linkFor p.enc p.dst.toNat p.dunit.toNat p.sunit.toNat with
  | none => { c with unplaced := c.unplaced ++ [(cls, i, p)] }
  | some k => (c.onLink k (fun l => { l with txq := l.txq ++ [(cls, i, p)] })).pump k

/-- The slot table changed: packets not started move to the links of the rebuilt table (R275, R285). -/
def Chip.rebuild (c : Chip) : Chip :=
  let waiting := c.unplaced ++ (List.range 32).flatMap (fun k => (c.link k).txq)
  let c := (List.range 32).foldl (fun (c : Chip) k =>
    if (c.link k).txq.isEmpty then c else c.onLink k (fun l => { l with txq := [] })) c
  waiting.foldl (fun (c : Chip) e => c.place e.1 e.2.1 e.2.2) { c with unplaced := [] }

/-- The replay buffer of a link is discarded; its packets not acknowledged whole are sent again under the rebuilt table,
with their SSEQ, CTR and tag (R276). -/
def Chip.resendLink (c : Chip) (k : Nat) : Chip :=
  let l := c.link k
  let c := c.setLink k { l with replay := [], sent := [], going := [none, none, none], txq := [], assembly := [[], [], []],
                                retrying := false, credits := [256, 256, 256], owed := [0, 0, 0], back := [0, 0, 0],
                                ackDue := false }
  ({ c with unplaced := l.unacked ++ l.txq ++ c.unplaced } : Chip).rebuild

/-- The job whose packets instance i sends and takes: its running job, or one that has ended while its dense updates run
on (R224, log 29). -/
def Chip.netJob (c : Chip) (i : Nat) : Job :=
  if c.jobRuns i then c.job i else ((c.inst i).ended.map (·.job)).getD Job.initial

def Chip.netRuns (c : Chip) (i : Nat) : Bool := c.jobRuns i || (c.inst i).ended.isSome

def Chip.onNetJob (c : Chip) (i : Nat) (f : Job → Job) : Chip :=
  if c.jobRuns i then c.onJob i f
  else c.onInst i (fun x => { x with ended := x.ended.map (fun e => { e with job := f e.job }) })

/-- The instance whose running job has these low 16 identifier bits (R274). -/
def Chip.jobOf (c : Chip) (job : Half) : Option Nat :=
  (List.range 16).find? (fun i => c.netRuns i && (c.netJob i).ident.extractLsb' 0 16 = job)

/-- CTR of a sending unit has no value left (R278). -/
def Chip.ctrSpent (c : Chip) (i unit : Nat) : Bool := (c.netJob i).encReq && tget 0 (c.netJob i).ctrs unit = BitVec.allOnes 64

/-- Send a packet of the running job of instance i from a unit: numbered in its stream, sealed where the job requires it
(R274, R276, R278, R279). `ctrUnit` names the counter, `mark` what the packet belongs to. -/
def Chip.sendPkt (c : Chip) (i dst dunit sunit ctrUnit opc cls mark : Nat) (payload : List Byte) : Chip :=
  let j := c.netJob i
  if !c.netRuns i || c.ctrSpent i ctrUnit then c
  else
    let key := streamKey dst dunit sunit (j.ident.toNat % 65536)
    let st := tget Stream.initial c.txStreams key
    let ctr := tget 0 j.ctrs ctrUnit
    let p : FabPkt :=
      { ctr := if j.encReq then ctr else 0, dst := BitVec.ofNat 16 dst, src := c.boot.devnum, dunit := BitVec.ofNat 8 dunit,
        sunit := BitVec.ofNat 8 sunit, job := j.ident.extractLsb' 0 16, jepoch := (c.inst i).jepoch,
        opc := BitVec.ofNat 8 opc, sseq := st.next, enc := j.encReq, payload := payload, mark := mark }
    let p := if j.encReq then (match j.key with | some k => p.sealed k | none => p) else p
    let c : Chip := { c with txStreams := tput c.txStreams key { st with next := st.next + 1 } }
    let c := if j.encReq then c.onNetJob i (fun j => { j with ctrs := tput j.ctrs ctrUnit (ctr + 1) }) else c
    c.place cls i p

/-- Packets of instance i that no flit carries yet are discarded (R277, R316, R369). -/
def Chip.purge (c : Chip) (i : Nat) : Chip :=
  let c : Chip := { c with unplaced := c.unplaced.filter (fun e => e.2.1 ≠ i) }
  (List.range 32).foldl (fun (c : Chip) k =>
    if (c.link k).txq.any (fun e => e.2.1 = i) then
      c.onLink k (fun l => { l with txq := l.txq.filter (fun e => e.2.1 ≠ i) }) else c) c

/-- The streams of a job identifier start again at 0 (DEDUCED, log 28). -/
def Chip.clearStreams (c : Chip) (job : Nat) : Chip :=
  { c with txStreams := c.txStreams.filter (fun e => e.1 % 65536 ≠ job % 65536)
           rxStreams := c.rxStreams.filter (fun e => e.1 % 65536 ≠ job % 65536) }

end Sys2Proof.Machine
end

