-- ==== Sys2Proof/Machine/Num.lean ====
section
/-! DEFINITION. The ten number formats and I32 (R99, R116 to R120), exact values, the one conversion of R121 and the
functions of R108. An exact value is a ratio of naturals times a power of two, so nothing is rounded but where a rule
rounds. -/

namespace Sys2Proof.Machine

/-- An exact value: NaN, an infinity, or ±(m ÷ d) × 2^e with d > 0; zero keeps its sign. -/
inductive Num where
  | nan
  | inf (neg : Bool)
  | fin (neg : Bool) (m d : Nat) (e : Int)
  deriving DecidableEq, Repr, Inhabited

/-- The formats of R99 by code 0h to Ah. -/
inductive Fmt where
  | f32 | f16 | bf16 | e5m2 | e4m3 | e2m1 | i8 | i4 | a8 | b4 | i32
  deriving DecidableEq, Repr, Inhabited

/-- The format of a code; codes Bh to Fh have none (R99). -/
def Fmt.ofCode : Nat → Option Fmt
  | 0 => some .f32 | 1 => some .f16 | 2 => some .bf16 | 3 => some .e5m2 | 4 => some .e4m3 | 5 => some .e2m1
  | 6 => some .i8 | 7 => some .i4 | 8 => some .a8 | 9 => some .b4 | 10 => some .i32 | _ => none

/-- Bits per element (R99). -/
def Fmt.width : Fmt → Nat
  | .f32 | .i32 => 32
  | .f16 | .bf16 => 16
  | .e5m2 | .e4m3 | .i8 | .a8 => 8
  | .e2m1 | .i4 | .b4 => 4

/-- A scaled format (R126). -/
def Fmt.scaled : Fmt → Bool
  | .e5m2 | .e4m3 | .e2m1 | .i8 | .i4 | .a8 | .b4 => true
  | .f32 | .f16 | .bf16 | .i32 => false

/-- An integer format of the matrix unit (R104). -/
def Fmt.isInt : Fmt → Bool
  | .i8 | .i4 | .a8 | .i32 => true
  | _ => false

/-- The layout of a floating format (R116): exponent bits, fraction bits, bias, code of the largest finite value, code of
infinity if it has one, code of the NaN the module writes if it has one (R117). -/
structure FloatForm where
  ebits : Nat
  p : Nat
  bias : Nat
  maxCode : Nat
  infCode : Option Nat
  nanCode : Option Nat
  deriving DecidableEq, Repr

/-- The table "Floating formats" (R116, R117). -/
def Fmt.form : Fmt → Option FloatForm
  | .f32 => some ⟨8, 23, 127, 0x7F7FFFFF, some 0x7F800000, some 0x7FC00000⟩
  | .f16 => some ⟨5, 10, 15, 0x7BFF, some 0x7C00, some 0x7E00⟩
  | .bf16 => some ⟨8, 7, 127, 0x7F7F, some 0x7F80, some 0x7FC0⟩
  | .e5m2 => some ⟨5, 2, 15, 0x7B, some 0x7C, some 0x7F⟩
  | .e4m3 => some ⟨4, 3, 7, 0x7E, none, some 0x7F⟩
  | .e2m1 => some ⟨2, 1, 1, 7, none, none⟩
  | _ => none

/-- The B4 levels in units of 2^−8 (R119). -/
def b4Levels : List Int :=
  [-256, -184, -136, -98, -68, -43, -21, 0, 18, 38, 60, 84, 112, 146, 190, 256]

/-- An integer as an exact value. -/
def Num.ofInt (i : Int) (e : Int := 0) : Num := .fin (i < 0) i.natAbs 1 e

/-- 2^k. -/
def Num.pow2 (k : Int) : Num := .fin false 1 1 k

def Num.zero : Num := .fin false 0 1 0
def Num.one : Num := .fin false 1 1 0

/-- The value of a code of a floating format (R116). -/
def FloatForm.decode (f : FloatForm) (c : Nat) : Num :=
  let neg := bitOf c (f.ebits + f.p)
  let mag := c % 2 ^ (f.ebits + f.p)
  let ex := mag / 2 ^ f.p
  let fr := mag % 2 ^ f.p
  match f.infCode with
  | some i =>
    if mag = i then .inf neg
    else if i < mag then .nan
    else if ex = 0 then .fin neg fr 1 (1 - f.bias - f.p)
    else .fin neg (fr + 2 ^ f.p) 1 (ex - f.bias - f.p)
  | none =>
    if f.nanCode = some mag then .nan
    else if ex = 0 then .fin neg fr 1 (1 - f.bias - f.p)
    else .fin neg (fr + 2 ^ f.p) 1 (ex - f.bias - f.p)

/-- The value that a code decodes to, before any scale; an A8 code is q, its zero point not yet taken (R118). -/
def Fmt.decode (f : Fmt) (c : Nat) : Num :=
  match f with
  | .i8 => Num.ofInt (BitVec.ofNat 8 c).toInt
  | .i4 => Num.ofInt (BitVec.ofNat 4 c).toInt
  | .i32 => Num.ofInt (BitVec.ofNat 32 c).toInt
  | .a8 => Num.ofInt (c % 256)
  | .b4 => Num.ofInt (b4Levels.getD (c % 16) 0) (-8)
  | _ => match f.form with
    | some g => g.decode c
    | none => .nan

/-! Exact arithmetic with the special values of IEEE 754. -/

def Num.neg : Num → Num
  | .nan => .nan
  | .inf s => .inf (!s)
  | .fin s m d e => .fin (!s) m d e

def Num.abs : Num → Num
  | .nan => .nan
  | .inf _ => .inf false
  | .fin _ m d e => .fin false m d e

def Num.isNan : Num → Bool
  | .nan => true
  | _ => false

def Num.isZero : Num → Bool
  | .fin _ m _ _ => m = 0
  | _ => false

def Num.isFinite : Num → Bool
  | .fin _ _ _ _ => true
  | _ => false

/-- The sign bit; a NaN counts as without. -/
def Num.signed : Num → Bool
  | .nan => false
  | .inf s => s
  | .fin s _ _ _ => s

/-- The product. -/
def Num.mul : Num → Num → Num
  | .nan, _ => .nan
  | _, .nan => .nan
  | .inf a, .inf b => .inf (a != b)
  | .inf a, .fin b m _ _ => if m = 0 then .nan else .inf (a != b)
  | .fin a m _ _, .inf b => if m = 0 then .nan else .inf (a != b)
  | .fin a m d e, .fin b n f g => .fin (a != b) (m * n) (d * f) (e + g)

/-- The quotient. -/
def Num.div : Num → Num → Num
  | .nan, _ => .nan
  | _, .nan => .nan
  | .inf _, .inf _ => .nan
  | .inf a, .fin b _ _ _ => .inf (a != b)
  | .fin a _ _ _, .inf b => .fin (a != b) 0 1 0
  | .fin a m d e, .fin b n f g =>
    if n = 0 then (if m = 0 then .nan else .inf (a != b)) else .fin (a != b) (m * f) (d * n) (e - g)

/-- A signed numerator. -/
def sgn (neg : Bool) (m : Nat) : Int := if neg then -(m : Int) else m

/-- The sum; exact zeros of unlike sign give +0, as rounding to nearest does. -/
def Num.add : Num → Num → Num
  | .nan, _ => .nan
  | _, .nan => .nan
  | .inf a, .inf b => if a = b then .inf a else .nan
  | .inf a, .fin _ _ _ _ => .inf a
  | .fin _ _ _ _, .inf b => .inf b
  | .fin a m d e, .fin b n f g =>
    let k := if e ≤ g then e else g
    let s := sgn a (m * f * 2 ^ (e - k).toNat) + sgn b (n * d * 2 ^ (g - k).toNat)
    if s = 0 then .fin (a && b) 0 1 0 else .fin (s < 0) s.natAbs (d * f) k

def Num.sub (a b : Num) : Num := a.add b.neg

/-- a < b for values that are not NaN; −0 and +0 are equal here. -/
def Num.lt (a b : Num) : Bool :=
  match a, b with
  | .nan, _ => false
  | _, .nan => false
  | .inf x, .inf y => x && !y
  | _, _ => match a.sub b with
    | .fin s m _ _ => s && m != 0
    | .inf s => s
    | .nan => false

/-- The greater of two, as R109 gives it: NaN if either is, and −0 less than +0. -/
def Num.max (a b : Num) : Num :=
  if a.isNan || b.isNan then .nan
  else if a.lt b then b
  else if b.lt a then a
  else if a.signed then b else a

/-- The lesser of two (R109). -/
def Num.min (a b : Num) : Num := (a.neg.max b.neg).neg

/-- ⌊log2 (m ÷ d × 2^e)⌋ for m, d > 0. -/
def floorLog2 (m d : Nat) (e : Int) : Int :=
  let k : Int := (Nat.log2 m : Int) - (Nat.log2 d : Int)
  let low := if 0 ≤ k then m < d * 2 ^ k.toNat else m * 2 ^ (-k).toNat < d
  (if low then k - 1 else k) + e

/-- n ÷ d rounded to nearest, ties to even. -/
def roundHalfEven (n d : Nat) : Nat :=
  let q := n / d
  let r := n % d
  if 2 * r < d then q else if d < 2 * r then q + 1 else if q % 2 = 0 then q else q + 1

/-- m ÷ d × 2^e rounded to nearest, ties to even. -/
def roundRatio (m d : Nat) (e : Int) : Nat :=
  if 0 ≤ e then roundHalfEven (m * 2 ^ e.toNat) d else roundHalfEven m (d * 2 ^ (-e).toNat)

/-- What a conversion writes, and whether it saturated a value or replaced a NaN (R122). -/
structure Cv where
  code : Nat
  sat : Bool := false
  nan : Bool := false
  deriving DecidableEq, Repr, Inhabited

/-- The code of the magnitude m ÷ d × 2^e rounded to a floating format: one above `maxCode` when it overflows. -/
def FloatForm.magCode (f : FloatForm) (m d : Nat) (e : Int) : Nat :=
  if m = 0 then 0 else
  let emin : Int := 1 - f.bias
  let l := floorLog2 m d e
  let x := if l < emin then emin else l
  let r := roundRatio m d (e - x + f.p)
  let c := (x - emin).toNat * 2 ^ f.p + r
  if f.maxCode < c then f.maxCode + 1 else c

/-- The sign bit of a floating format's code. -/
def FloatForm.signBit (f : FloatForm) (neg : Bool) : Nat := if neg then 2 ^ (f.ebits + f.p) else 0

/-- R121 for a floating target. -/
def FloatForm.convert (f : FloatForm) (x : Num) : Cv :=
  match x with
  | .nan => { code := f.nanCode.getD 0, nan := true }
  | .inf s => match f.infCode with
    | some i => { code := i + f.signBit s }
    | none => { code := f.maxCode + f.signBit s, sat := true }
  | .fin s m d e =>
    let c := f.magCode m d e
    if f.maxCode < c then { code := f.maxCode + f.signBit s, sat := true } else { code := c + f.signBit s }

/-- A value rounded to an integer, ties to even; NaN and infinities do not reach this. -/
def Num.toIntRound : Num → Int
  | .fin s m d e => sgn s (roundRatio m d e)
  | _ => 0

/-- An integer held in a range, and whether it had to be. -/
def clampInt (lo hi v : Int) : Int × Bool :=
  if v < lo then (lo, true) else if hi < v then (hi, true) else (v, false)

/-- R121 for an integer target of `w` bits. -/
def convertInt (w : Nat) (lo hi : Int) (x : Num) : Cv :=
  match x with
  | .nan => { code := 0, nan := true }
  | .inf s => { code := (BitVec.ofInt w (if s then lo else hi)).toNat, sat := true }
  | .fin _ _ _ _ =>
    let r := clampInt lo hi x.toIntRound
    { code := (BitVec.ofInt w r.1).toNat, sat := r.2 }

/-- The nearest B4 level of a value within ±1, a tie to the even code (R121, R122). -/
def b4Near (x : Num) (c : Nat) : List Int → Nat → Num → Nat
  | [], best, _ => best
  | l :: ls, best, gap =>
    let g := (x.sub (Num.ofInt l (-8))).abs
    if g.lt gap || (!(gap.lt g) && c % 2 = 0) then b4Near x (c + 1) ls c g else b4Near x (c + 1) ls best gap

/-- R121 for B4. -/
def convertB4 (x : Num) : Cv :=
  match x with
  | .nan => { code := 7, nan := true }
  | .inf s => { code := if s then 0 else 15, sat := true }
  | .fin s _ _ _ =>
    if Num.one.lt x.abs then { code := if s then 0 else 15, sat := true }
    else { code := b4Near x 0 b4Levels 0 (.inf false) }

/-- The one conversion of R121, without a scale; an A8 target takes the value as its code less the zero point. -/
def Fmt.convert (f : Fmt) (x : Num) : Cv :=
  match f with
  | .i8 => convertInt 8 (-128) 127 x
  | .i4 => convertInt 4 (-8) 7 x
  | .i32 => convertInt 32 (-2147483648) 2147483647 x
  | .a8 => convertInt 8 0 255 x
  | .b4 => convertB4 x
  | _ => match f.form with
    | some g => g.convert x
    | none => { code := 0 }

/-- The layout of F32. -/
def f32Form : FloatForm := ⟨8, 23, 127, 0x7F7FFFFF, some 0x7F800000, some 0x7FC00000⟩

/-- An exact value rounded once to F32 (R121), as a value again, and whether it saturated. -/
def Num.toF32 (x : Num) : Num × Bool :=
  let c := f32Form.convert x
  (f32Form.decode c.code, c.sat)

/-- The F32 bits of an exact value, rounded once. -/
def Num.f32Bits (x : Num) : Word := BitVec.ofNat 32 (f32Form.convert x).code

/-- The exact value of F32 bits. -/
def f32 (w : Word) : Num := f32Form.decode w.toNat

/-- The value rounded once to F32. -/
def Num.rnd (x : Num) : Num := x.toF32.1

/-! The functions of R108 that are not exact: an approximation far finer than F32, then any F32 value within 2 ulp. -/

/-- Fixed point with 200 fraction bits. -/
def fixOne : Nat := 2 ^ 200

/-- ln 2 in fixed point. -/
def fixLn2 : Nat := 1113844574712631719546256151097547306333272293549090750737802

/-- |x| in fixed point, rounded down. -/
def fixOf (m d : Nat) (e : Int) : Nat :=
  if -200 ≤ e then m * 2 ^ (e + 200).toNat / d else m / (d * 2 ^ (-(e + 200)).toNat)

/-- Σ r^i ÷ i!, from the i-th term on. -/
def expSeries : Nat → Nat → Nat → Nat → Nat
  | 0, _, _, _ => 0
  | fuel + 1, i, r, term => term + expSeries fuel (i + 1) r (term * r / fixOne / i)

/-- e^x for a finite x, as a positive value; beyond ±1,024 a value far outside F32. -/
def Num.exp (x : Num) : Num :=
  match x with
  | .fin s m d e =>
    if (Num.ofInt 1024).lt x.abs then (if s then Num.pow2 (-1000) else Num.pow2 1000) else
    let v := fixOf m d e
    let k := v / fixLn2
    let r := v % fixLn2
    let y := Num.fin false (expSeries 64 1 r fixOne) 1 ((k : Int) - 200)
    if s then Num.one.div y else y
  | _ => .nan

/-- Σ z^(2i+1) ÷ (2i+1), from the i-th term on, z in fixed point. -/
def atanhSeries : Nat → Nat → Nat → Nat → Nat
  | 0, _, _, _ => 0
  | fuel + 1, i, zz, p => p / (2 * i + 1) + atanhSeries fuel (i + 1) zz (p * zz / fixOne)

/-- 2 atanh z for a ratio m ÷ d below 1. -/
def twoAtanh (m d : Nat) : Nat :=
  let z := m * fixOne / d
  2 * atanhSeries 100 0 (z * z / fixOne) z

/-- ln x for a finite x > 0: x = y × 2^k with y in [1, 2), ln y = 2 atanh ((y − 1) ÷ (y + 1)); just below 1, y stays below
1 so that no digit cancels. -/
def Num.ln (x : Num) : Num :=
  match x with
  | .fin _ m d e =>
    let l := floorLog2 m d e
    let k := if l = -1 && (Num.fin false 3 1 (-2)).lt x then 0 else l
    let n := if 0 ≤ e - k then m * 2 ^ (e - k).toNat else m
    let b := if 0 ≤ e - k then d else d * 2 ^ (-(e - k)).toNat
    let t : Int := if b ≤ n then (twoAtanh (n - b) (n + b) : Int) else -(twoAtanh (b - n) (n + b) : Int)
    let s := k * (fixLn2 : Int) + t
    .fin (s < 0) s.natAbs 1 (-200)
  | _ => .nan

/-- The greatest r below 2^k with r² ≤ n. -/
def isqrtBits (n : Nat) : Nat → Nat → Nat
  | 0, r => r
  | k + 1, r => isqrtBits n k (if (r + 2 ^ k) * (r + 2 ^ k) ≤ n then r + 2 ^ k else r)

/-- 1 ÷ √x for a finite x > 0. -/
def Num.rsqrt (x : Num) : Num :=
  match x with
  | .fin _ m d e =>
    let odd := e % 2 ≠ 0
    let m' := if odd then 2 * m else m
    let h := (if odd then e - 1 else e) / 2
    .fin false (isqrtBits (d * 2 ^ 800 / m') 480 0) 1 (-400 - h)
  | _ => .nan

/-- tanh x for a finite x. -/
def Num.tanh (x : Num) : Num :=
  match x with
  | .fin s _ _ _ =>
    let a := x.abs
    let t :=
      if a.lt (Num.pow2 (-30)) then a.sub ((a.mul (a.mul a)).div (Num.ofInt 3))
      else
        let u := (a.mul (Num.ofInt (-2))).exp
        (Num.one.sub u).div (Num.one.add u)
    if s then t.neg else t
  | _ => .nan

/-- 1 ÷ (1 + e^−x) for a finite x. -/
def Num.sigmoid (x : Num) : Num := Num.one.div (Num.one.add x.neg.exp)

/-- 1 ÷ (1 + e^(−2y)) × x with y = 0.7978845608 × (x + 0.044715 × x³), which is the VGELU formula of R100. -/
def Num.gelu (x : Num) : Num :=
  let cube := x.mul (x.mul x)
  let y := (Num.fin false 7978845608 10000000000 0).mul (x.add ((Num.fin false 44715 1000000 0).mul cube))
  x.mul (y.mul (Num.ofInt 2)).sigmoid

/-- An F32 value within 2 ulp of the exact value x ≠ 0 (R108): the nearest one moved by the free number of ulp where that
stays within 2 ulp, else the nearest one. A value that overflows is converted by R121. -/
def within2Ulp (op : Nat) (arg : Word) (x : Num) : Num × Bool :=
  match x with
  | .fin s m d e =>
    let c := f32Form.magCode m d e
    let k := (c : Int) + Config.ulpOff op arg
    let l := floorLog2 m d e
    let ulp := Num.pow2 ((if l < -126 then -126 else l) - 23)
    let near := (f32Form.decode k.toNat).sub x.abs
    if m = 0 || f32Form.maxCode < c || k < 0 || (f32Form.maxCode : Int) < k || (ulp.mul (Num.ofInt 2)).lt near.abs then
      x.toF32
    else (f32Form.decode (k.toNat + f32Form.signBit s), false)
  | _ => x.toF32

/-- VRECIP, VRSQRT, VEXP, VLOG, VTANH, VSIGMOID and VGELU (2Bh to 31h) on an F32 value (R108), with the special operands
as IEEE 754 treats them (VGELU of −∞: log 14). -/
def quarterOp (op : Nat) (arg : Word) : Num × Bool :=
  let x := f32 arg
  match x with
  | .nan => (.nan, false)
  | .inf s =>
    if op = 0x2B then (.fin s 0 1 0, false)
    else if op = 0x2C then (if s then .nan else Num.zero, false)
    else if op = 0x2D then (if s then Num.zero else .inf false, false)
    else if op = 0x2E then (if s then .nan else .inf false, false)
    else if op = 0x2F then (if s then Num.one.neg else Num.one, false)
    else if op = 0x30 then (if s then Num.zero else Num.one, false)
    else (if s then .nan else .inf false, false)
  | .fin s m _ _ =>
    if op = 0x2B then (if m = 0 then (.inf s, false) else within2Ulp op arg (Num.one.div x))
    else if op = 0x2C then
      (if m = 0 then (.inf s, false) else if s then (.nan, false) else within2Ulp op arg x.rsqrt)
    else if op = 0x2D then within2Ulp op arg x.exp
    else if op = 0x2E then
      (if m = 0 then (.inf true, false) else if s then (.nan, false)
       else if x.sub Num.one |>.isZero then (Num.zero, false) else within2Ulp op arg x.ln)
    else if op = 0x2F then (if m = 0 then (x, false) else within2Ulp op arg x.tanh)
    else if op = 0x30 then within2Ulp op arg x.sigmoid
    else (if m = 0 then (x, false) else within2Ulp op arg x.gelu)

/-- The k-th root, k = 2 or 4, of a finite x > 0, with 64 fraction bits and one bit that says whether more follow: enough
to round once to F32. -/
def Num.root (k : Nat) (x : Num) : Num :=
  match x with
  | .fin _ m d e =>
    let q := e / k
    let m' := m * 2 ^ (e % k).toNat * 2 ^ (64 * k)
    let y := m' / d
    let h := isqrtBits y 256 0
    let r := if k = 4 then isqrtBits h 128 0 else h
    .fin false (2 * r + (if r ^ k * d = m' then 0 else 1)) 1 (q - 65)
  | _ => .nan

/-- √x rounded once to F32, under IEEE 754. -/
def Num.sqrtR (x : Num) : Num :=
  match x with
  | .nan => .nan
  | .inf s => if s then .nan else .inf false
  | .fin s m _ _ => if m = 0 then x else if s then .nan else (x.root 2).rnd

/-- x^−0.25 rounded once to F32, for x ≥ 0. -/
def Num.rootInv4 (x : Num) : Num :=
  match Num.one.div x with
  | .fin s m d e => if m = 0 then Num.zero else if s then .nan else ((Num.fin s m d e).root 4).rnd
  | r => r

/-- a × b + c with one rounding to F32. -/
def Num.fma (a b c : Num) : Num := ((a.mul b).add c).rnd

/-- Neighbours combined pairwise. -/
def pairUp {α : Type} (f : α → α → α) : List α → List α
  | a :: b :: r => f a b :: pairUp f r
  | l => l

/-- 64 lanes combined over six levels (R110). -/
def combine64 (f : Num → Num → Num) (l : List Num) : Num :=
  (pairUp f (pairUp f (pairUp f (pairUp f (pairUp f (pairUp f l)))))).headD Num.zero

/-- Elements `l`, `l` + 64, ... of a list. -/
def everyLane {α : Type} (l : Nat) : Nat → List α → List α
  | 0, _ => []
  | fuel + 1, xs => match xs.drop l with
    | [] => []
    | a :: _ => a :: everyLane l fuel (xs.drop 64)

/-- The elements of lane l (R112). -/
def laneOf {α : Type} (l : Nat) (xs : List α) : List α := everyLane l (xs.length / 64 + 1) xs

/-- A row reduced by 64 lanes, each from its first element on, then over six levels; a lane without an element passes its
partner through (R110; DEDUCED, log 45). -/
def reduceRow {α : Type} (f : α → α → α) (xs : List α) : Option α :=
  let lanes := (List.range (min 64 xs.length)).filterMap (fun l => match laneOf l xs with
    | [] => none
    | a :: r => some (r.foldl f a))
  (pairUp f (pairUp f (pairUp f (pairUp f (pairUp f (pairUp f lanes)))))).head?

/-! Tensors in bytes (R120). -/

/-- Bytes of a line of `n` elements (R120, R127). -/
def Fmt.lineBytes (f : Fmt) (n : Nat) : Nat := divUp (n * f.width) 8

/-- The two 4-bit elements of each byte, the low one first. -/
def nibbles : List Byte → List Nat
  | [] => []
  | b :: bs => b.toNat % 16 :: b.toNat / 16 :: nibbles bs

/-- `n` codes of `w` bytes each. -/
def unpackWide (w : Nat) : Nat → List Byte → List Nat
  | 0, _ => []
  | n + 1, bs => leNat (bs.take w) :: unpackWide w n (bs.drop w)

/-- The codes of a line of `n` elements. -/
def Fmt.unpack (f : Fmt) (n : Nat) (bs : List Byte) : List Nat :=
  if f.width = 4 then (nibbles bs).take n else unpackWide (f.width / 8) n bs

/-- Codes packed two to a byte; an odd last one leaves a half byte of 0h. -/
def packNibbles : List Nat → List Byte
  | [] => []
  | [a] => [BitVec.ofNat 8 (a % 16)]
  | a :: b :: r => BitVec.ofNat 8 (a % 16 + 16 * (b % 16)) :: packNibbles r

/-- The bytes of a line of codes. -/
def Fmt.pack (f : Fmt) (cs : List Nat) : List Byte :=
  if f.width = 4 then packNibbles cs else cs.flatMap (leBytes (f.width / 8))

/-- The list in pieces of `n` elements, at most `k` of them. -/
def chunks {α : Type} (n : Nat) : Nat → List α → List (List α)
  | 0, _ => []
  | k + 1, l => if l.isEmpty then [] else l.take n :: chunks n k (l.drop n)

end Sys2Proof.Machine
end

