-- ==== Sys2Proof/Machine/Data.lean ====
section
/-! DEFINITION. How descriptors reach data: checks, reads and writes of an operand reference (R83, R96, R98, R158), reads
and writes that are held (R17, R25, R221), values that land in a gradient area (R220), descriptor errors (R96). -/

namespace Sys2Proof.Machine

/-- Bytes of a tile store (R83). -/
def storeBytes : Nat := 1048576

/-! Registered Bruin objects: the fields of their block (R216). -/

def BObj.f (b : BObj) (hi lo : Nat) : Nat := bits b.block.toNat hi lo
def BObj.grad (b : BObj) : Nat := b.f 575 512
def BObj.rows (b : BObj) : Nat := b.f 447 416
def BObj.cols (b : BObj) : Nat := b.f 415 384
def BObj.elems (b : BObj) : Nat := b.rows * b.cols

/-- Bytes of one gradient buffer (R218, R220). -/
def BObj.bufBytes (b : BObj) : Nat := 4 * b.elems * b.owned.toNat


/-- A write to [a, a + n) reaches a gradient buffer that Bruin holds (R221). -/
def Chip.writeHeld (c : Chip) (i a n : Nat) : Bool :=
  match (c.inst i).bheld with
  | none => false
  | some k => (c.inst i).bobjs.any (fun b => meets a n (b.grad + k * b.bufBytes) b.bufBytes)

/-- F32 words of aligned bytes hold a NaN or an infinity. -/
def anyNonFinite (bs : List Byte) : Bool := (Fmt.f32.unpack (bs.length / 4) bs).any (fun v => bits v 30 23 = 255)

/-- A read of an object is held: after the close of the step until the flip (R17), or while its swap is to come (R25), also
past the end of the job (R12). Plain objects of class 0h are never held, for activations and scratch carry no epoch tag
(DEDUCED from "Where coherence stops", log 30). -/
def Chip.readHeld (c : Chip) (i : Nat) (o : Obj) : Bool :=
  (c.jobRuns i && (o.dense || o.cls = 3 || o.table.isSome) && (c.job i).close = .closed) || c.pendingObj i o

/-! Checks of a reference (R96, R158). -/

/-- Why an access of n bytes through a reference by tile t of instance i faults, if it does. -/
def Chip.refFault (c : Chip) (i : Nat) (r : RefBits) (n : Nat) (write : Bool) : Option Nat :=
  if refSpace r = 0 then (if refOff r + n ≤ storeBytes then none else some caStoreRange)
  else if refSpace r = 1 then
    (if !c.ownsTile i (refTile r) then some caForeignTile
     else if refOff r + n ≤ storeBytes then none else some caStoreRange)
  else if refSpace r = 2 then
    match c.check i (refAddr r) n with
    | .fault _ => some caAddrFault
    | .ok o => if write && o.dense && c.jobRuns i then some caWriteProtected else none
  else some caBadSpace

/-- An access to [a, a + n) meets an extent that moves (R168): a write to the panel under copy, or any access in the commit. -/
def Obj.moveHeld (o : Obj) (a n : Nat) (write : Bool) : Bool :=
  (o.extents.mapIdx (fun k e =>
    let at' := o.addr + k * extentBytes
    match e.stage with
    | some (.copy p) => write && meets a n (at' + p * 4096) 4096
    | some .commit => meets a n at' extentBytes
    | _ => false)).any id

/-- A command's access to model space is held (R25, R168, R175, R221). A READ waits for a pending dense object and not for the
close (DEDUCED, log 87). -/
def Chip.cmdHeld (c : Chip) (i : Nat) (o : Obj) (a n : Nat) (write : Bool) : Bool :=
  o.moveHeld a n write || c.windowHeld o a n write || (if write then c.writeHeld i a n else c.pendingObj i o)

/-- A write of an engine to model space waits: its panel is under copy or its extent in commit, or one of its PCs is in its
window (R168, R175). -/
def Chip.copyHeld (c : Chip) (o : Obj) (a n : Nat) : Bool := o.moveHeld a n true || c.windowHeld o a n true

/-- An access through a reference is held. -/
def Chip.refHeld (c : Chip) (i : Nat) (r : RefBits) (n : Nat) (write : Bool) : Bool :=
  if refSpace r ≠ 2 then false
  else match c.objAt i (refAddr r) with
    | some o => o.moveHeld (refAddr r) n write || c.windowHeld o (refAddr r) n write || (if write then c.writeHeld i (refAddr r) n else c.readHeld i o)
    | none => write && c.writeHeld i (refAddr r) n

/-- The tile whose store a reference names. -/
def refStore (t : Nat) (r : RefBits) : Nat := if refSpace r = 1 then refTile r else t

/-- The bytes an access reads; a checked reference (R23, R140: the front copy). -/
def Chip.refRead (c : Chip) (i t : Nat) (r : RefBits) (n : Nat) : List Byte :=
  if refSpace r = 2 then
    match c.objAt i (refAddr r) with
    | some o => c.frontRead i o (refAddr r) n
    | none => []
  else c.storeRead (refStore t r) (refOff r) n

/-- The ages of the extents that a read reaches go to 0 (R162), and poison in them is met (R383). -/
def Chip.refTouch (c : Chip) (i : Nat) (r : RefBits) (n : Nat) : Chip :=
  if refSpace r = 2 then
    match c.objAt i (refAddr r) with
    | some o => c.readMarks i o (refAddr r) n
    | none => c
  else c

/-- A write to [a, a + n) has left a NaN or an infinity in a value of a gradient area that it reaches: the area's values are
its F32 words from its first byte on (R220). -/
def Chip.badGradient (c : Chip) (i a n : Nat) : Bool :=
  (c.inst i).bobjs.any (fun b =>
    let size := 2 * b.bufBytes
    let lo := (max a b.grad - b.grad) / 4
    let hi := divUp (min (a + n) (b.grad + size) - b.grad) 4
    meets a n b.grad size &&
      (c.objAt i b.grad).any (fun o => anyNonFinite (c.frontRead i o (b.grad + 4 * lo) (4 * (hi - lo)))))

/-- Bytes written to model space by a unit; values that land in a gradient area are checked while a job runs (R220). -/
def Chip.landModel (c : Chip) (i a : Nat) (bs : List Byte) : Chip :=
  match c.objAt i a with
  | none => c
  | some o =>
    match c.frontWrite i o a bs with
    | none => c
    | some d => if d.badGradient i a bs.length then d.setVote i else d

/-- The bytes written through a checked reference. -/
def Chip.refWrite (c : Chip) (i t : Nat) (r : RefBits) (bs : List Byte) : Chip :=
  if bs.isEmpty then c
  else if refSpace r = 2 then c.landModel i (refAddr r) bs
  else c.storeWrite (refStore t r) (refOff r) bs

/-! Writes in progress in the tile stores (R84, R85). -/

/-- The queue of a unit. -/
def Tile.unitQ (k : Tile) (u : Nat) : List Issued := tget [] k.units u

/-- The writing descriptor has run and has not completed: a read of the granule returns its old or its new bytes (R84). -/
def Chip.inProgress (c : Chip) (b : Before) : Bool :=
  !b.closed && (((c.tile b.tile).unitQ b.unit).head?).any (·.ran)

/-- The tile stores as a unit that runs now sees them (R84): of each granule that another unit is writing, the old bytes or
the new ones, at the choice of a free value. -/
def Chip.view (c : Chip) : Chip :=
  let bs := c.tiles.flatMap (fun e => (e.2.before.filter c.inProgress).map (fun b => (e.1, b)))
  if bs.isEmpty then c
  else bs.foldl (fun (d : Chip) e =>
    (if d.freeNow % 2 = 0 then d else d.storeWrite e.1 e.2.granule e.2.old).drew) c

/-- The store offsets of the granules in which two stores differ. -/
def granulesOf (a b : Mem) : List Nat :=
  let all := (a.filter (fun x => !b.contains x) ++ b.filter (fun x => !a.contains x)).map (fun x => x.1 / 64 * 64)
  all.foldl (fun gs g => if gs.contains g then gs else gs ++ [g]) []

/-- One granule after a descriptor: what it wrote over its view v of the store, and the present bytes elsewhere. -/
def mergeBytes (now view after : List Byte) : List Byte :=
  List.zipWith (fun (n : Byte) (p : Byte × Byte) => if p.2 = p.1 then n else p.2) now (view.zip after)

/-- The chip after tile t's unit u has run a descriptor over a view v: its writes stand in the stores, and the granules it
wrote are kept as they were before (R84, R85). -/
def Chip.landed (c v d : Chip) (t u : Nat) : Chip :=
  d.tiles.foldl (fun (d : Chip) e =>
    let old := (c.tile e.1).cells
    if e.2.cells = old then d
    else
      let shown := granulesOf old (v.tile e.1).cells
      let wrote := granulesOf (v.tile e.1).cells e.2.cells
      let d := shown.foldl (fun (d : Chip) g =>
        d.storeWrite e.1 g (mergeBytes (c.storeRead e.1 g 64) (v.storeRead e.1 g 64) (d.storeRead e.1 g 64))) d
      d.onTile e.1 (fun k => { k with before := k.before ++ wrote.map (fun g =>
        { granule := g, old := c.storeRead e.1 g 64, tile := t, unit := u, closed := false }) })) d

/-- The descriptor at the head of tile t's unit u completes (R87): what it wrote reads as new from now on; a descriptor that
it wrote over can still be fetched by its own program, until a FENCE (R85). -/
def Chip.settleWrites (c : Chip) (t u : Nat) : Chip :=
  let by' := fun (b : Before) => b.tile = t && b.unit = u && !b.closed
  { c with tiles := c.tiles.map (fun e =>
      if !e.2.before.any by' then e
      else if e.1 = t then (e.1, { e.2 with before := e.2.before.map (fun b => if by' b then { b with closed := true } else b) })
      else (e.1, { e.2 with before := e.2.before.filter (fun b => !by' b) })) }

/-- A descriptor that stands, or may still be seen, at an offset of tile t's store (R84, R85). -/
def Chip.stands (c : Chip) (t off : Nat) (d : Desc) : Bool :=
  d = BitVec.ofNat 512 (leNat (c.storeRead t off 64)) ||
    (c.tile t).before.any (fun b => b.granule = off && d = BitVec.ofNat 512 (leNat b.old))

/-- What running a descriptor at the head of its unit comes to. -/
inductive Ran where
  /-- a descriptor error: it has no effect (R96) -/
  | fault (cause : Nat)
  /-- an access of it is held (R17, R25, R221), or it waits for room: it has not run -/
  | held
  /-- its effect has taken place -/
  | done (c : Chip)
  /-- its effect has begun, and it waits for another unit -/
  | awaits (c : Chip)
  /-- it has faulted, and has left its unit already -/
  | gone (c : Chip)

/-- The first fault that a list of tests finds. -/
def firstFault : List (Bool × Nat) → Option Nat
  | [] => none
  | (b, k) :: r => if b then some k else firstFault r

/-- Go on where there is no fault. -/
def Ran.unless (f : Option Nat) (k : Unit → Ran) : Ran :=
  match f with
  | some n => .fault n
  | none => k ()

/-! Clocks of the hub engines (R397). -/

/-- The engine's clock runs while it has work (R397). -/
def Chip.wakeEngine (c : Chip) (e : Nat) : Chip := c.setEngine e { c.engine e with gated := false }

/-- A hub engine's clock runs (R397): 0 front end, 1 stash, 2 Pack, 3 hoard, 4 Bruin. -/
def Chip.wakeHub (c : Chip) (k : Nat) : Chip := { c with gatedHub := c.gatedHub.filter (· ≠ k) }

/-! Descriptor errors (R96). -/

/-- Change the launch of instance i that a LAUNCH command started. -/
def Chip.onLaunch (c : Chip) (i : Nat) (r : Ref) (f : Launch → Launch) : Chip :=
  c.onInst i (fun x => { x with launches := x.launches.map (fun l => if l.cmd = r then f l else l) })

def Chip.launchBy (c : Chip) (i : Nat) (r : Ref) : Option Launch := (c.inst i).launches.find? (fun l => l.cmd = r)

/-- The tiles of a launch stop fetching; a tile held on a wait abandons it (R96, R245). A tile that fetches in this very tc
can still fault in it. -/
def Chip.stopTiles (c : Chip) (ts : List Nat) : Chip :=
  ts.foldl (fun (c : Chip) t =>
    if (c.tile t).run = .running then
      c.onTile t (fun k => { k with run := .stopping, stopTc := if k.hold.isSome then none else some c.tc, hold := none })
    else c) c

/-- The fault that a launch reports of two (R96): the first, and of one tc the one of the lower tile number. -/
def firstOf (old new : Word × Nat × Nat) : Word × Nat × Nat := if new.2.1 = old.2.1 && new.2.2 < old.2.2 then new else old

/-- A descriptor error of tile t's descriptor at a store offset (R96): the launch keeps its first fault, and the others
are counted. -/
def Chip.fault (c : Chip) (t slot cause : Nat) : Chip :=
  match c.ownerOf t, (c.tile t).launch with
  | some i, some r =>
    match c.launchBy i r with
    | none => c
    | some l =>
      let new := (errorWord slot t cause, c.tc, t)
      match l.fault with
      | some old => (c.onLaunch i r (fun l => { l with fault := some (firstOf old new) })).count i 8 1
      | none =>
        if l.final.isSome then c.count i 8 1
        else (c.onLaunch i r (fun l => { l with fault := some new })).stopTiles (l.tiles.filter (fun t => !l.overs.contains t))
  | _, _ => c

end Sys2Proof.Machine
end

