-- ==== Sys2Proof/Machine/Pack.lean ====
section
/-! DEFINITION. The Pack engine's traffic (R292, R293), barriers (R305, R306), and how a job ends or is aborted (R12,
R224, R315, R316). -/

namespace Sys2Proof.Machine

/-! Sending (R292, R293). -/

/-- Data bytes of a full Pack packet (R293). -/
def packData (enc : Bool) : Nat := if enc then 4024 else 4040

/-- The least channel code whose stream to a device lies on each link, with the link's live lanes (R292). -/
def Chip.channelCodes (c : Chip) (enc : Bool) (dst : Nat) : List (Nat × Nat) :=
  let hits := (List.range 192).filterMap (fun k => (c.linkFor enc dst 0x30 (0x40 + k)).map (fun l => (0x40 + k, l)))
  let firsts := (List.range 32).filterMap (fun l => hits.find? (fun h => h.2 = l))
  firsts.map (fun h => (h.1, (c.link h.2).liveLanes))

/-- The channel code of packet k of n to a device: contiguous runs in proportion to live lanes (DESIGN CHOICE, log 31). -/
def channelOf (codes : List (Nat × Nat)) (k n : Nat) : Nat :=
  let lanes := codes.flatMap (fun e => List.replicate e.2 e.1)
  lanes.getD (k * lanes.length / n) 0x40

/-- The Pack payload header (R293). -/
def packHeader (g kind offset digest cseq : Nat) : List Byte :=
  leBytes 16 (packed [(g, 10), (kind, 20), (offset % 2 ^ 40, 24), (digest, 64), (cseq, 96)])

/-- KIND of tokens that belong to no collective: vote, flip barrier, hold and probe (DESIGN CHOICE, log 31). -/
def kindFree : Nat := 15

/-- Send one transfer to a member of a group, in packets that are filled (R293). -/
def Chip.sendPack (c : Chip) (i g m opc kind : Nat) (cseq : Word) (mark offset : Nat) (bs : List Byte) : Chip :=
  let e := c.group g
  let dst := (e.members.getD m 0).toNat
  let enc := (c.netJob i).encReq
  let size := packData enc
  let n := max 1 (divUp bs.length size)
  let codes := c.channelCodes enc dst
  (List.range n).foldl (fun (c : Chip) k =>
    let data := cut bs (size * k) size
    let p : PackPkt :=
      { src := c.boot.devnum.toNat, job := (c.netJob i).ident.toNat % 65536, jepoch := (c.inst i).jepoch.toNat, group := g,
        gdigest := e.digest, kind := kind, cseq := cseq.toNat, offset := offset + size * k, data := data }
    (c.emit (.pack m opc p)).sendPkt i dst 0x30 (channelOf codes k n) 0x30 opc 2 mark
      (packHeader g kind (offset + size * k) e.digest.toNat cseq.toNat ++ data)) c

/-- The note of a packet of a collective. -/
def collMark (g : Nat) (cseq : Word) : Nat := 1 + g * 2 ^ 32 + cseq.toNat

/-- The note of a token of the vote or the flip barrier of a group. -/
def barrierMark (g : Nat) : Nat := 2 ^ 43 + g

/-- A packet of a collective is not yet acknowledged by its receiver (R298). -/
def Chip.unacked (c : Chip) (mark : Nat) : Bool :=
  c.unplaced.any (fun e => e.2.2.mark = mark) ||
    (List.range 32).any (fun k => (c.link k).txq.any (fun e => e.2.2.mark = mark) ||
      (c.link k).unacked.any (fun e => e.2.2.mark = mark))

/-- Members of a group other than this device. -/
def Chip.others (c : Chip) (g : Nat) : List Nat :=
  let ms := (c.group g).members
  (List.range ms.length).filter (fun m => ms.getD m 0 ≠ c.boot.devnum)

/-- This device's member index in a group; 0 where it is no member. -/
def Chip.selfOf (c : Chip) (g : Nat) : Nat := (c.selfIn (c.group g).members).getD 0

def Chip.groupSize (c : Chip) (g : Nat) : Nat := (c.group g).members.length

/-! Barriers (R305). -/

/-- ⌈log2 n⌉ rounds. -/
def barrierRounds (n : Nat) : Nat := if n ≤ 1 then 0 else log2 (n - 1) + 1

/-- The payload of a TOKEN after the header: round number and flag word (R293). -/
def tokenData (round : Nat) (flags : Double) : List Byte := leBytes 4 round ++ leBytes 8 flags.toNat

/-- Take tokens as far as they go: the barrier, the tokens left, and the tokens to send as round and flag word. -/
def Barrier.advance (n self : Nat) : Nat → Barrier → List (Nat × Nat × Double × Nat) →
    Barrier × List (Nat × Nat × Double × Nat) × List (Nat × Double)
  | 0, b, ts => (b, ts, [])
  | fuel + 1, b, ts =>
    if barrierRounds n ≤ b.round then ({ b with done := true }, ts, [])
    else
      let m := (self + n - 2 ^ b.round % n) % n
      let here := fun (t : Nat × Nat × Double × Nat) => decide (t.1 = m && t.2.1 = b.round)
      match ts.find? here with
      | none => (b, ts, [])
      | some t =>
        let b : Barrier :=
          { b with acc := b.acc ||| t.2.2.1, round := b.round + 1,
                   entries := if b.entries.any (fun e => e.1 = m) then b.entries else b.entries ++ [(m, t.2.2.2)] }
        let r := Barrier.advance n self fuel b (dropFirst here ts)
        if b.round < barrierRounds n then (r.1, r.2.1, (b.round, b.acc) :: r.2.2) else r

/-- A barrier as this device enters it. -/
def Barrier.enter (vote : Bool) (flags : Double) (now : Nat) : Barrier :=
  { vote := vote, round := 0, acc := flags, done := false, entries := [], began := now }

/-- The tokens that a device sends on entering. -/
def firstTokens (n : Nat) (flags : Double) : List (Nat × Double) := if n ≤ 1 then [] else [(0, flags)]

/-- Send barrier tokens of a group (R305). -/
def Chip.sendTokens (c : Chip) (i g kind : Nat) (cseq : Word) (mark : Nat) (ts : List (Nat × Double)) : Chip :=
  let n := c.groupSize g
  ts.foldl (fun (c : Chip) t =>
    c.sendPack i g ((c.selfOf g + 2 ^ t.1) % n) 4 kind cseq mark 0 (tokenData t.1 t.2)) c

/-- The vote or flip barrier goes on with the tokens that have come (R306). -/
def Chip.jobBarrier (c : Chip) (i : Nat) : Chip :=
  let j := c.job i
  match j.barrier with
  | none => c
  | some b =>
    let n := c.groupSize j.group
    let r := b.advance n (c.selfOf j.group) (barrierRounds n + 1) j.tokens
    (c.onJob i (fun j => { j with barrier := some r.1, tokens := r.2.1 })).sendTokens i j.group kindFree 0 (barrierMark j.group) r.2.2

/-- Enter the vote or the flip barrier (R18, R306). -/
def Chip.enterBarrier (c : Chip) (i : Nat) (vote : Bool) (flags : Double) : Chip :=
  let j := c.job i
  let c := c.onJob i (fun j => { j with barrier := some (Barrier.enter vote flags c.tc) })
  (c.sendTokens i j.group kindFree 0 (barrierMark j.group) (firstTokens (c.groupSize j.group) flags)).jobBarrier i

/-! The slow rule (R314). -/

/-- The median of a sorted list: its lower middle. -/
def median (xs : List Nat) : Nat :=
  let s := xs.mergeSort (· ≤ ·)
  s.getD ((s.length - 1) / 2) 0

/-- The latest entry. -/
def lastEntry (es : List (Nat × Nat)) : Option (Nat × Nat) :=
  es.foldl (fun b e => match b with
    | none => some e
    | some m => if m.2 ≤ e.2 then some e else some m) none

/-- Record which member trailed a collective of a group that lasted from `began` till now (R313, R314). -/
def Chip.trailed (c : Chip) (g : Nat) (es : List (Nat × Nat)) (began : Nat) : Chip :=
  match lastEntry es with
  | none => c.onGroup g (fun e => { e with trailRun := 0 })
  | some (m, at') =>
    let e := c.group g
    let slow := (c.tc - began) < 10 * (at' - median (es.map (·.2)))
    let run := if !slow then 0 else if e.trail.toNat = m then e.trailRun.toNat + 1 else 1
    let c := c.setGroup g { e with trail := BitVec.ofNat 16 m, trailRun := if run = 1000 then 0 else BitVec.ofNat 16 run }
    if run = 1000 then
      match e.owner with
      | some i => c.notify [i] ncSlowMember g m
      | none => c
    else c

/-! The end of a job (R12, R39, R224, R358). -/

/-- Change every object of an instance. -/
def Chip.onObjs (c : Chip) (i : Nat) (f : Obj → Obj) : Chip :=
  c.onInst i (fun x => { x with objs := x.objs.map f })

/-- The gradients that engines hold are discarded (R12, R21). -/
def Chip.dropGrads (c : Chip) (i : Nat) : Chip :=
  c.onInst i (fun x => { x with tables := x.tables.map (fun t =>
    { t with engs := t.engs.map (fun e =>
        (e.1, { e.2 with acc := [], batches := [], unacked := [], applied := [], examined := 0, changed := 0, stalled := false })) }) })

/-- The job's dense updates that are still to be swapped in or committed (R224). -/
def Chip.denseBusy (c : Chip) (i : Nat) : Bool :=
  !(c.inst i).bqueue.isEmpty || (c.inst i).objs.any (fun o => !o.due.isEmpty)

/-- Reply to a command, or send its COMMAND_DONE where it replied PENDING. -/
def Chip.finish (c : Chip) (r : Ref) (told : Bool) (status value : Nat) : Chip :=
  if told then c.commandDone r status value else c.reply r.queue r.tag status 0 value []

/-- A JOB_END that waits for R224 answers once nothing is left. -/
def Chip.settleEnd (c : Chip) (i : Nat) : Chip :=
  match (c.inst i).ended with
  | none => c
  | some e =>
    if c.denseBusy i then c
    else (c.onInst i (fun x => { x with ended := none })).finish e.cmd e.told stOK 0

/-- The job of an instance is over: PHASE and EPOCH read 0, the key is erased, a pending publish is cancelled (R12, R39,
R358); SKIPPED stays (DEDUCED from R12, log 29). `status` is what a pending STEP_CLOSE gets (DESIGN CHOICE, log 29). -/
def Chip.clearJob (c : Chip) (i status : Nat) : Chip :=
  let j := c.job i
  let c := c.doneAll j.closers status 0
  let c := match j.publish with
    | some (_, r) => c.commandDone r stCancelled 0
    | none => c
  let c := c.onInst i (fun x => { x with job := { Job.initial with skipped := j.skipped } })
  (c.onObjs i (fun o => { o with panels := [] })).dropGrads i

/-- The job ends by JOB_END (R12), whose answer waits for R224 (log 29). -/
def Chip.endJob (c : Chip) (i : Nat) (r : Ref) (told : Bool) : Chip :=
  let j := c.job i
  let c := c.clearJob i stCancelled
  (c.onInst i (fun x => { x with ended := some { cmd := r, told := told, job := j } })).settleEnd i

/-! Aborts (R315, R316). -/

/-- A launch stopped by an abort or a retirement: a loaded one ends at once, a running one when its tiles have, with the
status of what stopped it first. -/
def Chip.stopLaunch (c : Chip) (i : Nat) (l : Launch) (status detail : Nat) : Chip :=
  if l.started then
    (c.onLaunch i l.cmd (fun l =>
      { l with final := l.final.orElse (fun _ => some (BitVec.ofNat 16 status, BitVec.ofNat 32 detail)) })).stopTiles
      (l.tiles.filter (fun t => !l.overs.contains t))
  else
    let c := l.tiles.foldl (fun (c : Chip) t => c.onTile t (fun k => { k with run := .idle, launch := none })) c
    (c.onInst i (fun x => { x with launches := x.launches.filter (fun m => m.cmd ≠ l.cmd) })).reply
      l.cmd.queue l.cmd.tag status detail 0 []

/-- Descriptors of an instance's tiles that wait for the Pack engine or the front end wait no longer. -/
def Chip.dropAwaits (c : Chip) (i : Nat) : Chip :=
  (c.tilesOf i).foldl (fun (c : Chip) t =>
    let k := c.tile t
    if k.units.any (fun u => u.2.any (·.awaits)) then
      c.setTile t { k with units := k.units.map (fun u => (u.1, u.2.map (fun d => { d with awaits := false }))) }
    else c) c

/-- Every collective and split stream of an instance's groups is discarded (R316). -/
def Chip.dropColls (c : Chip) (i : Nat) : Chip :=
  { c with groups := c.groups.map (fun e =>
      if e.2.owner = some i then (e.1, { e.2 with colls := [], early := [], parts := [] }) else e) }

/-- What Bruin, the engines and the front end hold of an aborted job is dropped (R316; DEDUCED, log 32). -/
def Chip.dropWork (c : Chip) (i : Nat) : Chip :=
  let c : Chip := { c with front := c.front.filter (fun f => f.inst ≠ i) }
  let c := c.onInst i (fun x =>
    { x with bqueue := [], bheld := none })
  c.onObjs i (fun o => { o with due := [], shardsDone := [], landed := [], serveDue := false })

/-- The device aborts the job of instance i (R316). `announce` is the failed member's group and index, sent in an ABORT to
every member of the epoch group under the new tag (R315). -/
def Chip.abortJob (c : Chip) (i : Nat) (announce : Option (Nat × Nat)) : Chip :=
  if !c.jobRuns i then c
  else
    let j := c.job i
    let c := (c.onInst i (fun x => { x with jepoch := x.jepoch + 1 })).purge i
    let c := match announce with
      | none => c
      | some (g, m) =>
        (c.others j.group).foldl (fun (c : Chip) k =>
          c.sendPack i j.group k 7 kindFree 0 0 0 (leBytes 2 g ++ leBytes 4 m)) c
    let c := (c.inst i).launches.foldl (fun (c : Chip) l => c.stopLaunch i l stAborted 0) c
    let c := match j.ending with
      | some r => c.commandDone r stAborted 0
      | none => c
    let c := (c.inst i).hot.foldl (fun (c : Chip) h => match h.next with
      | some (_, _, r) => c.commandDone r stAborted 0
      | none => c) c
    let c := c.onInst i (fun x => { x with hot := x.hot.map (fun h => { h with next := none }) })
    (((c.dropAwaits i).dropColls i).dropWork i).clearJob i stAborted

/-- MEMBER_FAILED, then the abort and the ABORT packets (R315). -/
def Chip.failMember (c : Chip) (i g m : Nat) : Chip :=
  if c.jobRuns i then (c.notify [i] ncMemberFailed g m).abortJob i (some (g, m)) else c

/-- The device declares itself failed (R211, R383). -/
def Chip.selfFail (c : Chip) (i : Nat) : Chip :=
  let g := (c.job i).group
  c.failMember i g (c.selfOf g)

/-- The failure is declared of a job whose instance has read a poisoned granule (R383): no rule says how soon, and it is at
the end of the ec (DEDUCED, log 72). -/
def Chip.poisonFail (c : Chip) (i : Nat) : Chip :=
  if c.jobRuns i && (c.job i).poisoned then (c.onJob i (fun j => { j with poisoned := false })).selfFail i else c

/-- Live update cores (R211). -/
def Chip.liveCores (c : Chip) : Nat := c.liveCount 9 64

/-- With fewer than 8 live cores, a job of an instance that has a registered object ends by self-declared failure (R211). One
whose JOB_END still waits for its updates counts as running, and the JOB_END gets ABORTED (DEDUCED, log 29). -/
def Chip.coreFail (c : Chip) (i : Nat) : Chip :=
  if 8 ≤ c.liveCores || (c.inst i).bobjs.isEmpty then c
  else
    let c := match (c.inst i).ended with
      | none => c
      | some e => ((c.dropWork i).onInst i (fun x => { x with ended := none })).finish e.cmd e.told stAborted 0
    c.selfFail i

/-- A unit's CTR has no value left: the job is aborted with EPOCH_LIMIT (R278). -/
def Chip.ctrLimit (c : Chip) (i : Nat) : Chip :=
  let j := c.job i
  if c.jobRuns i && j.encReq && j.ctrs.any (fun e => e.2 = BitVec.allOnes 64) then
    (c.notify [i] ncEpochLimit j.ident.toNat j.epoch).abortJob i none
  else c

end Sys2Proof.Machine
end

