-- ==== Sys2Proof/Machine/Handoff.lean ====
section
/-! DEFINITION. Shards that other members hand off (R223, R303, R308), and who sent a packet of the Pack engine (R293). -/

namespace Sys2Proof.Machine

/-- Device number of a member of a group. -/
def Chip.memberDev (c : Chip) (g m : Nat) : Nat := ((c.group g).members.getD m 0).toNat

/-- The registered objects in the order of R222. -/
def sortedObjs (bs : List BObj) : List BObj :=
  bs.mergeSort (fun a b => a.f 367 352 < b.f 367 352 || (a.f 367 352 = b.f 367 352 && a.addr ≤ b.addr))

/-- Bytes of an element of a kind 1 block's object. -/
def wBytes (b : Nat) : Nat := if bits b 263 260 = 0 then 4 else 2

/-- Bytes of one range of a broadcast among n members (R303). -/
def castRange (len n : Nat) : Nat := roundUp (divUp len (max 1 n)) 4

/-- The sender of a Pack packet as this device knows it: the instance of its job, and its member index in the group. A
packet that names no group of that instance, or that comes from outside the group, is dropped (DEDUCED, log 41). -/
def Chip.packFrom (c : Chip) (p : PackPkt) : Option (Nat × Nat) :=
  match c.jobOf (BitVec.ofNat 16 p.job) with
  | none => none
  | some i =>
    let e := c.group p.group
    if e.owner ≠ some i then none
    else ((List.range e.members.length).find? (fun m => c.memberDev p.group m = p.src && m ≠ c.selfOf p.group)).map (fun m => (i, m))

/-- The packet as R276 delivered it is taken. -/
def Chip.takeDelivered (c : Chip) (opc : Nat) (p : PackPkt) : Chip :=
  { c with delivered := dropFirst (fun (f : FabPkt) =>
      f.dunit = 0x30 && f.opc.toNat = opc && f.src.toNat = p.src && f.payload.drop 16 = p.data) c.delivered }

/-- A piece of a shard lands in the back copy of another member (R24, R308). -/
def Chip.landShard (c : Chip) (i : Nat) (b : BObj) (shard off : Nat) (bs : List Byte) : Chip :=
  let size := b.elems * wBytes b.block.toNat
  let c := c.copyWrite i 1 (b.addr + shard * size + off) bs
  let c := match c.objStart i b.addr with
    | some o => c.touch i o (b.addr + shard * size + off) bs.length
    | none => c
  c.onObj i b.addr (fun o =>
    let n := tget 0 o.landed shard + bs.length
    if size ≤ n then { o with landed := tdrop o.landed shard, shardsDone := o.shardsDone ++ [shard] }
    else { o with landed := tput o.landed shard n })

/-- A HANDOFF from member m of a group: a piece of this member's own range is sent on to every other member. One that comes
before its step's update is due waits for it (R303, R308; log 38), and so does one that meets the move of its panel or a
window (R168, R175). -/
def Chip.takeHandoff (c : Chip) (i m : Nat) (p : PackPkt) : Chip :=
  let g := p.group
  if p.gdigest ≠ (c.group g).digest then c.failMember i g m
  else match (sortedObjs (c.inst i).bobjs)[p.cseq / 65536]? with
    | none => c
    | some b =>
      let shard := p.cseq % 65536
      let n := c.groupSize g
      let me := c.selfOf g
      let size := b.elems * wBytes b.block.toNat
      let owner := (b.f 351 336 + shard) % max 1 n
      let u := castRange size n
      if b.f 329 320 ≠ g || b.f 383 368 ≤ shard || size < p.offset + p.data.length then c.failMember i g m
      else if owner = me then c
      else if ((c.objStart i b.addr).any (fun o => o.due.isEmpty || o.shardsDone.contains shard ||
          c.copyHeld o (b.addr + shard * size + p.offset) p.data.length)) then
        c.onGroup g (fun e => { e with early := e.early ++ [(9, p, c.tc)] })
      else
        let c := c.landShard i b shard p.offset p.data
        if m = owner && me * u ≤ p.offset && p.offset < (me + 1) * u then
          (c.others g).foldl (fun (c : Chip) k => c.sendPack i g k 9 kindFree (BitVec.ofNat 32 p.cseq) 0 p.offset p.data) c
        else c

/-- The hand-offs that waited in the groups of instance i are taken as they came. -/
def Chip.replayHandoffs (c : Chip) (i : Nat) : Chip :=
  let mine := c.groups.filter (fun e => e.2.owner = some i)
  let waiting := mine.flatMap (fun e => e.2.early.filter (fun x => x.1 = 9))
  let c := mine.foldl (fun (c : Chip) e => c.onGroup e.1 (fun e => { e with early := e.early.filter (fun x => x.1 ≠ 9) })) c
  waiting.foldl (fun (c : Chip) x =>
    match c.packFrom x.2.1 with
    | some (_, m) => c.takeHandoff i m x.2.1
    | none => c) c

end Sys2Proof.Machine
end

