-- ==== Sys2Proof/Machine/Jobs.lean ====
section
/-! DEFINITION. The job of an instance and its steps: start and end, close, vote, apply, flip, swap, snapshots (R10 to R26,
R32 to R39, R143 to R147, R224), hold tokens, group timeouts and time probes (R307, R315, R396). -/

namespace Sys2Proof.Machine

/-! Starting and ending a job (R12, R143, R147, R274, R279, R291, R358). -/

/-- "EZ1600 JOB". -/
def jobInfo : List Byte := ascii [0x45, 0x5A, 0x31, 0x36, 0x30, 0x30, 0x20, 0x4A, 0x4F, 0x42]

/-- The job key of an identifier (R358). -/
def jobKey (ident : Double) : BitVec 256 :=
  BitVec.ofNat 256 (beNat ((hkdf384 (List.replicate 48 0) (keyBytes Config.clanSecret)
    (jobInfo ++ leBytes 8 ident.toNat) 32).take 32))

/-- The time in ec of instance i, as a signed value. -/
def Chip.jobEc (c : Chip) (i : Nat) : Int := ((c.tc / 2 : Nat) : Int) + (c.job i).timeOffset

/-- XLAT, in ec, of the link on which Pack traffic to a device leaves first (R286, R396; DEDUCED, log 33). -/
def Chip.xlatTo (c : Chip) (i dev : Nat) : Int :=
  match c.linkFor (c.job i).encReq dev 0x30 (channelOf (c.channelCodes (c.job i).encReq dev) 0 1) with
  | some k => ((c.link k).xlat.toNat : Int) / 8
  | none => 0

/-- Send a probe to the time root (R396). -/
def Chip.sendProbe (c : Chip) (i : Nat) : Chip :=
  let j := c.job i
  if !c.jobRuns i || c.selfOf j.group = 0 then c
  else
    let t1 := c.jobEc i + c.xlatTo i (c.memberDev j.group 0)
    (c.onJob i (fun j => { j with probe := some t1 })).sendPack i j.group 0 4 kindFree 0 0 0 (tokenData 0xFFFFFFFF 0)

/-- The checks of JOB_START, in this order (DEDUCED, log 34): R12, R64, R274, R291. -/
def Chip.jobStartFault (c : Chip) (p : Icp) : Option (Nat × Nat) :=
  let i := p.who
  let g := p.par 16 2
  let clash := (List.range 16).any (fun k => c.jobRuns k && (c.job k).ident.toNat % 65536 = p.par 0 8 % 65536)
  if c.jobRuns i || (c.inst i).ended.isSome then some (stBadState, c.phaseDetail p)
  else if p.par 8 8 = 0 || 0xFFFFFFFFFFFE < p.par 8 8 then some (stBadParam, 8)
  else if 1023 < g then some (stBadParam, 16)
  else if 24 < p.par 18 1 then some (stBadParam, 18)
  else if clash then some (stBadState, c.phaseDetail p)
  else if (c.group g).owner ≠ some i then some (stNoObject, 16)
  else if (c.selfIn (c.group g).members).isNone then some (stNotPermitted, 0)
  else none

/-- JOB_START (R10, R12, R143, R147, R279, R358, R396). -/
def execJobStart (p : Icp) (s : State) : Host.Outcome State Fault Refusal :=
  icp 0x50 p s (fun c p =>
    match c.jobStartFault p with
    | some r => .refuse r.1 r.2
    | none =>
      let i := p.who
      let enc := p.par 19 1 % 2 = 1
      let ident := BitVec.ofNat 64 (p.par 0 8)
      let c := c.clearStreams ident.toNat
      let c := c.onJob i (fun j => { Job.initial with
        phase := .compute, skipped := j.skipped, epoch := p.par 8 8, ident := ident, group := p.par 16 2, encReq := enc,
        key := some (jobKey ident), lexp := p.par 18 1 })
      let old := (List.range 32).filter (fun k => c.linkUp k && (c.link k).major = 2)
      let c := if enc then old.foldl (fun (c : Chip) k => c.notify [i] ncPartnerRefused k 1) c else c
      .done 0 [] (((c.sendProbe i).coreFail i).ctrLimit i))

/-- A collective or a split stream of the instance is open. -/
def Chip.collOpen (c : Chip) (i : Nat) : Bool := c.groups.any (fun e => e.2.owner = some i && !e.2.colls.isEmpty)

/-- JOB_END (R12, R224). A second one while the first still waits for the flip is refused with BAD_STATE; R12 gives it no
answer of its own (DEDUCED from the last paragraph of 00_scope, log 29). -/
def execJobEnd (p : Icp) (s : State) : Host.Outcome State Fault Refusal :=
  icp 0x51 p s (fun c p =>
    let i := p.who
    match (c.job i).phase with
    | .noJob => c.badState p
    | .compute =>
      if !(c.inst i).launches.isEmpty || c.collOpen i then c.badState p else .later (c.endJob i (c.refOf p) false)
    | _ =>
      if (c.job i).ending.isSome then c.badState p
      else .pending (c.onJob i (fun j => { j with ending := some (c.refOf p) })))

/-! The close and the vote (R16, R18, R65, R146). -/

/-- Every program of the current step has ended, and every read of the step has been answered (R16). -/
def Chip.closeReady (c : Chip) (i : Nat) : Bool :=
  let e := (c.job i).epoch
  !(c.inst i).launches.any (fun l => l.started && l.epoch = e) && !c.front.any (fun f => f.inst = i)

/-- The share of flushed elements, in 2^−16 (R146). -/
def Chip.flushShare (c : Chip) (i : Nat) : Nat := (c.counter i 12).toNat * 65536 / (c.counter i 11).toNat

/-- The close takes effect: the device enters the vote (R16 to R18, R146). -/
def Chip.closeStep (c : Chip) (i : Nat) : Chip :=
  let j := c.job i
  let share := c.flushShare i
  let c := c.onJob i (fun j => { j with phase := .vote, close := .closed, closers := [] })
  let c := if j.ufLimit ≠ 0 && j.ufLimit.toNat < share then c.notify [i] ncUnderflowRisk j.epoch share else c
  let c := c.enterBarrier i true (if j.voteFlag then 1 else 0)
  c.doneAll j.closers stOK 0

/-- STEP_CLOSE, the command (R16, R65, R115). -/
def execStepClose (p : Icp) (s : State) : Host.Outcome State Fault Refusal :=
  icp 0x53 p s (fun c p =>
    let i := p.who
    let j := c.job i
    if !c.jobRuns i then c.badState p
    else if p.par 0 8 ≠ j.epoch then badParam 0
    else match j.close with
      | .closed => .done 0 [] c
      | .pending => .pending (c.onJob i (fun j => { j with closers := j.closers ++ [(c.refOf p)] }))
      | .none =>
        if c.closeReady i then .done 0 [] (c.closeStep i)
        else .pending (c.onJob i (fun j => { j with close := .pending, closers := j.closers ++ [(c.refOf p)] })))

/-- A pending close takes effect (R16). -/
def execStepCloseEffect (i : Nat) (s : State) : Host.Outcome State Fault Refusal :=
  onChip s (fun c =>
    if c.jobRuns i && (c.job i).phase = .compute && (c.job i).close = .pending && c.closeReady i then c.closeStep i else c)

/-! The apply phase (R19, R21, R26, R203, R222). -/

/-- Owned shards of a registered object, in ascending number (R217). -/
def Chip.ownedShards (c : Chip) (b : BObj) : List Nat :=
  let all := List.range (b.f 383 368)
  if b.f 330 330 = 1 then all
  else
    let g := b.f 329 320
    all.filter (fun j => (b.f 351 336 + j) % max 1 (c.groupSize g) = c.selfOf g)

/-- Queue step E's shard programs (R222). -/
def Chip.queuePrograms (c : Chip) (i : Nat) : Chip :=
  let j := c.job i
  let bs := sortedObjs (c.inst i).bobjs
  let progs := bs.flatMap (fun b => (c.ownedShards b).map (fun k =>
    ({ obj := b.addr, shard := k, epoch := j.epoch, lexp := j.lexp, started := false, stage := 0, f := 0x3F800000, block := b.block } : BProg)))
  let c := c.onInst i (fun x => { x with bqueue := x.bqueue ++ progs })
  c.onObjs i (fun o => if bs.any (fun b => b.addr = o.addr) then { o with due := o.due ++ [j.epoch] } else o)

/-- The engines that hold extents of a table's share, or gradients of it. -/
def Chip.enginesOf (c : Chip) (i table : Nat) : List Nat :=
  (List.range 24).filter (fun e =>
    (c.shareOf i table).any (fun o => o.extents.any (fun x => engineOf x.place = e)) ||
    (c.tableOf i table).any (fun t => !(t.eng e).acc.isEmpty || !(t.eng e).batches.isEmpty))

/-- VOTE_COMPLETE (R18, R19, R21). -/
def execVoteComplete (i : Nat) (s : State) : Host.Outcome State Fault Refusal :=
  onChip s (fun c =>
    let j := c.job i
    match j.phase, j.barrier with
    | .vote, some b =>
      if !(b.vote && b.done) then c
      else
        let c := c.trailed j.group b.entries b.began
        if b.acc.getLsbD 0 then
          let c := c.dropGrads i
          let c := c.onJob i (fun j => { j with phase := .flip, voteSet := true, barrier := none, unapplied := [] })
          c.enterBarrier i false 0
        else
          let pairs := (c.inst i).tables.flatMap (fun t => (c.enginesOf i t.num).map (fun e => (e, t.num)))
          let c := c.onInst i (fun x => { x with tables := x.tables.map (fun t => { t with inForce := t.block }) })
          (c.onJob i (fun j => { j with phase := .apply, voteSet := false, barrier := none, toApply := pairs })).queuePrograms i |>.replayHandoffs i
    | _, _ => c)

/-- FLIP_BARRIER_ENTER (R19): every batch sent is acknowledged as applied, and every hot-row value sent by each replica. -/
def execFlipBarrierEnter (i : Nat) (s : State) : Host.Outcome State Fault Refusal :=
  onChip s (fun c =>
    let j := c.job i
    if j.phase = .apply && j.toApply.isEmpty && j.unapplied.isEmpty && j.unackedHot.isEmpty then
      (c.onJob i (fun j => { j with phase := .flip })).enterBarrier i false 0
    else c)

/-! The flip (R11, R20, R21, R30, R35, R39, R141, R144, R205, R209, R386). -/

/-- Fill the panels of the back copy that no write reached, then swap (R141). -/
def Chip.swapCarried (c : Chip) (i : Nat) (o : Obj) : Chip :=
  let fresh := (List.range (divUp o.length 4096)).filter (fun p => !o.panels.contains p)
  let c := fresh.foldl (fun (c : Chip) p =>
    c.copyCopy i o 0 1 (o.addr + 4096 * p) (min 4096 (o.length - 4096 * p))) c
  c.copySwap i o 0 1

/-- The loss scale and the clean-step count after a flip (R144): `set` is the vote. -/
def lossNext (set : Bool) (l clean : Nat) : Nat × Nat :=
  if set then (l - 1, 0)
  else if clean + 1 = 2000 then (min (l + 1) 24, 0)
  else (l, clean + 1)

/-- A hot set after a passing flip into `epoch`: buffers switch, and a new set takes effect (R30, R209). -/
def HotSet.flip (h : HotSet) (epoch : Nat) : HotSet :=
  let rows := match h.next with
    | some (rs, f, _) => if f ≤ epoch then rs else h.rows
    | none => h.rows
  let fresh := h.inactive.map (fun r => { r with installed := epoch })
  let kept := h.active.filter (fun r => !fresh.any (fun n => n.table = r.table && n.row = r.row))
  { h with
    rows := rows,
    active := (kept ++ fresh).filter (fun r => rows.contains (r.table, r.row)),
    inactive := [],
    next := h.next.filter (fun n => epoch < n.2.1) }

/-- The COMMAND_DONEs of the hot sets that take effect. -/
def Chip.hotDone (c : Chip) (i epoch : Nat) : List Ref :=
  (c.inst i).hot.filterMap (fun h => match h.next with
    | some (_, f, r) => if f ≤ epoch then some r else none
    | none => none)

/-- Every counter of the tables' sketches halves where the epoch says so (R205). -/
def Table.halve (t : Table) (epoch : Nat) : Table :=
  if epoch % 2 ^ bits t.block.toNat 87 84 = 0 then
    { t with engs := t.engs.map (fun e => (e.1, { e.2 with sketch := e.2.sketch.map (fun k => (k.1, k.2 / 2)) })) }
  else t

/-- The published snapshot is retired: reads of it that are in flight complete, later ones are refused (R32, R38). -/
def Chip.retireSnap (c : Chip) (i : Nat) : Chip :=
  c.onInst i (fun x => { x with
    snapValid := false, snapEpoch := 0,
    oldSnaps := if x.snapValid then x.oldSnaps.filter (· ≠ x.snapEpoch) ++ [x.snapEpoch] else x.oldSnaps })

/-- The publishing flip (R32, R35): the serving copy of an object that is not pending is filled, that of a pending one
waits for the swap. No command or descriptor names a serving read of a dense object, so none reads it (DESIGN CHOICE,
log 30). -/
def Chip.publishNow (c : Chip) (i epoch : Nat) : Chip :=
  let c := (c.retireSnap i).onInst i (fun x => { x with
    snapValid := true, snapEpoch := epoch, oldSnaps := x.oldSnaps.filter (· ≠ epoch),
    tables := x.tables.map (fun t => { t with engs := t.engs.map (fun e => (e.1, { e.2 with closed := e.2.closed.filter (· ≠ epoch) })) }) })
  (c.inst i).objs.foldl (fun (c : Chip) o =>
    if o.cls ≠ 2 then c
    else if o.due.isEmpty then (c.copyCopy i o 0 2 o.addr o.length).onObj i o.addr (fun o => { o with serveDue := false })
    else c.onObj i o.addr (fun o => { o with serveDue := true })) c

/-- Slow tiles (R386), then the per-step state of every tile. -/
def Chip.slowTiles (c : Chip) (i : Nat) : Chip :=
  let ts := c.tilesOf i
  let ran := ts.filter (fun t => (c.tile t).ranStep)
  let m := median (ran.map (fun t => (c.tile t).phaseTime))
  let step := fun (c : Chip) t =>
    let k := c.tile t
    let n := tget 0 (c.inst i).slowRuns t
    if !k.ranStep && n = 0 then c
    else
      let slow := k.ranStep && 11 * m < 10 * k.phaseTime
      let run := if slow then n + 1 else 0
      let c := c.onInst i (fun x => { x with slowRuns := tput x.slowRuns t (if run = 1000 then 0 else run) })
      let c := c.setTile t { k with phaseTime := 0, ranStep := false }
      if run = 1000 then c.notify [i] ncSlowTile t (k.phaseTime * 65536 / m) else c
  ts.foldl step c

/-- The flip into `epoch` (R20). -/
def Chip.flipTo (c : Chip) (i epoch : Nat) : Chip :=
  let j := c.job i
  let set := j.voteSet
  let l := lossNext set j.lexp j.clean
  let c := if set then c
    else (c.inst i).objs.foldl (fun (c : Chip) o => if o.cls = 3 then c.swapCarried i o else c) c
  let done := if set then [] else c.hotDone i epoch
  let c := c.onInst i (fun x => { x with
    counters := tput (tput x.counters 11 0) 12 0, stash := [],
    hot := if set then x.hot else (x.hot.map (·.flip epoch)).filter (fun h => !h.rows.isEmpty || h.next.isSome), tables := x.tables.map (·.halve epoch) })
  let c := c.onObjs i (fun o => { o with panels := [] })
  let c := match j.publish with
    | some (p, _) => if p = epoch then c.publishNow i epoch else c
    | none => c
  let c := c.slowTiles i
  let c := c.onJob i (fun j => { j with
    phase := .compute, skipped := set, epoch := epoch, lexp := l.1, clean := l.2, voteFlag := false, voteSet := false,
    close := .none, barrier := none, publish := j.publish.filter (fun q => q.1 ≠ epoch) })
  let c := if set then c.notify [i] ncStepSkipped j.epoch l.1 else c
  let c := match j.publish with
    | some (p, r) => if p = epoch then c.commandDone r stOK 0 else c
    | none => c
  c.doneAll done stOK 0

/-- The job ends at this flip where JOB_END asked for it (R12). -/
def Chip.endAtFlip (c : Chip) (i : Nat) : Chip :=
  match (c.job i).ending with
  | some r => c.endJob i r true
  | none => c

/-- EPOCH_LIMIT: the job ends with a notice (R11, R278). -/
def Chip.epochLimit (c : Chip) (i : Nat) : Chip :=
  let j := c.job i
  let c := c.notify [i] ncEpochLimit j.ident.toNat j.epoch
  match j.ending with
  | some r => c.endJob i r true
  | none => c.clearJob i stCancelled

/-- FLIP (R11, R20, R21). -/
def execFlip (i : Nat) (s : State) : Host.Outcome State Fault Refusal :=
  onChip s (fun c =>
    let j := c.job i
    match j.phase, j.barrier with
    | .flip, some b =>
      if b.vote || !b.done then c
      else
        let c := c.trailed j.group b.entries b.began
        if j.epoch = 0xFFFFFFFFFFFF then c.epochLimit i
        else ((c.flipTo i (j.epoch + 1)).endAtFlip i).ctrLimit i
    | _, _ => c)

/-! Dense swaps (R24 to R26, R35). -/

/-- DENSE_SWAP (R24): every shard of the back copy is there for the oldest step due. The serving copy is filled in the
commit of the last step before the published one (R35). -/
def execDenseSwap (i obj : Nat) (s : State) : Host.Outcome State Fault Refusal :=
  onChip s (fun c =>
    match c.objStart i obj, (c.inst i).bobjs.find? (fun b => b.addr = obj) with
    | some o, some b =>
      if o.due.isEmpty || !(List.range (b.f 383 368)).all (o.shardsDone.contains ·) then c
      else
        let c := c.copySwap i o 0 1
        let fill := o.serveDue && (o.due.drop 1).all ((c.inst i).snapEpoch ≤ ·)
        let c := if fill then c.copyCopy i o 0 2 o.addr o.length else c
        (c.onObj i obj (fun o => { o with due := o.due.drop 1, shardsDone := [], serveDue := o.serveDue && !fill })).replayHandoffs i |>.settleEnd i
    | _, _ => c)

/-! Snapshots (R32, R38, R39). -/

/-- PUBLISH (R39). The earlier one is cancelled (DEDUCED, log 99). -/
def execPublish (p : Icp) (s : State) : Host.Outcome State Fault Refusal :=
  icp 0x54 p s (fun c p =>
    let i := p.who
    let j := c.job i
    let e := p.par 0 8
    if !c.jobRuns i || e ≤ j.epoch || (e = j.epoch + 1 && j.close = .closed) then c.badState p
    else if 0xFFFFFFFFFFFF < e then badParam 0
    else
      let c := match j.publish with
        | some (_, r) => c.commandDone r stCancelled 0
        | none => c
      .pending (c.onJob i (fun j => { j with publish := some (e, (c.refOf p)) })))

/-- RELEASE_SNAPSHOT (R38); with none published it has no effect (DEDUCED, log 35). -/
def execReleaseSnapshot (p : Icp) (s : State) : Host.Outcome State Fault Refusal :=
  icp 0x55 p s (fun c p =>
    let c := c.onObjs p.who (fun o => { o with serveDue := false })
    .done 0 [] (c.retireSnap p.who))

/-! Timers (R307, R396). -/

/-- HOLD_TOKEN_TIMER (R307): this device's own engine stalls, or it holds the mark of one that does. -/
def execHoldTokenTimer (i : Nat) (s : State) : Host.Outcome State Fault Refusal :=
  onChip s (fun c =>
    if c.jobRuns i && (c.logStall i || !(c.job i).marks.isEmpty) then
      ((c.others (c.job i).group).foldl (fun (c : Chip) m =>
        c.sendPack i (c.job i).group m 4 kindFree 0 0 0 (tokenData 0xFFFFFFFE 0)) c).ctrLimit i
    else c)

/-- TIME_PROBE_TIMER (R396). -/
def execTimeProbeTimer (i : Nat) (s : State) : Host.Outcome State Fault Refusal :=
  onChip s (fun c => (c.sendProbe i).ctrLimit i)

/-- A probe reaches the time root, which echoes t2 + t3 (R396). -/
def Chip.echoProbe (c : Chip) (i m : Nat) : Chip :=
  let g := (c.job i).group
  let x := c.xlatTo i (c.memberDev g m)
  let sum : Int := (c.jobEc i - x) + (c.jobEc i + x)
  c.sendPack i g m 4 kindFree 0 0 0 (tokenData 0xFFFFFFFF (BitVec.ofInt 64 sum))

/-- The echo reaches the member: the offset is corrected, at once the first time (R396). -/
def Chip.takeEcho (c : Chip) (i : Nat) (flags : Double) : Chip :=
  let j := c.job i
  match j.probe with
  | none => c
  | some t1 =>
    let t4 := c.jobEc i - c.xlatTo i (c.memberDev j.group 0)
    let d := ((flags.toNat : Int) - (t1 + t4)) / 2
    if !j.aligned then c.onJob i (fun j => { j with probe := none, aligned := true, timeOffset := j.timeOffset + d })
    else c.onJob i (fun j => { j with probe := none, slew := d, slewEvery := max 1 (16384 / max 1 d.natAbs) })

end Sys2Proof.Machine
end

