-- ==== Sys2Proof/Machine/Scales.lean ====
section
/-! DEFINITION. Scale sets (R126 to R129), the scale pass (R130 to R132), quantising and dequantising (R133). -/

namespace Sys2Proof.Machine

/-- Lines per panel group, of lines of so many bytes (R127). -/
def groupLines (lineBytes : Nat) : Nat := max 1 (4096 / max 1 lineBytes)

/-- Offset of the panel scales in a scale set of n lines (R128). -/
def panelOff (n : Nat) : Nat := 64 * divUp (4 * n) 64

/-- Bytes of a scale set of n lines in groups of g (R128). -/
def scaleSetBytes (n g : Nat) : Nat := panelOff n + 4 * divUp n g

/-- The scale of a record under a panel scale (R129). -/
def scaleOf (code : Nat) (ps : Word) : Num :=
  let k := code % 128
  if k = 0 then Num.zero else if k = 127 then .nan else ((Fmt.e4m3.decode k).mul (f32 ps)).rnd

/-- A scale set read for n lines in groups of g: the scale and the zero point of each line (R128, R129). -/
def readScales (set : List Byte) (n g : Nat) : List (Num × Nat) :=
  (List.range n).map (fun r =>
    let rec' := fieldAt set (4 * r) 4
    (scaleOf (rec' % 256) (BitVec.ofNat 32 (fieldAt set (panelOff n + 4 * (r / g)) 4)), rec' / 256 % 256))

/-- Largest magnitude of a scaled target (table "Target ranges"). -/
def Fmt.qmax : Fmt → Num
  | .e5m2 => Num.ofInt 57344
  | .e4m3 => Num.ofInt 448
  | .e2m1 => Num.ofInt 6
  | .i8 => Num.ofInt 127
  | .i4 => Num.ofInt 7
  | .a8 => Num.ofInt 255
  | _ => Num.one

/-- Least of finite values and zero, and greatest of them and zero. -/
def lowHigh (xs : List Num) : Num × Num :=
  xs.foldl (fun b x => if x.isFinite then (if x.lt b.1 then x else b.1, if b.2.lt x then x else b.2) else b)
    (Num.zero, Num.zero)

/-- The range of a line (R131). -/
def lineRange (f : Fmt) (xs : List Num) : Num :=
  let lh := lowHigh xs
  if f = .a8 then lh.2.sub lh.1
  else if lh.2.lt lh.1.neg then lh.1.neg else lh.2

/-- The greatest of a list of ranges. -/
def maxRange (rs : List Num) : Num := rs.foldl (fun b x => if b.lt x then x else b) Num.zero

/-- k of R132: least, not below −126, with m ≤ qmax × 448 × 2^k. -/
def panelExp (f : Fmt) (m : Num) : Int :=
  match m.div (f.qmax.mul (Num.ofInt 448)) with
  | .fin _ a d e =>
    if a = 0 then 0
    else
      let l := floorLog2 a d e
      let k := if (Num.pow2 l).lt (.fin false a d e) then l + 1 else l
      if k < -126 then -126 else k
  | _ => 0

/-- CODE of R132 for a range: the least code that covers it. -/
def lineCode (f : Fmt) (k : Int) (range : Num) : Nat :=
  if range.isZero then 0x38
  else
    let bound := fun (c : Nat) => (f.qmax.mul (Fmt.e4m3.decode c)).mul (Num.pow2 k)
    (((List.range 126).map (· + 1)).find? (fun c => !(bound c).lt range)).getD 126

/-- Zero point of an A8 line (R132); 0 for every other format. -/
def zeroPoint (f : Fmt) (k : Int) (code : Nat) (xs : List Num) : Nat :=
  if f ≠ .a8 then 0
  else
    let s := (Fmt.e4m3.decode code).mul (Num.pow2 k)
    ((lowHigh xs).1.neg.div s).toIntRound.toNat

/-- Panel exponent, code and zero point of every line of one group. -/
def groupScales (f : Fmt) (lines : List (List Num)) : Int × List (Nat × Nat) :=
  let rs := lines.map (lineRange f)
  let m := maxRange rs
  let k := if m.isZero then 0 else panelExp f m
  (k, List.zipWith (fun xs r =>
    let code := lineCode f k r
    (code, zeroPoint f k code xs)) lines rs)

/-- F32 bits of 2^k. -/
def pow2Bits (k : Int) : Word := (Num.pow2 k).f32Bits

/-- The scale pass over lines in groups of g (R132): the scale set's bytes, padding written as 0. -/
def scalePass (f : Fmt) (lines : List (List Num)) (g : Nat) : List Byte :=
  let gs := (chunks g lines.length lines).map (groupScales f)
  let recs := (gs.flatMap (·.2)).flatMap (fun r => leBytes 4 (r.1 + 256 * r.2))
  padTo (panelOff lines.length) recs ++ gs.flatMap (fun p => leBytes 4 (pow2Bits p.1).toNat)

/-- quantise(x, r) of R133 with the line's scale and zero point. -/
def quantise (f : Fmt) (s : Num) (z : Nat) (x : Num) : Cv :=
  let outer : Cv := { code := if x.signed then 0 else 255, sat := true }
  if f ≠ .a8 then f.convert (x.div s)
  else match x, x.div s with
    | .nan, _ => { code := z, nan := true }
    | .inf _, _ => outer
    | .fin _ _ _ _, .nan => { code := z, nan := true }
    | .fin _ _ _ _, .inf _ => outer
    | .fin _ _ _ _, q =>
      let v := clampInt 0 255 (q.toIntRound + (z : Int))
      { code := v.1.toNat, sat := v.2 }

/-- Decoded value × s, rounded once to the target (R133). -/
def dequantise (src dst : Fmt) (s : Num) (z code : Nat) : Cv :=
  let v := if src = .a8 then (src.decode code).sub (Num.ofInt z) else src.decode code
  dst.convert (v.mul s)

/-- The counts of R122. Every NaN counts (DEDUCED, log 97). -/
def cvCounts (cs : List Cv) : Nat × Nat := ((cs.filter (·.nan)).length, (cs.filter (·.sat)).length)

/-! F32 arithmetic with its counts: every rounding is a conversion of R121, whose NaNs and saturations R122 counts. -/

/-- Two counts together. -/
def cntAdd (a b : Nat × Nat) : Nat × Nat := (a.1 + b.1, a.2 + b.2)

/-- Several counts together. -/
def cntSum (cs : List (Nat × Nat)) : Nat × Nat := cs.foldl cntAdd (0, 0)

/-- A value with the counts of R122 behind it. -/
abbrev Counted := Num × Nat × Nat

/-- A value that no rounding of its own stands behind. -/
def plainC (x : Num) : Counted := (x, 0, 0)

/-- Counts added to a value's. -/
def moreC (n : Nat × Nat) (x : Counted) : Counted := (x.1, cntAdd n x.2)

/-- A value rounded once to F32, and its counts. -/
def Num.rndC (x : Num) : Counted :=
  let c := f32Form.convert x
  (f32Form.decode c.code, bit c.nan, bit c.sat)

/-- Products, quotients and sums of counted values, each rounded once to F32. -/
def mulC (a b : Counted) : Counted := moreC (cntAdd a.2 b.2) (a.1.mul b.1).rndC
def divC (a b : Counted) : Counted := moreC (cntAdd a.2 b.2) (a.1.div b.1).rndC
def subC (a b : Counted) : Counted := moreC (cntAdd a.2 b.2) (a.1.sub b.1).rndC
/-- a × b + c with one rounding. -/
def fmaC (a b c : Counted) : Counted := moreC (cntAdd (cntAdd a.2 b.2) c.2) ((a.1.mul b.1).add c.1).rndC
/-- The square root, rounded once; of a value below 0 it is a NaN. -/
def sqrtC (a : Counted) : Counted := let r := a.1.sqrtR; (r, cntAdd a.2 (bit r.isNan, 0))

/-- A row of values, each rounded once to F32, and their counts. -/
def rndRow (xs : List Num) : List Num × Nat × Nat :=
  let cs := xs.map f32Form.convert
  (cs.map (fun c => f32Form.decode c.code), cvCounts cs)

/-- The sum of two values rounded once to F32, with all the counts behind it. -/
def addC (a b : Counted) : Counted := moreC (cntAdd a.2 b.2) (a.1.add b.1).rndC

/-- The sum of squares of R226. -/
def sumSquares (xs : List Num) : Counted :=
  let lanes := (List.range 64).map (fun l => (laneOf l xs).foldl (fun acc x => fmaC (plainC x) (plainC x) acc) (plainC Num.zero))
  (pairUp addC (pairUp addC (pairUp addC (pairUp addC (pairUp addC (pairUp addC lanes)))))).headD (plainC Num.zero)

/-- w × v added to every element of a row, with one rounding each. -/
def fmaRow (w : Num) (vs acc : List Num) : List Num × Nat × Nat :=
  rndRow (List.zipWith (fun a v => (w.mul v).add a) acc vs)

end Sys2Proof.Machine
end

