-- ==== Sys2Proof/Machine/Bruin.lean ====
section
/-! DEFINITION. The Bruin engine (R211 to R231): registration, shard programs stage by stage, commits and hand-offs. -/

namespace Sys2Proof.Machine

/-! Registration (R216 to R219). -/

/-- Elements per matrix of a block. -/
def blockElems (b : Nat) : Nat := bits b 447 416 * bits b 415 384

/-- Bytes that one owned shard takes in the state area (R218). -/
def stateBytes (b : Nat) : Nat :=
  let n := blockElems b
  let r := bits b 447 416
  let k := bits b 415 384
  let rule := bits b 257 256
  if rule = 0 then 4 * n
  else if rule = 1 then 8 * n
  else if rule = 2 then 4 * n
  else 4 * n + 8 * r * r + 8 * k * k

/-- Bytes of the work area (R218). -/
def workBytes (b : Nat) : Nat :=
  let r := bits b 447 416
  let k := bits b 415 384
  let d := min r k
  let e := max r k
  let rule := bits b 257 256
  if rule < 2 then 0
  else if rule = 2 then 4 * (2 * d * e + d * d)
  else 4 * (4 * e * e + r * k)

/-- An area is the start of a class 0h object long enough, or 0 when its size is 0 (R218). -/
def Chip.areaOk (c : Chip) (i addr size : Nat) : Bool :=
  if size = 0 then addr = 0
  else match c.objStart i addr with
    | some o => o.cls = 0 && o.table.isNone && size ≤ o.length
    | none => false

/-- The first field of a block that is out of range, as its byte offset (R216, R219); `n` is the members of GROUP and
`owned` the owned shards. -/
def Chip.bruinField (c : Chip) (i b n owned : Nat) : Option Nat :=
  let rule := bits b 257 256
  let side := if rule = 3 then 8192 else 65536
  let r := bits b 447 416
  let k := bits b 415 384
  let lim := bits b 831 800
  let obj := match c.objStart i (bits b 511 448) with
    | some o => o.dense && bits b 383 368 * blockElems b * wBytes b ≤ o.length
    | none => false
  if !(bits b 263 260 = 0 || bits b 263 260 = 2) then some 32
  else if bits b 330 330 = 1 && bits b 329 320 ≠ 0 then some 40
  else if bits b 330 330 = 1 && bits b 351 336 ≠ 0 then some 42
  else if bits b 330 330 = 0 && n ≤ bits b 351 336 then some 42
  else if bits b 383 368 = 0 then some 46
  else if k = 0 || side < k then some 48
  else if r = 0 || side < r then some 52
  else if !obj then some 56
  else if !c.areaOk i (bits b 575 512) (8 * blockElems b * owned) then some 64
  else if !c.areaOk i (bits b 639 576) (stateBytes b * owned) then some 72
  else if !c.areaOk i (bits b 703 640) (workBytes b) then some 80
  else if rule = 3 && bits b 767 752 = 0 then some 94
  else if 2 ≤ rule && !(1 ≤ bits b 783 776 && bits b 783 776 ≤ 15) then some 97
  else if lim = 0 || 0x7F800000 ≤ lim then some 100
  else none

/-- An identity matrix of F32 values, as bytes. -/
def identityBytes (n : Nat) : List Byte :=
  (List.range n).flatMap (fun r => (List.range n).flatMap (fun k => leBytes 4 (if r = k then 0x3F800000 else 0)))

/-- The state area of one shard at registration (R218): momentum, then for rule 11b Lf, Rf, Lr and Rr (DESIGN CHOICE,
log 36). -/
def stateInit (b : Nat) : List Byte :=
  if bits b 257 256 = 3 then
    let r := bits b 447 416
    let k := bits b 415 384
    List.replicate (4 * blockElems b + 4 * r * r + 4 * k * k) 0 ++ identityBytes r ++ identityBytes k
  else List.replicate (stateBytes b) 0

/-- The registered object at an address. -/
def Chip.bobj (c : Chip) (i a : Nat) : Option BObj := (c.inst i).bobjs.find? (fun b => b.addr = a)

/-- Change a registered object. -/
def Chip.onBObj (c : Chip) (i a : Nat) (f : BObj → BObj) : Chip :=
  c.onInst i (fun x => { x with bobjs := x.bobjs.map (fun b => if b.addr = a then f b else b) })

/-- Kinds 1 and 2 are refused with fewer than 8 live cores (R211). -/
def Chip.fewCores (c : Chip) : Option (Nat × Nat) :=
  if 8 ≤ c.liveCores then none
  else some (stRetired, unitSubject ⟨9, ((List.range 64).find? (fun k => c.isRetired 9 k)).getD 0⟩)

/-- Bruin holds or may still write an object: a job runs, or its dense updates run on (R216, log 29). -/
def Chip.bruinBusy (c : Chip) (i : Nat) : Bool := c.jobRuns i || (c.inst i).ended.isSome

/-- BRUIN_SET kind 1 (R217 to R219). -/
def Chip.bruinRegister (c : Chip) (p : Icp) : Verdict :=
  let i := p.who
  let b := leNat p.params
  let obj := bits b 511 448
  let g := bits b 329 320
  let loc := bits b 330 330 = 1
  match c.fewCores with
  | some r => .refuse r.1 r.2
  | none =>
    if c.bruinBusy i || (c.bobj i obj).isSome then c.badState p
    else if !loc && (c.group g).owner ≠ some i then .refuse stNoObject 40
    else if !loc && (c.selfIn (c.group g).members).isNone then .refuse stNotPermitted 0
    else
      let new : BObj :=
        { addr := obj, block := BitVec.ofNat 1024 b, updates := 0, lastEpoch := 0, clamped := 0, infs := 0, nans := 0,
          owned := 0, p1 := 0x3F800000, p2 := 0x3F800000 }
      let owned := (c.ownedShards new).length
      match c.bruinField i b (c.groupSize g) owned with
      | some k => badParam k
      | none =>
        let c := (List.range owned).foldl (fun (c : Chip) k => c.landModel i (bits b 639 576 + stateBytes b * k) (stateInit b)) c
        .done 0 [] (c.onInst i (fun x => { x with bobjs := x.bobjs ++ [{ new with owned := BitVec.ofNat 16 owned }] }))

/-- The hyperparameters of a block: LR, MU, BETA2, EPS, WD, RSCALE and LIMIT, bits [1023..800]; every other bit but KIND
must agree (R219). -/
def sameButHyper (a b : Nat) : Bool := bits a 799 8 = bits b 799 8

/-- BRUIN_SET kind 2 (R219). -/
def Chip.bruinChange (c : Chip) (p : Icp) : Verdict :=
  let i := p.who
  let b := leNat p.params
  match c.fewCores with
  | some r => .refuse r.1 r.2
  | none =>
    match c.bobj i (bits b 511 448) with
    | none => .refuse stNoObject 56
    | some o =>
      let lim := bits b 831 800
      if !sameButHyper o.block.toNat b then
        badParam (((List.range 100).find? (fun k => 1 ≤ k && bits o.block.toNat (8 * k + 7) (8 * k) ≠ bits b (8 * k + 7) (8 * k))).getD 0)
      else if lim = 0 || 0x7F800000 ≤ lim then badParam 100
      else .done 0 [] (c.onBObj i o.addr (fun o => { o with block := BitVec.ofNat 1024 (b / 256 * 256 + 1) }))

/-- BRUIN_SET kind 3 (R216). -/
def Chip.bruinRemove (c : Chip) (p : Icp) : Verdict :=
  let i := p.who
  if c.bruinBusy i then c.badState p
  else match c.bobj i (p.par 8 8) with
    | none => .refuse stNoObject 8
    | some o => .done 0 [] (c.onInst i (fun x => { x with bobjs := x.bobjs.filter (fun b => b.addr ≠ o.addr) }))

/-- A program may start: its object's swaps of earlier steps are made (R26, R222). -/
def Chip.mayStart (c : Chip) (i : Nat) (q : BProg) : Bool :=
  match c.objStart i q.obj with
  | some o => o.due.head? = some q.epoch
  | none => false

/-- BSTATE of an object (R230). -/
def Chip.bstate (c : Chip) (i a : Nat) : Nat :=
  let q := (c.inst i).bqueue
  if q.any (fun p => p.obj = a && p.started) then 2
  else match q.find? (fun p => p.obj = a) with
    | none => 0
    | some p => if c.mayStart i p then 1 else 3

/-- BRUIN_SET kind 4 (R230). -/
def Chip.bruinStatus (c : Chip) (p : Icp) : Verdict :=
  let i := p.who
  match c.bobj i (p.par 8 8) with
  | none => .refuse stNoObject 8
  | some o =>
    .done 0 (leBytes 32 (packed [(c.bstate i o.addr, 0), (o.updates.toNat, 16), (o.lastEpoch.toNat, 80), (o.owned.toNat, 144),
      (o.nans.toNat, 160), (o.infs.toNat, 192), (o.clamped.toNat, 224)])) c

/-- BRUIN_SET by its KIND (R216). -/
def Chip.bruinSet (c : Chip) (p : Icp) : Verdict :=
  let k := p.par 0 1
  if k = 0 then .done 0 [] (c.onJob p.who (fun j => { j with ufLimit := BitVec.ofNat 16 (p.par 6 2) }))
  else if k = 1 then c.bruinRegister p
  else if k = 2 then c.bruinChange p
  else if k = 3 then c.bruinRemove p
  else if k = 4 then c.bruinStatus p
  else badParam 0

/-- BRUIN_SET kind 0 (R147, R216). -/
def execBruinSetJob (p : Icp) (s : State) : Host.Outcome State Fault Refusal := icp 0x58 p s (fun c p => c.bruinSet p)
/-- BRUIN_SET kind 1 (R216). -/
def execBruinSetRegister (p : Icp) (s : State) : Host.Outcome State Fault Refusal := icp 0x58 p s (fun c p => c.bruinSet p)
/-- BRUIN_SET kind 2 (R216). -/
def execBruinSetChange (p : Icp) (s : State) : Host.Outcome State Fault Refusal := icp 0x58 p s (fun c p => c.bruinSet p)
/-- BRUIN_SET kind 3 (R216). -/
def execBruinSetRemove (p : Icp) (s : State) : Host.Outcome State Fault Refusal := icp 0x58 p s (fun c p => c.bruinSet p)
/-- BRUIN_SET kind 4 (R216). -/
def execBruinSetStatus (p : Icp) (s : State) : Host.Outcome State Fault Refusal := icp 0x58 p s (fun c p => c.bruinSet p)

/-! Values (R212, R226, R229). -/

/-- The F32 values of bytes. -/
def f32List (bs : List Byte) : List Num := (Fmt.f32.unpack (bs.length / 4) bs).map (fun v => f32 (BitVec.ofNat 32 v))

/-- The bytes of F32 values. -/
def f32Bytes (xs : List Num) : List Byte := xs.flatMap (fun x => leBytes 4 x.f32Bits.toNat)

/-- A value rounded to BF16 (R121). -/
def bf16Of (x : Num) : Num := Fmt.bf16.decode (Fmt.bf16.convert x).code

/-- Σ over k in blocks of 16, each block's exact sum with the accumulator rounded once (R212). -/
def dot16 : Nat → List Num → List Num → Counted → Counted
  | 0, _, _, acc => acc
  | fuel + 1, xs, ys, acc =>
    if xs.isEmpty || ys.isEmpty then acc
    else
      let block := List.zipWith Num.mul (xs.take 16) (ys.take 16)
      dot16 fuel (xs.drop 16) (ys.drop 16) (moreC acc.2 (block.foldl Num.add acc.1).rndC)

/-- The columns of a matrix of n columns given by its rows. -/
def columns (n : Nat) (rows : List (List Num)) : List (List Num) :=
  (List.range n).map (fun k => rows.map (fun r => r.getD k Num.zero))

/-- A matrix of n columns from its elements. -/
def asRows (n : Nat) (xs : List Num) : List (List Num) := chunks n xs.length xs

/-- The product of rows with columns (R212), row-major. -/
def product (rows cols : List (List Num)) : List Counted :=
  let a := rows.map (·.map bf16Of)
  let b := cols.map (·.map bf16Of)
  a.flatMap (fun r => b.map (fun k => dot16 (r.length / 16 + 1) r k (plainC Num.zero)))

/-- NaNs replaced and values saturated as operands enter the arrays (R122, R212). -/
def operandCounts (xs : List Num) : Nat × Nat := cvCounts (xs.map Fmt.bf16.convert)

/-- a × b + c × d: the first product rounded, then one fused multiply-add (R225; DEDUCED, log 37). -/
def twoTerm (a b c d : Counted) : Counted := fmaC c d (mulC a b)

/-- What R229 makes of a value: 0 kept, 1 a NaN, 2 an infinity, 3 limited. -/
def clampVal (lim x : Num) : Num × Nat :=
  match x with
  | .nan => (Num.zero, 1)
  | .inf s => (if s then lim.neg else lim, 2)
  | .fin s _ _ _ => if lim.lt x.abs then (if s then lim.neg else lim, 3) else (x, 0)

/-! A shard program (R223, R225 to R228). -/

/-- A program with what its addresses need: the object, the index of the shard among the owned ones. -/
structure Run where
  inst : Nat
  prog : BProg
  idx : Nat
  block : Nat
  deriving DecidableEq, Repr

def Run.rows (r : Run) : Nat := bits r.block 447 416
def Run.cols (r : Run) : Nat := bits r.block 415 384
def Run.elems (r : Run) : Nat := r.rows * r.cols
def Run.hyper (r : Run) (hi lo : Nat) : Counted := plainC (f32 (BitVec.ofNat 32 (bits r.block hi lo)))
def Run.lr (r : Run) : Counted := r.hyper 1023 992
def Run.mu (r : Run) : Counted := r.hyper 991 960
def Run.beta2 (r : Run) : Counted := r.hyper 959 928
def Run.eps (r : Run) : Counted := r.hyper 927 896
def Run.wd (r : Run) : Counted := r.hyper 895 864
def Run.rscale (r : Run) : Counted := r.hyper 863 832
def Run.limit (r : Run) : Num := (r.hyper 831 800).1
def Run.rule (r : Run) : Nat := bits r.block 257 256
def Run.iters (r : Run) : Nat := bits r.block 783 776

/-- Address of the shard's part of the state area, moved by a number of values. -/
def Run.state (r : Run) (off : Nat) : Nat := bits r.block 639 576 + stateBytes r.block * r.idx + 4 * off
/-- Address of a value of the work area. -/
def Run.work (r : Run) (off : Nat) : Nat := bits r.block 703 640 + 4 * off
/-- Address of the shard in the object (R217). -/
def Run.shardAddr (r : Run) : Nat := r.prog.obj + r.prog.shard * r.elems * wBytes r.block

/-- n F32 values of a class 0h area. -/
def Chip.vals (c : Chip) (i a n : Nat) : List Num :=
  match c.objAt i a with
  | some o => f32List (c.frontRead i o a (4 * n))
  | none => []

/-- Address of the shard's gradient in the buffer of its step (R220). -/
def Chip.gradAddr (c : Chip) (r : Run) : Nat :=
  let o := match c.bobj r.inst r.prog.obj with | some b => b.bufBytes | none => 0
  bits r.block 575 512 + (r.prog.epoch % 2) * o + 4 * r.elems * r.idx

/-- The gradient, with the loss scale taken out (R142, R223). -/
def Chip.gradOf (c : Chip) (r : Run) : List Counted :=
  (c.vals r.inst (c.gradAddr r) r.elems).map (fun g => (g.mul (Num.pow2 (-(r.prog.lexp : Int)))).rndC)

/-- The weights of the shard in the front copy. -/
def Chip.weightsOf (c : Chip) (r : Run) : List Num :=
  match c.objStart r.inst r.prog.obj with
  | none => []
  | some o =>
    let w := wBytes r.block
    let bs := c.frontRead r.inst o r.shardAddr (w * r.elems)
    if w = 4 then f32List bs else (Fmt.bf16.unpack r.elems bs).map Fmt.bf16.decode

/-- Count what R229 replaced. -/
def Chip.countClamps (c : Chip) (r : Run) (ks : List Nat) : Chip :=
  let n := fun k => (ks.filter (· = k)).length
  c.onBObj r.inst r.prog.obj (fun b =>
    { b with nans := satAdd b.nans (n 1), infs := satAdd b.infs (n 2), clamped := satAdd b.clamped (n 3) })

/-- The roundings behind values are counted (R122). -/
def Chip.countAll (c : Chip) (i : Nat) (xs : List Counted) : Chip :=
  let n := cntSum (xs.map (·.2))
  c.countConv i n.1 n.2

/-- Bytes that Bruin writes into a copy of an object; its extents' ages go to 0 (R162). -/
def Chip.bruinWrite (c : Chip) (i k a : Nat) (bs : List Byte) : Chip :=
  let c := c.copyWrite i k a bs
  match c.objAt i a with
  | some o => c.touch i o a bs.length
  | none => c

/-- Write values of the state area, clamped (R229). -/
def Chip.putState (c : Chip) (r : Run) (off : Nat) (xs : List Counted) : Chip :=
  let ys := xs.map (fun x => clampVal r.limit x.1)
  ((c.countAll r.inst xs).countClamps r (ys.map (·.2))).bruinWrite r.inst 0 (r.state off) (f32Bytes (ys.map (·.1)))

/-- Write values of the work area, not clamped. -/
def Chip.putWork (c : Chip) (r : Run) (off : Nat) (xs : List Counted) : Chip :=
  (c.countAll r.inst xs).bruinWrite r.inst 0 (r.work off) (f32Bytes (xs.map (·.1)))

/-- Write the new weights to the back copy, clamped and in WFMT (R229). -/
def Chip.putWeights (c : Chip) (r : Run) (xs : List Counted) : Chip :=
  let ys := xs.map (fun x => clampVal r.limit x.1)
  let c := (c.countAll r.inst xs).countClamps r (ys.map (·.2))
  if wBytes r.block = 4 then c.bruinWrite r.inst 1 r.shardAddr (f32Bytes (ys.map (·.1)))
  else
    let cs := ys.map (fun y => Fmt.bf16.convert y.1)
    (c.countConv r.inst 0 (cvCounts cs).2).bruinWrite r.inst 1 r.shardAddr (Fmt.bf16.pack (cs.map (·.code)))

/-- −x. -/
def negC (x : Counted) : Counted := (x.1.neg, x.2)

/-- W − LR × (direction + WD × W) for rules 00b and 01b, where the direction is added as it stands (R228). -/
def stepPlain (r : Run) (w : Num) (o : Counted) : Counted := fmaC (negC r.lr) (fmaC r.wd (plainC w) o) (plainC w)

/-- W − LR × (RSCALE × O + WD × W) (R225, R227). -/
def stepScaled (r : Run) (w o : Num) : Counted :=
  fmaC (negC r.lr) (twoTerm r.rscale (plainC o) r.wd (plainC w)) (plainC w)

/-- The stages of R225 and R227, named by what they do. -/
inductive BStage where
  /-- the one stage of rules 00b and 01b -/
  | whole
  /-- Mo, and X in rule 10b -/
  | momentum
  /-- sum of squares: of X (k = 0), of Lf + EPS I (1) or of Rf + EPS I (2) -/
  | norm (k : Nat)
  /-- X ÷ f (0), or M = B ÷ nf of Lf (1) or Rf (2) -/
  | divide (k : Nat)
  /-- product X × Xᵀ -/
  | gramX
  /-- product A × X -/
  | timesX
  /-- X = 1.5 × X − 0.5 × P -/
  | cubic
  /-- product g × gᵀ (1) or gᵀ × g (2) -/
  | gramG (k : Nat)
  /-- Lf (1) or Rf (2) -/
  | factor (k : Nat)
  /-- X = I -/
  | unit (k : Nat)
  /-- T = 1.25 × I − 0.25 × M -/
  | shift (k : Nat)
  /-- products X × T, T × T, Q × Q, Q × M (0 to 3) -/
  | rootProd (k n : Nat)
  /-- root: X × nf^−0.25 into Lr (1) or Rr (2) -/
  | rootOut (k : Nat)
  /-- product Lr × Mo -/
  | leftO
  /-- product (Lr × Mo) × Rr -/
  | rightO
  /-- the new weights -/
  | weights
  deriving DecidableEq, Repr

/-- The stages of one root (R227, table "Stages of each rule"). -/
def rootStages (iters k : Nat) : List BStage :=
  [.norm k, .divide k, .unit k] ++
    ((List.range iters).flatMap (fun _ => [.shift k, .rootProd k 0, .rootProd k 1, .rootProd k 2, .rootProd k 3])) ++ [.rootOut k]

/-- The stages of a program; `t` is the object's update count (R225, R227, R228). -/
def Run.stages (r : Run) (t : Nat) : List BStage :=
  if r.rule < 2 then [.whole]
  else if r.rule = 2 then
    let loops := if (f32 r.prog.f).isZero then [] else (List.range r.iters).flatMap (fun _ => [BStage.gramX, .timesX, .cubic])
    [.momentum, .norm 0, .divide 0] ++ loops ++ [.weights]
  else
    let roots := if t % max 1 (bits r.block 767 752) = 0 then rootStages r.iters 1 ++ rootStages r.iters 2 else []
    [.momentum, .gramG 1, .factor 1, .gramG 2, .factor 2] ++ roots ++ [.leftO, .rightO, .weights]

/-- Size of factor 1 or 2. -/
def Run.side (r : Run) (k : Nat) : Nat := if k = 1 then r.rows else r.cols

/-- Offset in the shard's state of Lf (1) or Rf (2), and of Lr (1) or Rr (2) (log 36). -/
def Run.factorOff (r : Run) (k : Nat) : Nat := r.elems + (if k = 1 then 0 else r.rows * r.rows)
def Run.rootOff (r : Run) (k : Nat) : Nat :=
  r.elems + r.rows * r.rows + r.cols * r.cols + (if k = 1 then 0 else r.rows * r.rows)

/-- Offsets in the work area of rule 11b: X, T, M, Q of q² values each, then O (log 36). -/
def Run.slotOff (r : Run) (n : Nat) : Nat := n * (max r.rows r.cols * max r.rows r.cols)

/-- Add EPS to the diagonal of a p × p matrix. -/
def addEps (eps : Counted) (p : Nat) (xs : List Num) : List Counted :=
  xs.mapIdx (fun k x => if k / p = k % p then addC (plainC x) eps else plainC x)

/-- a × I − b × M for a p × p matrix (R227): a × I is exact. -/
def shiftMat (a b : Num) (p : Nat) (m : List Num) : List Counted :=
  m.mapIdx (fun k x => fmaC (plainC b.neg) (plainC x) (plainC (if k / p = k % p then a else Num.zero)))

def half3 : Counted := plainC (.fin false 3 1 (-1))
def quarter5 : Num := .fin false 5 1 (-2)

/-- Count the operands of a product (R122). -/
def Chip.countOps (c : Chip) (i : Nat) (xs : List Num) : Chip :=
  let n := operandCounts xs
  c.countConv i n.1 n.2

/-- A product written to the work area. -/
def Chip.putProduct (c : Chip) (r : Run) (off : Nat) (rows cols : List (List Num)) : Chip :=
  (c.countOps r.inst (rows.flatten ++ cols.flatten)).putWork r off (product rows cols)

/-- X of rule 10b has d rows of e values (R225). -/
def Run.d (r : Run) : Nat := min r.rows r.cols
def Run.e (r : Run) : Nat := max r.rows r.cols

/-- A vector of R × C values, or its transpose if R > C. -/
def Run.wide (r : Run) (xs : List Num) : List Num :=
  if r.cols < r.rows then (columns r.cols (asRows r.cols xs)).flatten else xs

/-- The transpose back. -/
def Run.tall (r : Run) (xs : List Num) : List Num :=
  if r.cols < r.rows then (columns r.e (asRows r.e xs)).flatten else xs

/-- The values alone: what was counted once is not counted again. -/
def seen (xs : List Counted) : List Counted := xs.map (fun x => plainC x.1)

/-- The one stage of rules 00b and 01b (R228); p1 and p2 are the object's. A rounding is counted as often as it is made: the
constants 1 − MU and 1 − BETA2, and 1 − p1 and 1 − p2, once a stage. -/
def Chip.runWhole (c : Chip) (r : Run) (p1 p2 : Num) : Chip :=
  let i := r.inst
  let n := r.elems
  let g := c.gradOf r
  let w := c.weightsOf r
  let old := fun k => (c.vals i (r.state (k * n)) n).map plainC
  if r.rule = 0 then
    let mo := List.zipWith (fun m g => fmaC r.mu m g) (old 0) g
    (c.putState r 0 mo).putWeights r (List.zipWith (stepPlain r) w (seen mo))
  else
    let one := plainC Num.one
    let m1 := subC one r.mu
    let b1 := subC one r.beta2
    let d1 := subC one (plainC (mulC (plainC p1) r.mu).1)
    let d2 := subC one (plainC (mulC (plainC p2) r.beta2).1)
    let bare := fun (x : Counted) => plainC x.1
    let m := List.zipWith (fun m g => twoTerm r.mu m (bare m1) g) (old 0) g
    let v := List.zipWith (fun v g => twoTerm r.beta2 v (bare b1) (mulC g g)) (old 1) (seen g)
    let u := List.zipWith (fun m v =>
      divC (divC m (bare d1)) (addC (sqrtC (divC v (bare d2))) r.eps)) (seen m) (seen v)
    (((c.countAll i [m1, b1, d1, d2]).putState r 0 m).putState r n v).putWeights r (List.zipWith (stepPlain r) w u)

/-- One stage (R225, R227, R228): the chip after it, and the norm that the program then holds. -/
def Chip.runStage (c : Chip) (r : Run) (p1 p2 : Num) (st : BStage) : Chip × Word :=
  let i := r.inst
  let n := r.elems
  let f := f32 r.prog.f
  let d := r.d
  let e := r.e
  let xAt := fun (c : Chip) => c.vals i (r.work 0) (d * e)
  let sq := fun (c : Chip) (slot p : Nat) => asRows p (c.vals i (r.work (r.slotOff slot)) (p * p))
  let keep := fun (c : Chip) => (c, r.prog.f)
  match st with
  | .whole => keep (c.runWhole r p1 p2)
  | .momentum =>
    let mo := List.zipWith (fun m g => fmaC r.mu (plainC m) g) (c.vals i (r.state 0) n) (c.gradOf r)
    let c := c.putState r 0 mo
    keep (if r.rule = 2 then c.putWork r 0 ((r.wide (mo.map (·.1))).map plainC) else c)
  | .norm k =>
    let xs := if k = 0 then (xAt c).map plainC
      else addEps r.eps (r.side k) (c.vals i (r.state (r.factorOff k)) (r.side k * r.side k))
    let s := sqrtC (sumSquares (xs.map (·.1)))
    (c.countAll i (s :: xs), s.1.f32Bits)
  | .divide k =>
    if k = 0 then
      keep (c.putWork r 0 (if f.isZero then List.replicate (d * e) (plainC Num.zero)
        else (xAt c).map (fun x => divC (plainC x) (plainC f))))
    else
      let p := r.side k
      let b := addEps r.eps p (c.vals i (r.state (r.factorOff k)) (p * p))
      keep (c.putWork r (r.slotOff 2) (b.map (fun x => divC (plainC x.1) (plainC f))))
  | .gramX =>
    let rows := asRows e (xAt c)
    keep (c.putProduct r (d * e) rows rows)
  | .timesX =>
    let a := asRows d (c.vals i (r.work (d * e)) (d * d))
    keep (c.putProduct r (d * e + d * d) a (columns e (asRows e (xAt c))))
  | .cubic =>
    let p := c.vals i (r.work (d * e + d * d)) (d * e)
    keep (c.putWork r 0 (List.zipWith (fun x p => twoTerm half3 (plainC x) (plainC (Num.fin true 1 1 (-1))) (plainC p)) (xAt c) p))
  | .gramG k =>
    let rows := asRows r.cols ((c.gradOf r).map (·.1))
    let m := if k = 1 then rows else columns r.cols rows
    keep (c.putProduct r (r.slotOff 0) m m)
  | .factor k =>
    let p := r.side k
    let old := c.vals i (r.state (r.factorOff k)) (p * p)
    let new := c.vals i (r.work (r.slotOff 0)) (p * p)
    let b1 := subC (plainC Num.one) r.beta2
    keep ((c.countAll i [b1]).putState r (r.factorOff k)
      (List.zipWith (fun a b => twoTerm r.beta2 (plainC a) (plainC b1.1) (plainC b)) old new))
  | .unit k => keep (c.bruinWrite i 0 (r.work (r.slotOff 0)) (identityBytes (r.side k)))
  | .shift k =>
    let p := r.side k
    keep (c.putWork r (r.slotOff 1) (shiftMat quarter5 (Num.pow2 (-2)) p (sq c 2 p).flatten))
  | .rootProd k m =>
    let p := r.side k
    if m = 0 then keep (c.putProduct r (r.slotOff 0) (sq c 0 p) (columns p (sq c 1 p)))
    else if m = 1 then keep (c.putProduct r (r.slotOff 3) (sq c 1 p) (columns p (sq c 1 p)))
    else if m = 2 then keep (c.putProduct r (r.slotOff 3) (sq c 3 p) (columns p (sq c 3 p)))
    else keep (c.putProduct r (r.slotOff 2) (sq c 3 p) (columns p (sq c 2 p)))
  | .rootOut k =>
    let p := r.side k
    let s := f.rootInv4
    keep ((c.countAll i [(s, bit s.isNan, 0)]).putState r (r.rootOff k) ((sq c 0 p).flatten.map (fun x => mulC (plainC x) (plainC s))))
  | .leftO =>
    let l := asRows r.rows (c.vals i (r.state (r.rootOff 1)) (r.rows * r.rows))
    let mo := asRows r.cols (c.vals i (r.state 0) n)
    keep (c.putProduct r (r.slotOff 4) l (columns r.cols mo))
  | .rightO =>
    let a := asRows r.cols (c.vals i (r.work (r.slotOff 4)) n)
    let q := asRows r.cols (c.vals i (r.state (r.rootOff 2)) (r.cols * r.cols))
    keep (c.putProduct r (r.slotOff 4) a (columns r.cols q))
  | .weights =>
    let o := if r.rule = 2 then r.tall (xAt c) else c.vals i (r.work (r.slotOff 4)) n
    keep (c.putWeights r (List.zipWith (stepScaled r) (c.weightsOf r) o))

/-- What a stage reads and writes of model space (R223, R225, R227, R228): address, bytes, and whether it is written. -/
def Chip.stageRanges (c : Chip) (r : Run) (st : BStage) : List (Nat × Nat × Bool) :=
  let n := 4 * r.elems
  let x := 4 * (r.d * r.e)
  let sq := fun k => 4 * (r.side k * r.side k)
  let grad := (c.gradAddr r, n, false)
  let shard := fun w => (r.shardAddr, wBytes r.block * r.elems, w)
  let slot := fun k bytes w => (r.work (r.slotOff k), bytes, w)
  let st' := fun off bytes w => (r.state off, bytes, w)
  match st with
  | .whole => [grad, st' 0 (stateBytes r.block) true, shard false, shard true]
  | .momentum => [grad, st' 0 n true] ++ (if r.rule = 2 then [(r.work 0, x, true)] else [])
  | .norm k => if k = 0 then [(r.work 0, x, false)] else [st' (r.factorOff k) (sq k) false]
  | .divide k => if k = 0 then [(r.work 0, x, true)] else [st' (r.factorOff k) (sq k) false, slot 2 (sq k) true]
  | .gramX => [(r.work 0, x, false), (r.work (r.d * r.e), 4 * (r.d * r.d), true)]
  | .timesX => [(r.work 0, x + 4 * (r.d * r.d), false), (r.work (r.d * r.e + r.d * r.d), x, true)]
  | .cubic => [(r.work 0, x, true), (r.work (r.d * r.e + r.d * r.d), x, false)]
  | .gramG k => [grad, slot 0 (sq k) true]
  | .factor k => [st' (r.factorOff k) (sq k) true, slot 0 (sq k) false]
  | .unit k => [slot 0 (sq k) true]
  | .shift k => [slot 2 (sq k) false, slot 1 (sq k) true]
  | .rootProd k m =>
    if m = 0 then [slot 0 (sq k) true, slot 1 (sq k) false]
    else if m = 1 then [slot 1 (sq k) false, slot 3 (sq k) true]
    else if m = 2 then [slot 3 (sq k) true]
    else [slot 3 (sq k) false, slot 2 (sq k) true]
  | .rootOut k => [slot 0 (sq k) false, st' (r.rootOff k) (sq k) true]
  | .leftO => [st' (r.rootOff 1) (sq 1) false, st' 0 n false, slot 4 n true]
  | .rightO => [st' (r.rootOff 2) (sq 2) false, slot 4 n true]
  | .weights => [if r.rule = 2 then (r.work 0, x, false) else slot 4 n false, shard false, shard true]

/-- A stage waits: one of its accesses meets the move of an extent or a window (R168, R175). -/
def Chip.stageHeld (c : Chip) (r : Run) (st : BStage) : Bool :=
  (c.stageRanges r st).any (fun a => (c.objAt r.inst a.1).any (fun o =>
    o.moveHeld a.1 a.2.1 a.2.2 || c.windowHeld o a.1 a.2.1 a.2.2))

/-- The extents that a stage reads have their ages at 0 (R162), and poison in them is met (R383). -/
def Chip.stageTouch (c : Chip) (r : Run) (st : BStage) : Chip :=
  ((c.stageRanges r st).filter (fun a => !a.2.2)).foldl (fun (c : Chip) a => c.touchAt r.inst a.1 a.2.1) c

/-! Turns, starts and commits (R214, R221 to R223). -/

/-- The program at the head of an instance's queue, with its object. -/
def Chip.bruinHead (c : Chip) (i : Nat) : Option (Run × BObj) :=
  match (c.inst i).bqueue.head? with
  | none => none
  | some q =>
    (c.bobj i q.obj).map (fun b =>
      ({ inst := i, prog := q, idx := ((c.ownedShards b).filter (· < q.shard)).length, block := q.block.toNat }, b))

/-- A stage of the instance is to be run. -/
def Chip.bruinWork (c : Chip) (i : Nat) : Bool :=
  match c.bruinHead i with
  | some (r, b) => r.prog.started && r.prog.stage < (r.stages b.updates.toNat).length
  | none => false

/-- The instance whose stage runs, and its turns left after it (R214, R352). -/
def Chip.bruinNow (c : Chip) : Option (Nat × Nat) := nextTurn (c.bruinTurn.getD (15, 0)) (c.bruinWork ·) (c.weight 2)

/-- Change the program at the head of a queue. -/
def Chip.onHead (c : Chip) (i : Nat) (f : BProg → BProg) : Chip :=
  c.onInst i (fun x => { x with bqueue := match x.bqueue with
    | [] => []
    | q :: r => f q :: r })

/-- BRUIN_PROGRAM_START (R219, R221, R222). -/
def execBruinProgramStart (i : Nat) (s : State) : Host.Outcome State Fault Refusal :=
  onChip s (fun c =>
    match c.bruinHead i with
    | none => c
    | some (r, b) =>
      if r.prog.started || !c.mayStart i r.prog then c
      else
        let c := (c.wakeHub 4).onHead i (fun q => { q with started := true, block := b.block })
        c.onInst i (fun x => { x with bheld := some (r.prog.epoch % 2) }))

/-- BRUIN_STAGE_COMPLETE (R168, R211, R214): the stage whose turn it is; none with fewer than 8 live cores. -/
def execBruinStageComplete (i : Nat) (s : State) : Host.Outcome State Fault Refusal :=
  onChip s (fun c =>
    match c.bruinNow, c.bruinHead i with
    | some turn, some (r, b) =>
      if turn.1 ≠ i then c
      else match (r.stages b.updates.toNat)[r.prog.stage]? with
        | none => c
        | some st =>
          if c.liveCores < 8 || c.stageHeld r st then c
          else
            let x := (c.stageTouch r st).runStage r (f32 b.p1) (f32 b.p2) st
            let c := x.1.onHead i (fun q => { q with stage := q.stage + 1, f := x.2 })
            { c with bruinTurn := some turn }
    | _, _ => c)

/-- The number a hand-off carries in CSEQ: the object's place in the order of R222, and the shard (DESIGN CHOICE,
log 38). -/
def Chip.handoffNumber (c : Chip) (i : Nat) (b : BObj) (shard : Nat) : Word :=
  let k := ((sortedObjs (c.inst i).bobjs).takeWhile (fun x => x.addr ≠ b.addr)).length
  BitVec.ofNat 32 (k * 65536 + shard)

/-- The owner hands a committed shard to the other members: range m to member m, its own range to all (R303, R308). -/
def Chip.handOff (c : Chip) (r : Run) (b : BObj) : Chip :=
  let g := b.f 329 320
  if b.f 330 330 = 1 then c
  else match c.objStart r.inst r.prog.obj with
    | none => c
    | some o =>
      let bs := c.copyRead r.inst o 1 r.shardAddr (wBytes r.block * r.elems)
      let u := castRange bs.length (c.groupSize g)
      let me := c.selfOf g
      let num := c.handoffNumber r.inst b r.prog.shard
      (c.others g).foldl (fun (c : Chip) m =>
        let part := fun (c : Chip) k =>
          let data := cut bs (u * k) u
          if data.isEmpty then c else c.sendPack r.inst g m 9 kindFree num 0 (u * k) data
        part (part c m) me) c

/-- BRUIN_SHARD_COMMIT (R223, R230, R231): UPDATES, LAST_EPOCH, p1 and p2 move with the last shard of the step (DEDUCED,
log 37). -/
def execBruinShardCommit (i : Nat) (s : State) : Host.Outcome State Fault Refusal :=
  onChip s (fun c =>
    match c.bruinHead i with
    | none => c
    | some (r, b) =>
      if !r.prog.started || r.prog.stage < (r.stages b.updates.toNat).length then c
      else
        let e := r.prog.epoch
        let rest := (c.inst i).bqueue.drop 1
        let c := c.onObj i r.prog.obj (fun o => { o with shardsDone := o.shardsDone ++ [r.prog.shard] })
        let c := c.handOff r b
        let p1 := mulC (plainC (f32 b.p1)) r.mu
        let p2 := mulC (plainC (f32 b.p2)) r.beta2
        let c := if rest.any (fun q => q.obj = r.prog.obj && q.epoch = e) then c
          else (c.countAll i (if r.rule = 1 then [p1, p2] else [])).onBObj i r.prog.obj (fun b => { b with
            updates := satAdd b.updates 1, lastEpoch := BitVec.ofNat 48 e, p1 := p1.1.f32Bits, p2 := p2.1.f32Bits })
        let c := c.onInst i (fun x => { x with
          bqueue := rest, bheld := if rest.any (fun q => q.epoch = e) then x.bheld else none })
        (c.settleEnd i).ctrLimit i)

end Sys2Proof.Machine
end

