-- ==== Sys2Proof/Machine/Colls.lean ====
section
/-! DEFINITION. Collectives (R294 to R305), split streams (R309, R311), the packets of the Pack engine (R299, R302 to R308,
R315), groups (R288 to R291). -/

namespace Sys2Proof.Machine

/-! Fields of the COLL body (R294). -/
def cLimit (d : Desc) : Nat := dbits d 479 448
def cKind (d : Desc) : Nat := dbits d 411 408
def cGroup (d : Desc) : Nat := dbits d 401 392
def cOut (d : Desc) : Nat := dbits d 391 388
def cIn (d : Desc) : Nat := dbits d 387 384
def cRowlen (d : Desc) : Nat := dbits d 383 368
def cRoot (d : Desc) : Nat := dbits d 367 352
def cCseq (d : Desc) : Word := BitVec.ofNat 32 (dbits d 351 320)
def cSeg (d : Desc) : Nat := dbits d 319 288
def cCount (d : Desc) : Nat := dbits d 287 256
def cSrc (d : Desc) : RefBits := dRef d 0
def cDst (d : Desc) : RefBits := dRef d 1
def cAux (d : Desc) : RefBits := dRef d 2

/-- Bytes per element of a reduction's input or output. -/
def fmtBytes (f : Nat) : Nat := if f = 0 then 4 else if f = 4 then 1 else 2

/-- Elements that a holder holds but the last ones: u of R302; for KIND 3 bytes (R303). -/
def cU (d : Desc) (n : Nat) : Nat := if cKind d = 3 then castRange (cCount d) n else divUp (cCount d) (max 1 n)

/-- First element of a holder's range, and their number. -/
def cRange (d : Desc) (n h : Nat) : Nat × Nat :=
  let a := min (cCount d) (h * cU d n)
  (a, min (cCount d) ((h + 1) * cU d n) - a)

/-- Rows of a split stream that member m receives: the first, and how many (R309). -/
def splitRows (d : Desc) (n m : Nat) : Nat × Nat :=
  let rows := cCount d / 65536
  if cRowlen d = 0 then (0, rows)
  else
    let t := divUp rows (max 1 n)
    let a := min rows (m * t)
    (a, min rows ((m + 1) * t) - a)

/-- Segments of KIND 1 that member m owns, in ascending number (R295). -/
def ownedSegs (d : Desc) (n m : Nat) : List Nat :=
  (List.range (cCount d / max 1 (cSeg d))).filter (fun j => (cRoot d + j) % max 1 n = m)

/-- The runs of the output of member `dst`, as offset and bytes, that the transfer from member `src` fills in order
(R295, R302, R303); `counts` are the received counts of KIND 6. -/
def cRuns (d : Desc) (n : Nat) (counts : List (Nat × Nat)) (src dst : Nat) : List (Nat × Nat) :=
  let k := cKind d
  let b := fmtBytes (cOut d)
  let r := cRange d n src
  if k = 0 then [(r.1 * b, r.2 * b)]
  else if k = 1 then
    (ownedSegs d n dst).mapIdx (fun x j =>
      let lo := max (j * cSeg d) r.1
      let hi := min ((j + 1) * cSeg d) (r.1 + r.2)
      ((x * cSeg d + (lo - j * cSeg d)) * b, (hi - lo) * b)) |>.filter (fun e => e.2 ≠ 0)
  else if k = 2 then [(src * cCount d, cCount d)]
  else if k = 3 then [(0, cCount d)]
  else if k = 5 then [(src * cSeg d, cSeg d)]
  else if k = 6 then
    let at' := ((counts.filter (fun e => e.1 < src)).map (·.2)).sum
    [(at', ((counts.find? (fun e => e.1 = src)).map (·.2)).getD 0)]
  else []

/-- Bytes of runs. -/
def runBytes (rs : List (Nat × Nat)) : Nat := (rs.map (·.2)).sum

/-- The bytes at runs of a buffer. -/
def pickRuns (bs : List Byte) (rs : List (Nat × Nat)) : List Byte := rs.flatMap (fun r => cut bs r.1 r.2)

/-- Bytes from an offset of a transfer, laid over its runs: pieces of the output. -/
def layRuns : List (Nat × Nat) → Nat → List Byte → List (Nat × List Byte)
  | [], _, _ => []
  | (a, n) :: rs, off, bs =>
    if bs.isEmpty then []
    else if n ≤ off then layRuns rs (off - n) bs
    else
      let here := bs.take (n - off)
      (a + off, here) :: layRuns rs 0 (bs.drop (n - off))

/-- Bytes of this device's whole output (R295). -/
def cNeed (d : Desc) (n me : Nat) (counts : List (Nat × Nat)) : Nat :=
  let k := cKind d
  if k = 0 then cCount d * fmtBytes (cOut d)
  else if k = 1 then (ownedSegs d n me).length * cSeg d * fmtBytes (cOut d)
  else if k = 2 then n * cCount d
  else if k = 3 then cCount d
  else if k = 5 then n * cSeg d
  else if k = 6 then (counts.map (·.2)).sum
  else if k = 7 then (splitRows d n me).2 * (cCount d % 65536) * fmtBytes (cOut d)
  else 0

/-! Checks of a COLL (R294 to R297, R309). -/

/-- Lines and lines per group of an E4M3 contribution (R128, R295). -/
def cLines (d : Desc) : Nat := cCount d / max 1 (cRowlen d)
def cGroupLines (d : Desc) : Nat := groupLines (cRowlen d)

/-- Bytes of the ranges that a COLL names at SRC, DST and AUX (R296), for a group of n. -/
def cSizes (d : Desc) (n me : Nat) : Nat × Nat × Nat :=
  let k := cKind d
  let src := if k ≤ 1 then cCount d * fmtBytes (cIn d)
    else if k = 2 then cCount d
    else if k = 3 then (if me = cRoot d then cCount d else 0)
    else if k = 4 then 8
    else if k = 5 then n * cSeg d
    else 0
  let dst := if k = 4 then 8 else if k = 6 then cLimit d
    else if k = 7 then
      let t := (splitRows d n me).2
      if t = 0 then 0 else (t - 1) * cSeg d + (cCount d % 65536) * fmtBytes (cOut d)
    else cNeed d n me []
  let aux := if k ≤ 1 && cIn d = 4 then scaleSetBytes (cLines d) (cGroupLines d) else if k = 6 then 8 * n else 0
  (src, dst, aux)

/-- A reference is used by a KIND (R294, R295): 0 SRC, 1 DST, 2 AUX. -/
def cUses (d : Desc) (k : Nat) : Bool :=
  let kind := cKind d
  if k = 0 then kind < 4 || kind = 5 || kind = 6
  else if k = 1 then kind ≠ 4
  else kind = 6 || (kind ≤ 1 && cIn d = 4)

/-- Faults of a COLL that need no look at the group (R8, R97, R98, R294 to R296). -/
def cStatic (d : Desc) : Option Nat :=
  let k := cKind d
  let refs := [cSrc d, cDst d, cAux d]
  firstFault
    [(dbits d 511 480 ≠ 0 || dbits d 447 412 ≠ 0 || dbits d 407 402 ≠ 0 || refs.any refRsv, caRsvField),
     (7 < k, caBadOp),
     (refs.any (fun r => refSpace r = 1) ||
        ([0, 1, 2].any (fun x => cUses d x && refNone (refs.getD x 0))) ||
        (k ≠ 4 && [0, 1, 2].any (fun x => !cUses d x && !refNone (refs.getD x 0))) ||
        (k = 4 && !refNone (cAux d)) || (k = 7 && refSpace (cDst d) ≠ 2), caBadSpace),
     (if k ≤ 1 then !([0, 1, 2, 4].contains (cIn d)) || !([0, 1, 2].contains (cOut d))
        else if k = 7 then cIn d ≠ 0 || !(cOut d = 0 || cOut d = 2)
        else cIn d ≠ 0 || cOut d ≠ 0, caBadFormat),
     (refs.any (fun r => refSpace r ≠ 3 && refAddr r % 64 ≠ 0) ||
        (k ≤ 1 && (cCount d * fmtBytes (cIn d)) % 4 ≠ 0) || (k ≤ 1 && (cCount d * fmtBytes (cOut d)) % 4 ≠ 0) ||
        (k = 1 && (cSeg d * fmtBytes (cOut d)) % 4 ≠ 0) || ((k = 2 || k = 3) && cCount d % 4 ≠ 0) ||
        (k = 5 && cSeg d % 4 ≠ 0) || (k = 6 && cLimit d % 4 ≠ 0) || (k = 7 && cSeg d % 64 ≠ 0), caAlign)]

/-- Faults of a COLL's shape in a group of n (R295 to R297, R309). A group runs one collective at a time, so a stream number
named by one that waits its turn is free again when its turn comes (R309). -/
def Chip.cShape (c : Chip) (d : Desc) (n : Nat) : Option Nat :=
  let k := cKind d
  let g := c.group (cGroup d)
  let open' := g.colls
  firstFault
    [((k ≤ 3 || k = 7) && cCount d = 0, caBadShape),
     (k = 1 && (cSeg d = 0 || cCount d % max 1 (cSeg d) ≠ 0), caBadShape),
     (k = 5 && cSeg d = 0, caBadShape),
     (k ≤ 1 && cIn d = 4 && (cRowlen d = 0 || cCount d % max 1 (cRowlen d) ≠ 0), caBadShape),
     (!(k ≤ 1 && cIn d = 4) && k ≠ 7 && cRowlen d ≠ 0, caBadShape),
     ((k = 1 || k = 3) && n ≤ cRoot d, caBadShape),
     (k ≠ 1 && k ≠ 3 && k ≠ 7 && cRoot d ≠ 0, caBadShape),
     (k ≠ 1 && k ≠ 5 && k ≠ 7 && cSeg d ≠ 0, caBadShape),
     (k ≠ 6 && cLimit d ≠ 0, caBadShape),
     (k = 7 && (!g.split || cCount d / 65536 = 0 || cCount d % 65536 = 0 || cCount d % 32 ≠ 0 || 1 < cRowlen d ||
        63 < cRoot d || cSeg d < cCount d % 65536 * fmtBytes (cOut d)), caBadShape),
     (15 < (cCseq d - g.next).toNat || open'.any (fun x => x.cseq = cCseq d), caBadShape)]

/-! A collective in its turn. -/

/-- Change one open collective of a group. -/
def Chip.onColl (c : Chip) (g : Nat) (cseq : Word) (f : Coll → Coll) : Chip :=
  c.onGroup g (fun e => { e with colls := e.colls.map (fun x => if x.cseq = cseq then f x else x) })

def Chip.coll (c : Chip) (g : Nat) (cseq : Word) : Option Coll := (c.group g).colls.find? (fun x => x.cseq = cseq)

/-- Count bytes landed from a member. -/
def Coll.landedFrom (x : Coll) (m n : Nat) : Coll :=
  { x with got := match x.got.find? (fun e => e.1 = m) with
      | none => x.got ++ [(m, n)]
      | some _ => x.got.map (fun e => if e.1 = m then (m, e.2 + n) else e) }

/-- A reference moved by bytes. -/
def refPlus (r : RefBits) (n : Nat) : RefBits := r + n

/-- Bytes of a format hold a non-finite value. -/
def nonFinite (f : Nat) (bs : List Byte) : Bool :=
  match Fmt.ofCode f with
  | none => false
  | some g => (g.unpack (bs.length * 8 / g.width) bs).any (fun v => !(g.decode v).isFinite)

/-- Bytes of the output land at an offset of DST, or are held while Bruin holds the buffer (R221, R308) or its extent moves
(R168); until the COLL completes a read returns them or what stood there (R84). A reduction with GRAD set that writes a
non-finite value sets the vote flag (R97, R301). -/
def Chip.landOut (c : Chip) (i g : Nat) (x : Coll) (off : Nat) (bs : List Byte) : Chip :=
  let r := refPlus (cDst x.desc) off
  if bs.isEmpty || refNone (cDst x.desc) then c
  else if c.refHeld i r bs.length true then c.onColl g x.cseq (fun x => { x with held := x.held ++ [(off, bs)] })
  else
    let c := c.landed c (c.refWrite i x.tile r bs) x.tile (2 + x.chan)
    if (x.kind ≤ 1 || x.kind = 7) && dGrad x.desc && nonFinite (cOut x.desc) bs then c.setVote i else c

/-- Bytes of a transfer land over its runs. -/
def Chip.landRuns (c : Chip) (i g : Nat) (x : Coll) (m : Nat) (runs : List (Nat × Nat)) (off : Nat) (bs : List Byte) : Chip :=
  let c := c.onColl g x.cseq (fun x => x.landedFrom m bs.length)
  (layRuns runs off bs).foldl (fun (c : Chip) e => c.landOut i g x e.1 e.2) c

/-- Bytes held for a buffer land once it is free (R221). -/
def Chip.landHeld (c : Chip) (i g : Nat) (x : Coll) : Chip :=
  let c := c.onColl g x.cseq (fun x => { x with held := [] })
  x.held.foldl (fun (c : Chip) e => c.landOut i g x e.1 e.2) c

/-! Leaves (R301, R302). -/

/-- The line scales of an E4M3 contribution. -/
def Coll.scales (x : Coll) : List Num := (readScales x.aux (cLines x.desc) (cGroupLines x.desc)).map (·.1)

/-- The leaf transfer to holder h: its elements as they lie; in E4M3 the F32 scale of each line stands before the line's
first element (DESIGN CHOICE, log 39). -/
def Coll.leafStream (x : Coll) (n h : Nat) : List Byte :=
  let r := cRange x.desc n h
  let b := fmtBytes (cIn x.desc)
  if cIn x.desc ≠ 4 then cut x.input (r.1 * b) (r.2 * b)
  else
    let len := max 1 (cRowlen x.desc)
    let sc := x.scales
    (List.range r.2).flatMap (fun k =>
      let e := r.1 + k
      let code := cut x.input e 1
      if k = 0 || e % len = 0 then leBytes 4 (sc.getD (e / len) Num.zero).f32Bits.toNat ++ code else code)

/-- Bytes of the leaf transfer to holder h. -/
def leafBytes (d : Desc) (n h : Nat) : Nat :=
  let r := cRange d n h
  if cIn d ≠ 4 then r.2 * fmtBytes (cIn d)
  else if r.2 = 0 then 0
  else
    let len := max 1 (cRowlen d)
    r.2 + 4 * ((r.1 + r.2 - 1) / len - r.1 / len + 1)

/-- The values of an E4M3 leaf stream, from element e on. -/
def decodeLines (len : Nat) : Nat → Nat → Bool → Num → List Byte → List Num
  | 0, _, _, _, _ => []
  | n + 1, e, first, s, bs =>
    let head := first || e % len = 0
    let s := if head then f32 (BitVec.ofNat 32 (leNat (bs.take 4))) else s
    let bs := if head then bs.drop 4 else bs
    ((Fmt.e4m3.decode (leNat (bs.take 1))).mul s).rnd :: decodeLines len n (e + 1) false s (bs.drop 1)

/-- The values of a leaf transfer to holder h, decoded to F32 (R301). -/
def leafVals (d : Desc) (n h : Nat) (bs : List Byte) : List Num :=
  let r := cRange d n h
  if cIn d = 4 then decodeLines (max 1 (cRowlen d)) r.2 r.1 true Num.zero bs
  else match Fmt.ofCode (cIn d) with
    | none => []
    | some f => (f.unpack r.2 bs).map f.decode

/-- The pieces of a transfer from a member joined in order of their offset. -/
def Coll.joined (x : Coll) (m : Nat) : List Byte :=
  (((x.pieces.filter (fun p => p.1 = m)).map (·.2)).mergeSort (fun a b => a.1 ≤ b.1)).flatMap (·.2)

/-- Bytes of pieces from a member. -/
def Coll.pieceBytes (x : Coll) (m : Nat) : Nat := ((x.pieces.filter (fun p => p.1 = m)).map (fun p => p.2.2.length)).sum

/-- The greatest power of two not above n. -/
def topPow (n : Nat) : Nat := 2 ^ log2 n

/-- One level of R300's tree over values in steps of one. -/
def levelUp : List Counted → List Counted := pairUp addC

/-- The levels of R300's tree. -/
def levels : Nat → List Counted → List Counted
  | 0, v => v
  | k + 1, v => levels k (levelUp v)

/-- The sum of R300 over the members' values, each addition rounded and counted under R121 and R122. -/
def packSum (vs : List Num) : Counted :=
  let n := vs.length
  let p := topPow n
  let at' := fun k => ((vs.getD k Num.zero, 0, 0) : Counted)
  let v := (List.range p).map (fun k => if p + k < n then addC (at' k) (at' (p + k)) else at' k)
  (levels (log2 p) v).headD (Num.zero, 0, 0)

/-- Lists of values added element by element in the order of R300. -/
def packSums (len : Nat) (rows : List (List Num)) : List Counted :=
  (List.range len).map (fun k => packSum (rows.map (fun r => r.getD k Num.zero)))

/-- Sums rounded to an output format: bytes, NaNs and saturations (R121, R122, R300). -/
def roundOut (f : Nat) (xs : List Counted) : List Byte × Nat × Nat :=
  match Fmt.ofCode f with
  | none => ([], 0, 0)
  | some g =>
    let cs := xs.map (fun x => g.convert x.1)
    let n := cntAdd (cntSum (xs.map (·.2))) (cvCounts cs)
    (g.pack (cs.map (·.code)), n.1, n.2)

/-- Chunks of the leaf transfer to a holder (R302). -/
def Chip.leafChunks (c : Chip) (i : Nat) (d : Desc) (n h : Nat) : Nat := divUp (leafBytes d n h) (packData (c.netJob i).encReq)

/-- Count a value kept per member. -/
def bump (l : List (Nat × Nat)) (m n : Nat) : List (Nat × Nat) :=
  match l.find? (fun e => e.1 = m) with
  | none => l ++ [(m, n)]
  | some _ => l.map (fun e => if e.1 = m then (m, e.2 + n) else e)

def countOf (l : List (Nat × Nat)) (m : Nat) : Nat := ((l.find? (fun e => e.1 = m)).map (·.2)).getD 0

/-- Send the leaf chunks that the holder has granted (R302). -/
def Chip.sendLeaves (c : Chip) (i g h : Nat) (cseq : Word) : Chip :=
  match c.coll g cseq with
  | none => c
  | some x =>
    let n := c.groupSize g
    let size := packData (c.netJob i).encReq
    let src := countOf x.sent h
    let dst := min (countOf x.credits h) (c.leafChunks i x.desc n h)
    if dst ≤ src then c
    else
      let bs := cut (x.leafStream n h) (src * size) ((dst - src) * size)
      (c.onColl g cseq (fun x => { x with sent := bump x.sent h (dst - src) })).sendPack i g h 1 x.kind cseq
        (collMark g cseq) (src * size) bs

/-- Chunks of this holder's range that every other member has sent whole: their sums have been formed. -/
def Chip.chunksIn (c : Chip) (i g : Nat) (x : Coll) : Nat :=
  let n := c.groupSize g
  let me := c.selfOf g
  let size := packData (c.netJob i).encReq
  let total := c.leafChunks i x.desc n me
  ((List.range total).filter (fun k => (c.others g).all (fun m => x.pieces.any (fun p => p.1 = m && p.2.1 = k * size)))).length

/-- Bytes of the reduction store that granted chunks not yet summed may take (R302, R317). -/
def Chip.storeUsed (c : Chip) : Nat :=
  (c.groups.map (fun e => (e.2.colls.map (fun x =>
    let i := e.2.owner.getD 0
    if x.active && x.kind ≤ 1 && !x.summed then
      (x.granted - c.chunksIn i e.1 x) * packData (c.netJob i).encReq * e.2.members.length else 0)).sum)).sum

/-- Grant chunks while the reduction store has room for their leaves; an empty store always takes one (R302; log 39). -/
def Chip.grantN (i g : Nat) (cseq : Word) : Nat → Nat → Chip → Chip × Nat
  | 0, k, c => (c, k)
  | fuel + 1, k, c =>
    match c.coll g cseq with
    | none => (c, k)
    | some x =>
      let n := c.groupSize g
      let need := packData (c.netJob i).encReq * n
      let used := c.storeUsed
      if c.leafChunks i x.desc n (c.selfOf g) ≤ x.granted || (used ≠ 0 && 33554432 < used + need) then (c, k)
      else Chip.grantN i g cseq fuel (k + 1) (c.onColl g cseq (fun x => { x with granted := x.granted + 1 }))

/-- Grant what can be granted, and tell every other member in one CREDIT (R302). -/
def Chip.grant (c : Chip) (i g : Nat) (cseq : Word) : Chip :=
  match c.coll g cseq with
  | none => c
  | some x =>
    let r := Chip.grantN i g cseq (c.leafChunks i x.desc (c.groupSize g) (c.selfOf g)) 0 c
    if r.2 = 0 then c
    else (c.others g).foldl (fun (c : Chip) m =>
      c.sendPack i g m 5 x.kind cseq (collMark g cseq) 0 (leBytes 4 r.2)) r.1

/-- Room in the reduction store goes to every reduction that waits for it, whatever its group (R302). -/
def Chip.grantAll (c : Chip) : Chip :=
  c.groups.foldl (fun (c : Chip) e =>
    match e.2.owner, e.2.colls.find? (fun x => x.active && x.kind ≤ 1) with
    | some i, some x => if x.summed then c else c.grant i e.1 x.cseq
    | _, _ => c) c

/-! Progress of the running collective. -/

/-- Every other member's leaves are here: form the sums, send and land them (R300, R302). -/
def Chip.sumLeaves (c : Chip) (i g : Nat) (x : Coll) : Chip :=
  let n := c.groupSize g
  let me := c.selfOf g
  let need := leafBytes x.desc n me
  if x.summed || !(c.others g).all (fun m => x.pieceBytes m = need) then c
  else
    let len := (cRange x.desc n me).2
    let rows := (List.range n).map (fun m =>
      leafVals x.desc n me (if m = me then x.leafStream n me else x.joined m))
    let out := roundOut (cOut x.desc) (packSums len rows)
    let c := c.countConv i out.2.1 out.2.2
    let c := c.onColl g x.cseq (fun x => { x with summed := true, pieces := [] })
    let base := (cRange x.desc n me).1 * fmtBytes (cOut x.desc)
    let share := fun m =>
      if x.kind = 0 then out.1
      else
        let b := fmtBytes (cOut x.desc)
        let r := cRange x.desc n me
        (ownedSegs x.desc n m).flatMap (fun j =>
          let lo := max (j * cSeg x.desc) r.1
          let hi := min ((j + 1) * cSeg x.desc) (r.1 + r.2)
          cut out.1 (lo * b - base) ((hi - lo) * b))
    let c := c.landRuns i g x me (cRuns x.desc n [] me me) 0 (share me)
    (c.others g).foldl (fun (c : Chip) m =>
      let bs := share m
      if bs.isEmpty then c else c.sendPack i g m 2 x.kind x.cseq (collMark g x.cseq) 0 bs) c

/-- The awaiting descriptor of a collective waits no longer. -/
def Chip.release (c : Chip) (t chan slotOp : Nat) : Chip :=
  c.onTile t (fun k => { k with units := tmod [] k.units (2 + chan) (fun q =>
    match q with
    | d :: r => if dOp d.desc = slotOp then { d with awaits := false } :: r else d :: r
    | [] => []) })

/-- Store offset of the descriptor at the head of a unit of a tile. -/
def Chip.headSlot (c : Chip) (t u : Nat) : Nat := ((tget [] (c.tile t).units u).head?.map (·.slot)).getD 0

/-- A descriptor at the head of a unit leaves it without completing: it faulted (R96). -/
def Chip.popUnit (c : Chip) (t u : Nat) : Chip := c.onTile t (fun k => { k with units := tmod [] k.units u List.tail })

/-- A packet kept for a collective of its CSEQ: neither a split packet, which names its stream, nor a hand-off. -/
def earlyOf (cseq : Word) (p : Nat × PackPkt × Nat) : Bool := p.1 ≠ 8 && p.1 ≠ 9 && BitVec.ofNat 32 p.2.1.cseq = cseq

/-- End a collective on this device: NEXT advances, and its descriptor may complete (R297). -/
def Chip.dropColl (c : Chip) (g : Nat) (x : Coll) : Chip :=
  let c := c.onGroup g (fun e => { e with
    next := e.next + 1, colls := e.colls.filter (fun y => y.cseq ≠ x.cseq),
    early := e.early.filter (fun p => !earlyOf x.cseq p),
    parts := if x.kind = 7 then [] else e.parts })
  c.release x.tile x.chan 0x52

/-- ALL_TO_ALL_V was refused somewhere: its COLL faults, and ends as a collective of the group (R304, R314). -/
def Chip.refuseColl (c : Chip) (g : Nat) (x : Coll) : Chip :=
  (((c.fault x.tile (c.headSlot x.tile (2 + x.chan)) caBadShape).dropColl g x).trailed g x.entries x.began).popUnit x.tile (2 + x.chan)

/-- Every count is here: they are written, and the member refuses or sends the blocks (R304). -/
def Chip.exchange (c : Chip) (i g : Nat) (x : Coll) : Chip :=
  let n := c.groupSize g
  if x.summed || x.counts.length < n then c
  else
    let table := (List.range n).flatMap (fun m => leBytes 4 (countOf x.counts m))
    let c := c.landed c (c.refWrite i x.tile (refPlus (cAux x.desc) (4 * n)) table) x.tile (2 + x.chan)
    if cLimit x.desc < (x.counts.map (·.2)).sum then
      ((c.others g).foldl (fun (c : Chip) m => c.sendPack i g m 6 x.kind x.cseq 0 0 []) c).refuseColl g x
    else
    let c := c.onColl g x.cseq (fun x => { x with summed := true })
    let sends := (List.range n).map (fun m => fieldAt x.aux (4 * m) 4)
    (c.others g).foldl (fun (c : Chip) m =>
      c.sendPack i g m 2 x.kind x.cseq (collMark g x.cseq) 0 (cut x.input (sends.take m).sum (sends.getD m 0))) c

/-- Every block of ALL_TO_ALL_V is here: they land together (R304; DEDUCED, log 40). -/
def Chip.landBlocks (c : Chip) (i g : Nat) (x : Coll) : Chip :=
  let n := c.groupSize g
  let me := c.selfOf g
  let all := (c.others g).all (fun m =>
    x.pieces.any (fun p => p.1 = m) && x.pieceBytes m = countOf x.counts m)
  if !x.summed || !x.got.isEmpty || !all then c
  else
    let sends := (List.range n).map (fun m => fieldAt x.aux (4 * m) 4)
    (List.range n).foldl (fun (c : Chip) m =>
      let bs := if m = me then cut x.input (sends.take me).sum (sends.getD me 0) else x.joined m
      c.landRuns i g x m (cRuns x.desc n x.counts m me) 0 bs) c

/-- A barrier of KIND 4 goes on (R305); its result lands when it is over. -/
def Chip.collBarrier (c : Chip) (i g : Nat) (x : Coll) : Chip :=
  match x.barrier with
  | none => c
  | some b =>
    if b.done then c
    else
      let n := c.groupSize g
      let r := b.advance n (c.selfOf g) (barrierRounds n + 1) x.tokens
      let c := c.onColl g x.cseq (fun x => { x with barrier := some r.1, tokens := r.2.1, entries := r.1.entries })
      let c := c.sendTokens i g 4 x.cseq (collMark g x.cseq) r.2.2
      if r.1.done then c.landOut i g x 0 (leBytes 8 r.1.acc.toNat) else c

/-- What the running collective of a group can now do. -/
def Chip.progress (c : Chip) (i g : Nat) (cseq : Word) : Chip :=
  match c.coll g cseq with
  | none => c
  | some x =>
    if !x.active then c
    else if x.kind ≤ 1 then c.sumLeaves i g x
    else if x.kind = 4 then c.collBarrier i g x
    else if x.kind = 6 then
      let c := c.exchange i g x
      match c.coll g cseq with
      | some x => c.landBlocks i g x
      | none => c
    else c

/-! Split streams (R309 to R311). -/

/-- The member that reduces row r of a stream (R311). -/
def reducer (d : Desc) (n r : Nat) : Nat :=
  if cRowlen d = 0 then r % max 1 n else r / max 1 (divUp (cCount d / 65536) (max 1 n))

/-- Row-major offset of a block row in a stream's F32 partials. -/
def splitOff (d : Desc) (row col : Nat) : Nat := 4 * (row * (cCount d % 65536) + col)

/-- The open split stream of a group with a stream number. -/
def Chip.splitStream (c : Chip) (g stream : Nat) : Option Coll :=
  (c.group g).colls.find? (fun x => x.kind = 7 && x.active && cRoot x.desc % 64 = stream)

/-- A block row of a stream's result lands on this device (R309, R311). -/
def Chip.landRow (c : Chip) (i g : Nat) (x : Coll) (m row col : Nat) (bs : List Byte) : Chip :=
  let n := c.groupSize g
  let first := (splitRows x.desc n (c.selfOf g)).1
  let c := c.onColl g x.cseq (fun x => x.landedFrom m bs.length)
  c.landOut i g x ((row - first) * cSeg x.desc + col * fmtBytes (cOut x.desc)) bs

/-- A block row of this device's own partial goes on. -/
def Coll.outGoes (x : Coll) (dest row col : Nat) (k : SplitSent) : Coll :=
  { x with out := x.out.map (fun o => if o.dest = dest && o.row = row && o.col = col then { o with sent := k } else o) }

/-- Tell the member whose part it is that it is accepted, or with one chunk granted that it is summed and its place free
(R310, R311; DESIGN CHOICE, log 42). -/
def Chip.creditPart (c : Chip) (i g : Nat) (x : Coll) (p : SplitPart) (chunks : Nat) : Chip :=
  let me := c.selfOf g
  if p.member = me then
    c.onColl g x.cseq (fun x => x.outGoes me p.row p.col (if chunks = 0 then .accepted else .released))
  else c.sendPack i g p.member 5 7 x.cseq (collMark g x.cseq) (splitOff x.desc p.row p.col) (leBytes 4 chunks)

/-- Bytes of the split store that block rows not yet summed take (R311, R317). -/
def Chip.splitUsed (c : Chip) : Nat :=
  (c.groups.map (fun e => ((e.2.parts.filter (·.accepted)).map (fun p => 4 * p.vals.length)).sum)).sum

/-- All n partials of a block row are in the store: they are summed, rounded and written, under ROWLEN 0 sent on, and their
places are free (R300, R311). -/
def Chip.sumBlock (c : Chip) (i g : Nat) (x : Coll) (row col : Nat) : Chip :=
  let n := c.groupSize g
  let mine := (c.group g).parts.filter (fun p => p.row = row && p.col = col && p.accepted && !p.vals.isEmpty)
  if mine.length < n then c
  else
    let rows := (List.range n).map (fun m => ((mine.find? (fun p => p.member = m)).map (fun p => p.vals.map f32)).getD [])
    let out := roundOut (cOut x.desc) (packSums 32 rows)
    let c := (c.countConv i out.2.1 out.2.2).onGroup g (fun e => { e with parts := e.parts.map (fun p =>
      if p.row = row && p.col = col then { p with vals := [] } else p) })
    let c := c.landRow i g x (c.selfOf g) row col out.1
    let c := if cRowlen x.desc = 0 then
        (c.others g).foldl (fun (c : Chip) k =>
          c.sendPack i g k 2 7 x.cseq (collMark g x.cseq) ((row * (cCount x.desc % 65536) + col) * fmtBytes (cOut x.desc)) out.1) c
      else c
    mine.foldl (fun (c : Chip) p => c.creditPart i g x p 1) c

/-- The oldest part of a group that waits takes its place in the 8 MiB of the split store (R311, R317). -/
def Chip.acceptPart (c : Chip) (i g : Nat) (x : Coll) : Option Chip :=
  match (c.group g).parts.find? (fun p => !p.accepted) with
  | none => none
  | some p =>
    if 8388608 < c.splitUsed + 128 then none
    else
      let c := c.onGroup g (fun e => { e with parts := e.parts.map (fun q => if q = p then { q with accepted := true } else q) })
      some ((c.creditPart i g x p 0).sumBlock i g x p.row p.col)

/-- Block rows of this device's partials that lie at a reducer, or are on their way to it (R311). -/
def Coll.outAt (x : Coll) (m : Nat) : Nat := (x.out.filter (fun o => o.dest = m && (o.sent = .sent || o.sent = .accepted))).length

/-- The block rows that follow one another from a column on. -/
def runFrom : Nat → List SplitOut → List SplitOut
  | _, [] => []
  | col, o :: r => if o.col = col then o :: runFrom (col + 32) r else []

/-- The next block rows of this device's partials go to their reducer, within the 1 MiB that it may hold there (R311). -/
def Chip.sendParts (c : Chip) (i g : Nat) (x : Coll) : Option Chip :=
  match x.out.find? (fun o => o.sent = .waiting && x.outAt o.dest < 8192) with
  | none => none
  | some o =>
    let me := c.selfOf g
    let all := x.out.filter (fun q => q.sent = .waiting && q.dest = o.dest && q.row = o.row)
    let run := (runFrom o.col all).take (8192 - x.outAt o.dest)
    let c := c.onColl g x.cseq (fun x => { x with out := x.out.map (fun q =>
      if run.contains q then { q with vals := [], sent := .sent } else q) })
    if o.dest = me then
      let here := run.map (fun q => ({ member := me, row := q.row, col := q.col, vals := q.vals, accepted := false } : SplitPart))
      some (c.onGroup g (fun e => { e with parts := e.parts ++ here }))
    else
      some (c.sendPack i g o.dest 8 7 (BitVec.ofNat 32 (cRoot x.desc % 64)) (collMark g x.cseq) (splitOff x.desc o.row o.col)
        (run.flatMap (fun q => q.vals.flatMap (fun w => leBytes 4 w.toNat))))

/-- One thing that an open split stream can do now. -/
def Chip.splitStep (c : Chip) (e : Nat × Group) : Option Chip :=
  match e.2.owner, e.2.colls.find? (fun x => x.kind = 7 && x.active) with
  | some i, some x => (c.acceptPart i e.1 x).orElse (fun _ => c.sendParts i e.1 x)
  | _, _ => none

/-- Do what the split streams can do. -/
def Chip.splitN : Nat → Chip → Chip
  | 0, c => c
  | fuel + 1, c => match c.groups.findSome? c.splitStep with
    | none => c
    | some d => Chip.splitN fuel d

/-- Block rows that have still to be sent or accepted here. -/
def Chip.splitWork (c : Chip) : Nat :=
  (c.groups.map (fun e => (e.2.parts.filter (!·.accepted)).length +
    2 * ((e.2.colls.map (fun x => (x.out.filter (·.sent = .waiting)).length)).sum))).sum

/-- Room in the two stores of the Pack engine is given out (R302, R311). -/
def Chip.packStores (c : Chip) : Chip := let c := c.grantAll; Chip.splitN c.splitWork c

/-- A partial of 32 columns of a row has arrived whole; a second one from the same member is discarded (R311). -/
def Chip.partIn (c : Chip) (g m row col : Nat) (vals : List Word) : Chip :=
  c.onGroup g (fun e =>
    if e.parts.any (fun p => p.member = m && p.row = row && p.col = col) then e
    else { e with parts := e.parts ++ [{ member := m, row := row, col := col, vals := vals, accepted := false }] })

/-- Bytes of a member's partial, all in one block row: kept until the block row is whole (R293, R311). -/
def Chip.pieceIn (c : Chip) (g : Nat) (cseq : Word) (w m off : Nat) (bs : List Byte) : Chip :=
  match c.coll g cseq with
  | none => c
  | some x =>
    let b := off / 128
    let here := fun (p : Nat × Nat × List Byte) => p.1 = m && p.2.1 / 128 = b
    let got := (((x.pieces.filter here) ++ [(m, off, bs)]).map (·.2)).mergeSort (fun p q => p.1 ≤ q.1)
    let whole := got.flatMap (·.2)
    if whole.length < 128 then c.onColl g cseq (fun x => { x with pieces := x.pieces ++ [(m, off, bs)] })
    else
      (c.onColl g cseq (fun x => { x with pieces := x.pieces.filter (fun p => !here p) })).partIn g m (128 * b / w) (128 * b % w / 4)
        ((Fmt.f32.unpack 32 whole).map (BitVec.ofNat 32 ·))

/-- A SPLIT packet from member m, which arrived at `now`, reaches its stream, or waits until the stream opens here (R298,
R299, R311, R314). -/
def Chip.takeSplit (c : Chip) (i m now : Nat) (p : PackPkt) : Chip :=
  let g := p.group
  match c.splitStream g (p.cseq % 64) with
  | none => c.onGroup g (fun e => { e with early := e.early ++ [(8, p, now)] })
  | some x =>
    let w := max 1 (4 * (cCount x.desc % 65536))
    let n := c.groupSize g
    let ends := p.offset + p.data.length
    let blocks := (List.range (divUp ends 128)).drop (p.offset / 128)
    if w * (cCount x.desc / 65536) < ends || blocks.any (fun b => reducer x.desc n (128 * b / w) ≠ c.selfOf g) then
      c.failMember i g m
    else
      blocks.foldl (fun (c : Chip) b =>
        let lo := max p.offset (128 * b)
        c.pieceIn g x.cseq w m lo (cut p.data (lo - p.offset) (min ends (128 * (b + 1)) - lo)))
        (c.onColl g x.cseq (fun x => if x.entries.any (fun e => e.1 = m) then x else { x with entries := x.entries ++ [(m, now)] }))

/-- The split packets that waited in a group are taken as they came. -/
def Chip.replaySplits (c : Chip) (i g : Nat) : Chip :=
  let waiting := (c.group g).early.filter (fun x => x.1 = 8)
  let c := c.onGroup g (fun e => { e with early := e.early.filter (fun x => x.1 ≠ 8) })
  waiting.foldl (fun (c : Chip) x =>
    match c.packFrom x.2.1 with
    | some (_, m) => c.takeSplit i m x.2.2 x.2.1
    | none => c) c

/-! Packets of a collective (R299, R302 to R305). -/

/-- The first packet of a member in a collective is its entry (R314). -/
def Coll.enter (x : Coll) (m now : Nat) : Coll :=
  if x.entries.any (fun e => e.1 = m) then x else { x with entries := x.entries ++ [(m, now)] }

/-- A piece of leaf data or of a block is kept. -/
def Chip.keepPiece (c : Chip) (g : Nat) (cseq : Word) (m off : Nat) (bs : List Byte) : Chip :=
  c.onColl g cseq (fun x => { x with pieces := x.pieces ++ [(m, off, bs)] })

/-- A result or moved data (R302, R303): it lies in the range that this descriptor gives the sender, or the check of R299
fails (none). -/
def Chip.takeResult (c : Chip) (i g : Nat) (x : Coll) (m off : Nat) (bs : List Byte) : Option Chip :=
  let n := c.groupSize g
  let me := c.selfOf g
  let runs := cRuns x.desc n x.counts m me
  if x.kind = 6 then
    if x.counts.any (fun e => e.1 = m && e.2 < off + bs.length) then none else some (c.keepPiece g x.cseq m off bs)
  else if x.kind = 3 then
    let mine := cRange x.desc n me
    let theirs := cRange x.desc n m
    let inside := fun (r : Nat × Nat) => r.1 ≤ off && off + bs.length ≤ r.1 + r.2
    if m = cRoot x.desc && me ≠ m && inside mine then
      let c := c.landRuns i g x m runs off bs
      some ((c.others g).foldl (fun (c : Chip) k => c.sendPack i g k 2 3 x.cseq (collMark g x.cseq) off bs) c)
    else if !inside theirs then none
    else if me = cRoot x.desc then some (c.onColl g x.cseq (fun x => x.landedFrom m bs.length))
    else some (c.landRuns i g x m runs off bs)
  else if runBytes runs < off + bs.length then none
  else some (c.landRuns i g x m runs off bs)

/-- A RESULT of a split stream (R311): OFFSET is the row-major offset of the block row, and the row is one that the sender
reduces and this device receives from it (R299). -/
def Chip.takeSplitResult (c : Chip) (i g : Nat) (x : Coll) (m off : Nat) (bs : List Byte) : Option Chip :=
  let w := max 1 (cCount x.desc % 65536 * fmtBytes (cOut x.desc))
  if cRowlen x.desc ≠ 0 || cCount x.desc / 65536 ≤ off / w || w < off % w + bs.length ||
      reducer x.desc (c.groupSize g) (off / w) ≠ m then none
  else some (c.landRow i g x m (off / w) (off % w / fmtBytes (cOut x.desc)) bs)

/-- The chunks that a CREDIT grants. -/
def creditOf (p : PackPkt) : Nat := leNat (p.data.take 4)

/-- A CREDIT of a split stream: the reducer has accepted the block row at OFFSET, or, with a chunk granted, has summed it and
freed its place (R310, R311; DESIGN CHOICE, log 42). -/
def Coll.splitCredit (x : Coll) (m : Nat) (p : PackPkt) : Coll :=
  let w := max 1 (4 * (cCount x.desc % 65536))
  let row := p.offset / w
  let col := p.offset % w / 4
  if creditOf p ≠ 0 then x.outGoes m row col .released
  else if x.out.any (fun o => o.dest = m && o.row = row && o.col = col && o.sent = .released) then x
  else x.outGoes m row col .accepted

/-- A packet of the running collective reaches it, having arrived at `now`; none when it fails the check of R299. -/
def Chip.takePacket (c : Chip) (i g : Nat) (x : Coll) (opc m now : Nat) (p : PackPkt) : Option Chip :=
  let n := c.groupSize g
  let me := c.selfOf g
  let c := c.onColl g x.cseq (fun x => x.enter m now)
  if opc = 1 then
    if 1 < x.kind || leafBytes x.desc n me < p.offset + p.data.length then none
    else some (c.keepPiece g x.cseq m p.offset p.data)
  else if opc = 2 then
    if x.kind = 4 then none
    else if x.kind = 7 then c.takeSplitResult i g x m p.offset p.data
    else c.takeResult i g x m p.offset p.data
  else if opc = 3 then
    let k := creditOf p
    if x.kind ≠ 6 || x.pieces.any (fun q => q.1 = m && k < q.2.1 + q.2.2.length) then none
    else some (c.onColl g x.cseq (fun x =>
      if x.counts.any (fun e => e.1 = m) then x else { x with counts := x.counts ++ [(m, k)] }))
  else if opc = 4 then
    if x.kind ≠ 4 then none
    else some (c.onColl g x.cseq (fun x =>
      { x with tokens := x.tokens ++ [(m, fieldAt p.data 0 4, BitVec.ofNat 64 (fieldAt p.data 4 8), now)] }))
  else if opc = 5 then
    if x.kind = 7 then some (c.onColl g x.cseq (fun x => x.splitCredit m p))
    else some ((c.onColl g x.cseq (fun x => { x with credits := bump x.credits m (creditOf p) })).sendLeaves i g m x.cseq)
  else if opc = 6 then
    if x.kind ≠ 6 then none else some (c.onColl g x.cseq (fun x => { x with refused := true }))
  else some c

/-- The running collective takes a packet, and goes on; the job is aborted where a check of R299 fails. -/
def Chip.feed' (c : Chip) (i g opc m now : Nat) (p : PackPkt) : Chip :=
  let cseq := BitVec.ofNat 32 p.cseq
  match c.coll g cseq with
  | none => c
  | some x =>
    if x.kind ≠ p.kind then c.failMember i g m
    else match c.takePacket i g x opc m now p with
      | none => c.failMember i g m
      | some c =>
        match c.coll g cseq with
        | some y => if y.refused then c.refuseColl g y else c.progress i g cseq
        | none => c

/-! Beginning a collective (R295, R297, R302 to R305). -/

/-- What a collective does first, once its input has been read. -/
def Chip.firstSends (c : Chip) (i g : Nat) (x : Coll) : Chip :=
  let n := c.groupSize g
  let me := c.selfOf g
  let d := x.desc
  let mark := collMark g x.cseq
  let send := fun (c : Chip) m off (bs : List Byte) => if bs.isEmpty then c else c.sendPack i g m 2 x.kind x.cseq mark off bs
  if x.kind ≤ 1 then c.grant i g x.cseq
  else if x.kind = 2 then
    (c.others g).foldl (fun (c : Chip) m => send c m 0 x.input) (c.landRuns i g x me (cRuns d n [] me me) 0 x.input)
  else if x.kind = 3 then
    if me ≠ cRoot d then c
    else
      let range := fun m => let r := cRange d n m; (r.1, cut x.input r.1 r.2)
      (c.others g).foldl (fun (c : Chip) m => send (send c m (range m).1 (range m).2) m (range me).1 (range me).2)
        (c.landRuns i g x me [(0, cCount d)] 0 x.input)
  else if x.kind = 4 then
    let flags := if refNone (cSrc d) then 0 else BitVec.ofNat 64 (leNat (x.input.take 8))
    let c := c.onColl g x.cseq (fun x => { x with barrier := some (Barrier.enter false flags c.tc) })
    c.sendTokens i g 4 x.cseq mark (firstTokens n flags)
  else if x.kind = 5 then
    (c.others g).foldl (fun (c : Chip) m => send c m 0 (cut x.input (m * cSeg d) (cSeg d)))
      (c.landRuns i g x me (cRuns d n [] me me) 0 (cut x.input (me * cSeg d) (cSeg d)))
  else if x.kind = 6 then
    let mine := fieldAt x.aux (4 * me) 4
    let c := c.onColl g x.cseq (fun x => { x with counts := x.counts ++ [(me, mine)] })
    (c.others g).foldl (fun (c : Chip) m => c.sendPack i g m 3 6 x.cseq mark 0 (cut x.aux (4 * m) 4)) c
  else c

/-- Bytes that KIND 6 sends in all. -/
def sendTotal (aux : List Byte) (n : Nat) : Nat := ((List.range n).map (fun m => fieldAt aux (4 * m) 4)).sum

/-- Collectives open on this device (R297): one that waits its turn is not open yet. -/
def Chip.openColls (c : Chip) : Nat := (c.groups.map (fun e => (e.2.colls.filter (·.active)).length)).sum

/-- Begin the collective whose turn it is, with the packets that came before it, unless 64 are open (R297, R298). -/
def Chip.beginColl (c : Chip) (i g : Nat) : Chip :=
  let e := c.group g
  match e.colls.find? (fun x => x.cseq = e.next) with
  | none => c
  | some x =>
    if x.active || 64 ≤ c.openColls then c
    else
      let n := c.groupSize g
      let mine := e.early.filter (earlyOf x.cseq)
      let c := (c.onColl g x.cseq (fun x => { x with active := true, began := c.tc })).onGroup g (fun e => { e with
        early := e.early.filter (fun p => !earlyOf x.cseq p) })
      match c.coll g x.cseq with
      | none => c
      | some x =>
        let c := (c.firstSends i g x).progress i g x.cseq
        mine.foldl (fun (c : Chip) p =>
          match c.selfIn (c.group g).members with
          | some _ => c.feed' i g p.1 (((List.range n).find? (fun m => c.memberDev g m = p.2.1.src)).getD 0) p.2.2 p.2.1
          | none => c) c

/-- A collective whose turn has come can begin (R297). -/
def Chip.canBegin (c : Chip) (e : Nat × Group) : Bool :=
  e.2.owner.isSome && c.openColls < 64 && e.2.colls.any (fun x => x.cseq = e.2.next && !x.active)

/-- The collective whose turn it is begins, with every packet that came before it. -/
def Chip.beginTurn (c : Chip) (i g : Nat) : Chip := (c.beginColl i g).replaySplits i g

/-- Every collective that can begin does. -/
def Chip.beginN : Nat → Chip → Chip
  | 0, c => c
  | fuel + 1, c => match c.groups.find? c.canBegin with
    | none => c
    | some e => Chip.beginN fuel (c.beginTurn (e.2.owner.getD 0) e.1)

/-- What the Pack engine does of itself: collectives begin, and room in its stores is given out (R297, R302, R311). -/
def Chip.packTurn (c : Chip) : Chip :=
  (Chip.beginN ((c.groups.map (fun e => (e.2.colls.filter (!·.active)).length)).sum) c).packStores

/-- COLL at its DMA channel (R294 to R297), which reads SRC and AUX as it takes the COLL (DEDUCED, log 40). One that faults
at once through a REFUSE has left its channel (R304). -/
def Chip.opColl (c : Chip) (i t : Nat) (d : Desc) : Ran :=
  let g := cGroup d
  let n := c.groupSize g
  let me := c.selfOf g
  Ran.unless (cStatic d) (fun _ =>
    if (c.group g).owner ≠ some i || (c.selfIn (c.group g).members).isNone then .fault caNoGroup
    else Ran.unless (c.cShape d n) (fun _ =>
      let sz := cSizes d n me
      let look := fun (r : RefBits) (k : Nat) (w : Bool) => if k = 0 || refNone r then none else c.refFault i r k w
      let aux := look (cAux d) sz.2.2 (cKind d = 6)
      let lists := if sz.2.2 = 0 || aux.isSome then [] else c.refRead i t (cAux d) sz.2.2
      let src := if cKind d = 6 then sendTotal lists n else sz.1
      Ran.unless aux (fun _ =>
        if sz.2.2 ≠ 0 && c.refHeld i (cAux d) sz.2.2 false then .held
        else Ran.unless ((look (cSrc d) src false).orElse (fun _ => look (cDst d) sz.2.1 true)) (fun _ =>
        if cKind d = 6 && (List.range n).any (fun m => fieldAt lists (4 * m) 4 % 4 ≠ 0) then .fault caAlign
        else if c.refHeld i (cSrc d) src false then .held
        else
          let x : Coll :=
            { kind := cKind d, cseq := cCseq d, tile := t, chan := dCh d, desc := d, active := false, began := 0,
              input := if src = 0 || refNone (cSrc d) then [] else c.refRead i t (cSrc d) src, aux := lists,
              pieces := [], got := [], held := [], counts := [], barrier := none, tokens := [], granted := 0, credits := [],
              sent := [], summed := false, refused := false, entries := [], out := [] }
          let c := ((c.refTouch i (cSrc d) src).refTouch i (cAux d) sz.2.2).wakeHub 2
          let e := (c.onGroup g (fun e => { e with colls := e.colls ++ [x] })).packTurn.ctrLimit i
          let u := 2 + dCh d
          if (e.coll g x.cseq).isSome then .awaits e
          else if ((e.tile t).unitQ u).length < ((c.tile t).unitQ u).length then .gone e
          else .done e))))

/-! The rows of the table for packets (R293, R299). -/

/-- A packet of a collective: of the running one, or held for one that has not begun here (R298); one that has ended, a
CSEQ behind NEXT, takes none (DEDUCED, log 41). -/
def Chip.packPacket (c : Chip) (opc : Nat) (p : PackPkt) : Chip :=
  let c := (c.wakeHub 2).takeDelivered opc p
  match c.packFrom p with
  | none => c
  | some (i, m) =>
    let g := p.group
    let e := c.group g
    let cseq := BitVec.ofNat 32 p.cseq
    if p.gdigest ≠ e.digest then c.failMember i g m
    else if 2 ^ 31 ≤ (cseq - e.next).toNat then c
    else if (c.coll g cseq).any (·.active) then (c.feed' i g opc m c.tc p).packTurn.ctrLimit i
    else c.onGroup g (fun e => { e with early := e.early ++ [(opc, p, c.tc)] })

/-- LEAF (R302). -/
def execLeaf (p : PackPkt) (s : State) : Host.Outcome State Fault Refusal :=
  onChip s (fun c => c.packPacket 1 p)

/-- RESULT (R302, R303, R311). -/
def execResult (p : PackPkt) (s : State) : Host.Outcome State Fault Refusal :=
  onChip s (fun c => c.packPacket 2 p)

/-- COUNTS (R304). -/
def execCounts (p : PackPkt) (s : State) : Host.Outcome State Fault Refusal :=
  onChip s (fun c => c.packPacket 3 p)

/-- A token that belongs to no collective: a probe (R396), a hold token (R307), or one of the vote or the flip barrier
(R306). -/
def Chip.freeToken (c : Chip) (p : PackPkt) : Chip :=
  let c := c.takeDelivered 4 p
  match c.packFrom p with
  | none => c
  | some (i, m) =>
    let j := c.job i
    let round := fieldAt p.data 0 4
    let flags := BitVec.ofNat 64 (fieldAt p.data 4 8)
    if !c.jobRuns i || p.group ≠ j.group then c
    else if p.gdigest ≠ (c.group p.group).digest then c.failMember i p.group m
    else if round = 0xFFFFFFFF then (if c.selfOf j.group = 0 then c.echoProbe i m else c.takeEcho i flags)
    else if round = 0xFFFFFFFE then c
    else (c.onJob i (fun j => { j with tokens := j.tokens ++ [(m, round, flags, c.tc)] })).jobBarrier i

/-- TOKEN (R305 to R307, R396). -/
def execToken (p : PackPkt) (s : State) : Host.Outcome State Fault Refusal :=
  onChip s (fun c => if p.kind = kindFree then c.freeToken p else c.packPacket 4 p)

/-- CREDIT (R302). -/
def execCredit (p : PackPkt) (s : State) : Host.Outcome State Fault Refusal :=
  onChip s (fun c => c.packPacket 5 p)

/-- REFUSE (R304). -/
def execRefuse (p : PackPkt) (s : State) : Host.Outcome State Fault Refusal :=
  onChip s (fun c => c.packPacket 6 p)

/-- ABORT (R315): the job is aborted with the same MEMBER_FAILED, and no further ABORT is sent. -/
def execAbort (p : PackPkt) (s : State) : Host.Outcome State Fault Refusal :=
  onChip s (fun c =>
    let c := c.takeDelivered 7 p
    match c.packFrom p with
    | none => c
    | some (i, _) =>
      if !c.jobRuns i then c
      else (c.notify [i] ncMemberFailed (fieldAt p.data 0 2) (fieldAt p.data 2 4)).abortJob i none)

/-- SPLIT (R311): OFFSET is the row-major offset of the partial in F32, and CSEQ the stream number. -/
def execSplit (p : PackPkt) (s : State) : Host.Outcome State Fault Refusal :=
  onChip s (fun c =>
    let c := c.takeDelivered 8 p
    match c.packFrom p with
    | none => c
    | some (i, m) =>
      if p.gdigest ≠ (c.group p.group).digest || p.kind ≠ 7 then c.failMember i p.group m
      else (c.takeSplit i m c.tc p).packTurn.ctrLimit i)

/-- HANDOFF (R303, R308). -/
def execHandoff (p : PackPkt) (s : State) : Host.Outcome State Fault Refusal :=
  onChip s (fun c =>
    let c := c.takeDelivered 9 p
    match c.packFrom p with
    | none => c
    | some (i, m) => (c.takeHandoff i m p).ctrLimit i)

/-! The end of a collective (R297, R298, R314). -/

/-- Bytes of results or moved data that this device has from member m, itself among them, when all are here (R302, R303). The
ranges that the root of a BROADCAST receives repeat bytes that it holds. -/
def Coll.dueFrom (x : Coll) (n me m : Nat) : Nat :=
  let size := fun k => (cRange x.desc n k).2
  let root := cRoot x.desc
  if x.kind ≠ 3 then runBytes (cRuns x.desc n x.counts m me)
  else if m = me then (if me = root then cCount x.desc else 0)
  else if m = root then size me + size m
  else size m

/-- The whole output has landed, and what this device owes is sent and acknowledged (R298). -/
def Chip.collOver (c : Chip) (i g : Nat) (x : Coll) : Bool :=
  let n := c.groupSize g
  let me := c.selfOf g
  let landed := x.held.isEmpty && (x.got.map (·.2)).sum = cNeed x.desc n me x.counts
  let sums := 1 < x.kind || (x.summed && (c.others g).all (fun h => countOf x.sent h = c.leafChunks i x.desc n h))
  x.active && sums && !c.unacked (collMark g x.cseq) &&
    (if x.kind = 4 then x.barrier.any (·.done)
     else if x.kind = 6 then x.summed && landed
     else if x.kind = 7 then landed && x.out.all (fun o => o.sent = .accepted || o.sent = .released)
     else if x.kind = 3 then x.held.isEmpty && (List.range n).all (fun m => countOf x.got m = x.dueFrom n me m)
     else landed)

/-- COLL_COMPLETE (R297, R298, R314). -/
def execCollComplete (g : Nat) (s : State) : Host.Outcome State Fault Refusal :=
  onChip s (fun c =>
    let e := c.group g
    match e.owner, e.colls.find? (fun x => x.cseq = e.next) with
    | some i, some x =>
      let c := c.landHeld i g x
      match c.coll g x.cseq with
      | none => c
      | some x =>
        if c.collOver i g x then ((c.dropColl g x).trailed g x.entries x.began).packTurn.ctrLimit i else c
    | _, _ => c)

/-! The group timeout (R315). -/

/-- The token of the round that this device is in comes from member m (R305). -/
def Barrier.awaits (b : Barrier) (n me m : Nat) : Bool := !b.done && m = (me + n - 2 ^ b.round % n) % n

/-- Member m owes a running collective something (R315): leaf data, credits or results, the token of the round, its count or
its block, moved data. The rows of a split stream are owed by every member until they have landed (DEDUCED, log 96). -/
def Chip.owes (c : Chip) (i g : Nat) (x : Coll) (m : Nat) : Bool :=
  let n := c.groupSize g
  let me := c.selfOf g
  if x.kind = 4 then x.barrier.any (·.awaits n me m)
  else if x.kind = 6 then
    x.counts.all (·.1 ≠ m) || (x.got.isEmpty && !(x.pieces.any (·.1 = m) && x.pieceBytes m = countOf x.counts m))
  else if x.kind = 7 then (x.got.map (·.2)).sum < cNeed x.desc n me [] || x.out.any (fun o => o.dest = m && o.sent = .sent)
  else if x.kind ≤ 1 && ((!x.summed && x.pieceBytes m < leafBytes x.desc n me) ||
      countOf x.credits m < c.leafChunks i x.desc n m) then true
  else countOf x.got m < x.dueFrom n me m

/-- This device waits in a collective of group g, or in the vote or flip barrier, for something that member m owes it. -/
def Chip.waitsFor (c : Chip) (i g m : Nat) : Bool :=
  m < c.groupSize g && m ≠ c.selfOf g &&
    ((c.group g).colls.any (fun x => x.active && c.owes i g x m) ||
      ((c.job i).group = g && (c.job i).barrier.any (·.awaits (c.groupSize g) (c.selfOf g) m)))

/-- GROUP_TIMEOUT (R22, R315). -/
def execGroupTimeout (g m : Nat) (s : State) : Host.Outcome State Fault Refusal :=
  onChip s (fun c =>
    match (c.group g).owner with
    | some i => if c.jobRuns i && c.waitsFor i g m then c.failMember i g m else c
    | none => c)

/-! Groups (R288 to R291). -/

/-- Member entries of the list store in use (R288). -/
def Chip.listUsed (c : Chip) : Nat := (c.groups.map (fun e => e.2.members.length)).sum

/-- The entry is in use (R290). -/
def Chip.groupInUse (c : Chip) (i g : Nat) : Bool :=
  !(c.group g).colls.isEmpty || (c.jobRuns i && (c.job i).group = g) ||
    (c.inst i).tables.any (fun t => bits t.block.toNat 105 96 = g) ||
    (c.inst i).bobjs.any (fun b => b.f 330 330 = 0 && b.f 329 320 = g)

/-- The GROUP_SET block with TIMEOUT taken as 0, then the list (R291). -/
def groupDigest (p : Icp) (list : List Byte) : Word :=
  BitVec.ofNat 32 (crc32c (splice (padTo 32 p.params) 20 [0, 0] ++ list))

/-- GROUP_SET (R289 to R291, R313). -/
def execGroupSet (p : Icp) (s : State) : Host.Outcome State Fault Refusal :=
  icp 0x60 p s (fun c p =>
    let i := p.who
    let g := p.bits 9 0
    let n := p.bits 144 128
    let split := p.bits 16 16 = 1
    let a := p.bits 255 192
    if n = 0 || 65536 < n || (split && 8 < n) then badParam 16
    else match c.check i a (2 * n) with
      | .fault k => .refuse stAddrFault k
      | .ok o =>
        if c.cmdHeld i o a (2 * n) false then .wait else
        let e := c.group g
        let bs := c.frontRead i o a (2 * n)
        let ms := (List.range n).map (fun k => BitVec.ofNat 16 (fieldAt bs (2 * k) 2))
        if ms.eraseDups.length < n then badParam 24
        else if e.owner.isSome && e.owner ≠ some i then .refuse stNotPermitted 0
        else if e.owner = some i && c.groupInUse i g then c.badState p
        else if 4194304 < c.listUsed - e.members.length + n then .refuse stNoSpace 0
        else
          let t := p.bits 175 160
          let new : Group := { Group.initial with
            owner := some i, members := ms, digest := groupDigest p bs, timeout := if t = 0 then 2000 else t, split := split }
          .done 0 [] ((c.readMarks i o a (2 * n)).setGroup g new))

/-- GROUP_CLEAR (R290). -/
def execGroupClear (p : Icp) (s : State) : Host.Outcome State Fault Refusal :=
  icp 0x61 p s (fun c p =>
    let i := p.who
    let g := p.par 0 2
    if (c.group g).owner ≠ some i then .refuse stNoObject 0
    else if c.groupInUse i g then c.badState p
    else .done 0 [] (c.onGroup g Group.unset))

end Sys2Proof.Machine
end

