-- ==== Sys2Proof/Machine/Matrix.lean ====
section
/-! DEFINITION. The matrix unit: MATMUL, MATMUL_BT and MATMUL_SPLIT (R102 to R106, R135, R310, R311). -/

namespace Sys2Proof.Machine

/-! Fields of the matrix body (table "Matrix body"). -/
def mLdc (d : Desc) : Nat := 64 * dbits d 431 416
def mLdb (d : Desc) : Nat := 64 * dbits d 415 400
def mLda (d : Desc) : Nat := 64 * dbits d 399 384
def mFmtC (d : Desc) : Nat := dbits d 383 380
def mAcc (d : Desc) : Bool := dbit d 376
def mFmtA (d : Desc) : Nat := dbits d 375 372
def mFmtB (d : Desc) : Nat := dbits d 371 368
def mK (d : Desc) : Nat := dbits d 367 352
def mN (d : Desc) : Nat := dbits d 351 336
def mM (d : Desc) : Nat := dbits d 335 320
/-- SB and SA: present, and the offset of the scale set. -/
def mHasSb (d : Desc) : Bool := dbit d 319
def mSb (d : Desc) : Nat := dbits d 307 288
def mHasSa (d : Desc) : Bool := dbit d 287
def mSa (d : Desc) : Nat := dbits d 275 256
def mA (d : Desc) : RefBits := dRef d 0
def mB (d : Desc) : RefBits := dRef d 1
def mC (d : Desc) : RefBits := dRef d 2
def mBt (d : Desc) : Bool := dOp d = 0x11
def mSplit (d : Desc) : Bool := dOp d = 0x12

/-! The stream word (R310). -/
def swStream (r : RefBits) : Nat := bits r 61 56
def swRow (r : RefBits) : Nat := bits r 31 16
def swCol (r : RefBits) : Nat := bits r 15 0

/-- Rate group of a format: its block length kb (table "Matrix rate groups"). -/
def Fmt.kb : Fmt → Nat
  | .e2m1 | .i4 => 64
  | .e5m2 | .e4m3 | .i8 | .a8 => 32
  | .f16 | .bf16 | .b4 => 16
  | .f32 | .i32 => 4

/-- Formats of the matrix operands (table "Format codes"). -/
def mFormats (d : Desc) : Option (Fmt × Fmt) :=
  if 9 < mFmtA d || 9 < mFmtB d || mFmtB d = 8 then none
  else match Fmt.ofCode (mFmtA d), Fmt.ofCode (mFmtB d) with
    | some a, some b => some (a, b)
    | _, _ => none

/-- Bytes that rows of `len` bytes at a stride take, from the first. -/
def spanOf (rows stride len : Nat) : Nat := if rows = 0 then 0 else (rows - 1) * stride + len

/-- Bytes of A, B, C, SA and SB. -/
def mSpans (d : Desc) (a b : Fmt) : Nat × Nat × Nat × Nat × Nat :=
  let m := mM d
  let n := mN d
  let k := mK d
  (spanOf m (mLda d) (a.lineBytes k),
   if mBt d then spanOf n (mLdb d) (b.lineBytes k) else spanOf k (mLdb d) (b.lineBytes n),
   spanOf m (mLdc d) (4 * n),
   scaleSetBytes m (groupLines (a.lineBytes k)),
   scaleSetBytes n (groupLines (b.lineBytes k)))

/-- A range leaves the tile store (R96). -/
def offStore (r : RefBits) (n : Nat) : Bool := storeBytes < refOff r + n

/-- A reference in SPACE 01b names a tile outside the instance (R96, R98). -/
def Chip.foreign (c : Chip) (i : Nat) (r : RefBits) : Bool := refSpace r = 1 && !c.ownsTile i (refTile r)

/-- The header of a unit's descriptor breaks R97: reserved bits, CH outside the classes that use it (DEDUCED, log 43). -/
def headRsv (d : Desc) : Bool :=
  dbits d 40 35 ≠ 0 || dbits d 30 9 ≠ 0 ||
    (dCh d ≠ 0 && (match opClass (dOp d) with | some .move => false | some .exchange => false | _ => true))

/-- Faults of a matrix descriptor (R8, R96, R99, R102, R104, R135, R310), in an order of the model's (DESIGN CHOICE,
log 95). -/
def Chip.mFault (c : Chip) (i : Nat) (d : Desc) : Option Nat :=
  let local' := fun r => refSpace r = 0
  let f := (mFormats d).getD (.f32, .f32)
  let ints := f.1.isInt && f.2.isInt
  let scaled := mHasSa d || mHasSb d
  let sp := mSpans d f.1 f.2
  firstFault
    [(dbits d 511 432 ≠ 0 || dbits d 379 377 ≠ 0 || dbits d 318 308 ≠ 0 || dbits d 286 276 ≠ 0 ||
        refRsv (mA d) || refRsv (mB d) || (if mSplit d then bits (mC d) 55 32 ≠ 0 else refRsv (mC d)), caRsvField),
     (c.foreign i (mA d) || c.foreign i (mB d) || (!mSplit d && c.foreign i (mC d)), caForeignTile),
     (!local' (mA d) || !local' (mB d) || (if mSplit d then !refNone (mC d) else !local' (mC d)), caBadSpace),
     ((mFormats d).isNone || !(mFmtC d = 0 || mFmtC d = 10) || (mFmtA d = 8 && !mHasSa d), caBadFormat),
     (f.1.isInt != f.2.isInt, caFormatMix),
     (mFmtC d ≠ (if ints && !scaled then 10 else 0) || (mSplit d && mFmtC d ≠ 0), caBadFormat),
     (mM d = 0 || mN d = 0 || mK d = 0 || (mSplit d && mAcc d), caBadShape),
     (refOff (mA d) % 64 ≠ 0 || refOff (mB d) % 64 ≠ 0 || (!mSplit d && refOff (mC d) % 64 ≠ 0) ||
        (mHasSa d && mSa d % 64 ≠ 0) || (mHasSb d && mSb d % 64 ≠ 0), caAlign),
     (offStore (mA d) sp.1 || offStore (mB d) sp.2.1 || (!mSplit d && offStore (mC d) sp.2.2.1) ||
        (mHasSa d && storeBytes < mSa d + sp.2.2.2.1) || (mHasSb d && storeBytes < mSb d + sp.2.2.2.2), caStoreRange)]

/-! The sums (R103 to R105). -/

/-- Codes of the rows of an operand. -/
def rowCodes (f : Fmt) (bs : List Byte) (rows stride len : Nat) : List (List Nat) :=
  (List.range rows).map (fun r => f.unpack len (bs.drop (r * stride)))

/-- Column k of rows of codes. -/
def colCodes (rows : List (List Nat)) (k : Nat) : List Nat := rows.map (fun r => r.getD k 0)

/-- a(x) of R103. -/
def actValue (f : Fmt) (z code : Nat) : Num := if f = .a8 then (f.decode code).sub (Num.ofInt z) else f.decode code

/-- Exact sum of products and an accumulator. -/
def dotExact (acc : Num) (xs ys : List Num) : Num := (List.zipWith Num.mul xs ys).foldl Num.add acc

/-- The floating sum in blocks of kb, rounded once per block, and the saturations (R105). -/
def dotBlocks (kb : Nat) : Nat → Num → Nat → List Num → List Num → Num × Nat
  | 0, acc, n, _, _ => (acc, n)
  | fuel + 1, acc, n, xs, ys =>
    if xs.isEmpty then (acc, n)
    else
      let r := (dotExact acc (xs.take kb) (ys.take kb)).toF32
      dotBlocks kb fuel r.1 (n + bit r.2) (xs.drop kb) (ys.drop kb)

/-- One element of C: its 32 bits, NaNs and saturations (R103 to R105, R122); those of an I32 result count apart. -/
def matElem (a b : Fmt) (acc : Bool) (sa sb : Option Num) (old : Word) (xs ys : List Num) : Word × Nat × Nat :=
  let ints := a.isInt && b.isInt
  if ints && sa.isNone && sb.isNone then
    let sum := (dotExact Num.zero xs ys).toIntRound + (if acc then old.toInt else 0)
    let r := clampInt (-2147483648) 2147483647 sum
    (BitVec.ofInt 32 r.1, 0, bit r.2)
  else
    let kb := Nat.min a.kb b.kb
    let s := if ints then
        let r := (dotExact Num.zero xs ys).toF32
        (r.1, bit r.2)
      else dotBlocks kb (xs.length + 1) Num.zero 0 xs ys
    let mulBy := fun (v : Num × Nat) (m : Option Num) => match m with
      | none => v
      | some k =>
        let r := (v.1.mul k).toF32
        (r.1, v.2 + bit r.2)
    let v := mulBy (mulBy s sa) sb
    let w := if acc then
        let r := (v.1.add (f32 old)).toF32
        (r.1, v.2 + bit r.2)
      else v
    (w.1.f32Bits, bit w.1.isNan, w.2)

/-- The result C of a matrix descriptor, row by row, read from tile t's store: words, NaNs and saturations. -/
def Chip.matResult (c : Chip) (t : Nat) (d : Desc) (a b : Fmt) : List (List Word) × Nat × Nat :=
  let m := mM d
  let n := mN d
  let k := mK d
  let sp := mSpans d a b
  let sa := if mHasSa d then readScales (c.storeRead t (mSa d) sp.2.2.2.1) m (groupLines (a.lineBytes k)) else []
  let sb := if mHasSb d then readScales (c.storeRead t (mSb d) sp.2.2.2.2) n (groupLines (b.lineBytes k)) else []
  let ar := rowCodes a (c.storeRead t (refOff (mA d)) sp.1) m (mLda d) k
  let bBytes := c.storeRead t (refOff (mB d)) sp.2.1
  let cols := if mBt d then rowCodes b bBytes n (mLdb d) k
    else
      let rows := rowCodes b bBytes k (mLdb d) n
      (List.range n).map (colCodes rows)
  let bn := cols.map (fun l => l.map b.decode)
  let old := if mAcc d then c.storeRead t (refOff (mC d)) sp.2.2.1 else []
  let rows := ar.mapIdx (fun r codes =>
    let z := ((sa[r]?).map (·.2)).getD 0
    let xs := codes.map (actValue a z)
    bn.mapIdx (fun j ys =>
      matElem a b (mAcc d) ((sa[r]?).map (·.1)) ((sb[j]?).map (·.1)) (BitVec.ofNat 32 (fieldAt old (r * mLdc d + 4 * j) 4)) xs ys))
  let all := rows.flatMap id
  (rows.map (fun r => r.map (·.1)), (all.map (·.2.1)).sum, (all.map (·.2.2)).sum)

/-- A word of F32 is a NaN or an infinity. -/
def wordNonFinite (w : Word) : Bool := w.extractLsb' 23 8 = 0xFF

/-- MATMUL and MATMUL_BT at the matrix unit (R102 to R105). -/
def Chip.opMatmul (c : Chip) (i t : Nat) (d : Desc) : Ran :=
  Ran.unless (c.mFault i d) (fun _ =>
    match mFormats d with
    | none => .fault caBadFormat
    | some (a, b) =>
      let r := c.matResult t d a b
      let c := if mFmtC d = 10 then c.count i 7 r.2.2 else c.countConv i r.2.1 r.2.2
      let bytes := r.1.map (fun ws => ws.flatMap (fun w => leBytes 4 w.toNat))
      let c := (List.range bytes.length).foldl (fun (c : Chip) k =>
        c.storeWrite t (refOff (mC d) + k * mLdc d) (bytes.getD k [])) c
      .done (if dGrad d && mFmtC d = 0 && r.1.any (·.any wordNonFinite) then c.setVote i else c))

/-- The group of instance i in which a split stream is open: the least (DEDUCED, log 42). -/
def Chip.streamGroup (c : Chip) (i stream : Nat) : Option Nat :=
  (List.range 1024).find? (fun g => (c.group g).owner = some i && (c.splitStream g stream).isSome)

/-- The open stream that a stream word names (R310). -/
def Chip.streamOf (c : Chip) (i : Nat) (r : RefBits) : Option (Nat × Coll) :=
  (c.streamGroup i (swStream r)).bind (fun g => (c.splitStream g (swStream r)).map (fun x => (g, x)))

/-- The block rows of a MATMUL_SPLIT: row and column of the stream. -/
def splitBlocks (d : Desc) : List (Nat × Nat) :=
  (List.range (mM d)).flatMap (fun r => (List.range (mN d / 32)).map (fun k => (swRow (mC d) + r, swCol (mC d) + 32 * k)))

/-- The block rows of a MATMUL_SPLIT's product, each for its reducer (R311). -/
def partsOut (d : Desc) (stream : Desc) (n : Nat) (rows : List (List Word)) : List SplitOut :=
  (List.range (mM d)).flatMap (fun r => (List.range (mN d / 32)).map (fun k =>
    let row := swRow (mC d) + r
    { dest := reducer stream n row, row := row, col := swCol (mC d) + 32 * k,
      vals := ((rows.getD r []).drop (32 * k)).take 32, sent := .waiting }))

/-- MATMUL_SPLIT at the matrix unit (R310, R311): its block rows go to their reducers as these have room. One that this device
has sent before faults it and is discarded. -/
def Chip.opMatmulSplit (c : Chip) (i t : Nat) (d : Desc) : Ran :=
  Ran.unless (c.mFault i d) (fun _ =>
    match mFormats d, c.streamOf i (mC d) with
    | some (a, b), some (g, x) =>
      if swCol (mC d) % 32 ≠ 0 || mN d % 32 ≠ 0 || cCount x.desc / 65536 < swRow (mC d) + mM d ||
          cCount x.desc % 65536 < swCol (mC d) + mN d then .fault caBadShape
      else
        let known := fun (o : SplitOut) => x.out.any (fun q => q.row = o.row && q.col = o.col)
        let r := c.matResult t d a b
        let parts := partsOut d x.desc (c.groupSize g) r.1
        let c := c.countConv i r.2.1 r.2.2
        let c := (c.onColl g x.cseq (fun x => { x with out := x.out ++ parts.filter (fun o => !known o) })).packTurn.ctrLimit i
        let c := if dGrad d && r.1.any (·.any wordNonFinite) then c.setVote i else c
        if parts.any known then .gone ((c.fault t (c.headSlot t 0) caBadShape).popUnit t 0) else .done c
    | _, _ => .fault caBadShape)

/-- A MATMUL_SPLIT's partials are not all accepted by their reducers yet (R310). -/
def Chip.splitPending (c : Chip) (i : Nat) (d : Desc) : Bool :=
  match c.streamOf i (mC d) with
  | none => false
  | some (_, x) => x.out.any (fun o => (splitBlocks d).contains (o.row, o.col) && (o.sent = .waiting || o.sent = .sent))

end Sys2Proof.Machine
end

