-- ==== Sys2Proof/Machine/Vector.lean ====
section
/-! DEFINITION. The vector unit: the vector operations (R107 to R112), the random generators (R123 to R125), SCALE_PASS, CVT
and CVT_GRAD (R130 to R133, R137 to R139, R146). -/

namespace Sys2Proof.Machine

/-! Fields of the vector and convert body. -/
def vImm (d : Desc) : Word := BitVec.ofNat 32 (dbits d 447 416)
def vRowlen (d : Desc) : Nat := dbits d 415 400
def vOut (d : Desc) : Nat := dbits d 383 380
def vIn (d : Desc) : Nat := dbits d 379 376
def vBimm (d : Desc) : Bool := dbit d 368
def vCount (d : Desc) : Nat := dbits d 351 320
def vA (d : Desc) : RefBits := dRef d 0
def vB (d : Desc) : RefBits := dRef d 1
def vD (d : Desc) : RefBits := dRef d 2
def vC (d : Desc) : RefBits := dbits d 319 256

/-- B takes part: two-operand operations and VFMA, VSELECT (R107). -/
def vHasB (op : Nat) : Bool := (0x20 ≤ op && op ≤ 0x25) || op = 0x2A
def vHasC (op : Nat) : Bool := op = 0x23 || op = 0x2A
/-- Row operations (R100). -/
def vRowOp (op : Nat) : Bool := 0x32 ≤ op && op ≤ 0x34
/-- VRAND and VRAND_BITS. -/
def vRandom (op : Nat) : Bool := op = 0x35 || op = 0x36

/-- The references that an operation uses: A, B, C, D (R107, R130, R137). -/
def vUses (d : Desc) : List (Bool × RefBits) :=
  let op := dOp d
  if op = 0x41 then [(true, vA d), (true, vB d), (false, vC d), (false, vD d)]
  else if op = 0x42 then [(true, vA d), (true, vB d), (true, vC d), (true, vD d)]
  else if op = 0x40 then [(true, vA d), (!refNone (vB d), vB d), (false, vC d), (true, vD d)]
  else [(!vRandom op, vA d), (vHasB op && !vBimm d, vB d), (vHasC op, vC d), (true, vD d)]

/-- The formats admitted (R99, R107, R130, R133, R137). -/
def vFormatsOk (d : Desc) : Bool :=
  let op := dOp d
  let i := vIn d
  let o := vOut d
  let scaled := fun (k : Nat) => 3 ≤ k && k ≤ 9
  if op = 0x41 then i ≤ 2 && scaled o
  else if op = 0x42 then (i = 0 || i = 2) && o = 4
  else if op = 0x40 then
    i ≤ 10 && o ≤ 9 && (if refNone (vB d) then i ≠ 8 && o ≠ 8 else scaled i != scaled o)
  else if op = 0x35 then i = 0 && o = 0
  else i ≤ 2 && o ≤ 2

def fmtOf (k : Nat) : Fmt := (Fmt.ofCode k).getD .f32

/-- Lines and their length: a descriptor without rows is one line. -/
def vLen (d : Desc) : Nat := if vRowlen d = 0 then vCount d else vRowlen d
def vLines (d : Desc) : Nat := vCount d / max 1 (vLen d)

/-- Bytes of COUNT elements in lines (R120). -/
def vBytes (d : Desc) (f : Fmt) : Nat := vLines d * f.lineBytes (vLen d)

/-- The scaled format of a convert descriptor. -/
def vScaled (d : Desc) : Fmt := if (fmtOf (vOut d)).scaled then fmtOf (vOut d) else fmtOf (vIn d)

def vGroup (d : Desc) : Nat := groupLines ((vScaled d).lineBytes (vLen d))
def vSetBytes (d : Desc) : Nat := scaleSetBytes (vLines d) (vGroup d)

/-- Bytes at A, B, C and D. -/
def vSizes (d : Desc) : Nat × Nat × Nat × Nat :=
  let op := dOp d
  let n := vCount d
  let i := fmtOf (vIn d)
  let o := fmtOf (vOut d)
  if 0x40 ≤ op then (vBytes d i, vSetBytes d, 2 * n, vBytes d o)
  else if vRowOp op then (i.lineBytes n, 0, 0, o.lineBytes (vLines d))
  else if op = 0x36 then (0, 0, 0, 4 * n)
  else (i.lineBytes n, i.lineBytes n, i.lineBytes n, o.lineBytes n)

/-- Faults of a vector or convert descriptor (R8, R96, R107, R128, R130, R133, R137). Fields that an operation does not
use must be 0 or none (DEDUCED, log 91). The order in which causes are reported is the model's (DESIGN CHOICE, log 95). -/
def Chip.vFault (c : Chip) (i : Nat) (d : Desc) : Option Nat :=
  let op := dOp d
  let uses := vUses d
  let rows := vRowOp op || op = 0x41 || op = 0x42 || (op = 0x40 && !refNone (vB d))
  let sz := vSizes d
  firstFault
    [(dbits d 511 448 ≠ 0 || dbits d 399 384 ≠ 0 || dbits d 375 369 ≠ 0 || dbits d 367 352 ≠ 0 ||
        uses.any (fun u => refRsv u.2), caRsvField),
     (uses.any (fun u => c.foreign i u.2), caForeignTile),
     (uses.any (fun u => if u.1 then refSpace u.2 ≠ 0 else !refNone u.2) || (vBimm d && !vHasB op), caBadSpace),
     (!vFormatsOk d, caBadFormat),
     (vCount d = 0 || 16777216 < vCount d || (rows && vRowlen d = 0) ||
        (vRowlen d ≠ 0 && !(rows || op = 0x40)) || (vRowlen d ≠ 0 && vCount d % vRowlen d ≠ 0), caBadShape),
     (0x40 ≤ op && !refNone (vB d) && refOff (vB d) % 64 ≠ 0, caAlign),
     (((uses.zip [sz.1, sz.2.1, sz.2.2.1, sz.2.2.2])).any (fun u => u.1.1 && offStore u.1.2 u.2), caStoreRange)]

/-! The operations (R100, R108, R109). -/

/-- One element in F32: the value and whether its rounding saturated. -/
def vElem (op : Nat) (imm a b c : Word) : Num × Bool :=
  let x := f32 a
  let y := f32 b
  let z := f32 c
  if op = 0x20 then (x.add y).toF32
  else if op = 0x21 then (x.sub y).toF32
  else if op = 0x22 then (x.mul y).toF32
  else if op = 0x23 then ((x.mul y).add z).toF32
  else if op = 0x24 then (x.max y, false)
  else if op = 0x25 then (x.min y, false)
  else if op = 0x26 then (x.neg, false)
  else if op = 0x27 then (x.abs, false)
  else if op = 0x28 then (x.max Num.zero, false)
  else if op = 0x29 then ((x.max (f32 imm).neg).min (f32 imm), false)
  else if op = 0x2A then (if z.isNan || z.signed then y else x, false)
  else quarterOp op a

/-- The words of an input as F32 bits. -/
def toWords (f : Fmt) (n : Nat) (bs : List Byte) : List Word := (f.unpack n bs).map (fun k => (f.decode k).f32Bits)

/-- Values with the saturations behind them, written in a format: bytes, NaNs, saturations, and whether a value written is
not finite. -/
structure VOut where
  bytes : List Byte
  nans : Nat
  sats : Nat
  odd : Bool

def vOutOf (f : Fmt) (xs : List (Num × Nat)) : VOut :=
  let cs := xs.map (fun x => f.convert x.1)
  let n := cvCounts cs
  { bytes := f.pack (cs.map (·.code)), nans := n.1, sats := n.2 + (xs.map (·.2)).sum,
    odd := cs.any (fun k => !(f.decode k.code).isFinite) }

/-- Write the output of a descriptor at D: counts (R122) and the vote flag where GRAD is set (R97). -/
def Chip.vWrite (c : Chip) (i t : Nat) (d : Desc) (o : VOut) : Chip :=
  let c := (c.storeWrite t (refOff (vD d)) o.bytes).countConv i o.nans o.sats
  if dGrad d && o.odd then c.setVote i else c

/-- VADD to VGELU at the vector unit (R107 to R109). -/
def Chip.opVector (c : Chip) (i t : Nat) (d : Desc) : Ran :=
  Ran.unless (c.vFault i d) (fun _ =>
    let n := vCount d
    let f := fmtOf (vIn d)
    let input := fun (r : RefBits) => toWords f n (c.storeRead t (refOff r) (f.lineBytes n))
    let a := input (vA d)
    let b := if vHasB (dOp d) && !vBimm d then input (vB d) else List.replicate n (vImm d)
    let e := if vHasC (dOp d) then input (vC d) else List.replicate n 0
    let out := List.zipWith (fun a be => vElem (dOp d) (vImm d) a be.1 be.2) a (List.zip b e)
    .done (c.vWrite i t d (vOutOf (fmtOf (vOut d)) (out.map (fun r => (r.1, bit r.2))))))

/-- One row reduced (R109, R110): the value, and the saturations on the way. -/
def vReduce (op : Nat) (xs : List Num) : Num × Nat :=
  let xs := if op = 0x34 then xs.map Num.abs else xs
  let f := fun (a b : Num × Nat) =>
    if op = 0x32 then
      let r := (a.1.add b.1).toF32
      (r.1, a.2 + b.2 + bit r.2)
    else (a.1.max b.1, 0)
  (reduceRow f (xs.map (fun x => (x, 0)))).getD (Num.zero, 0)

/-- VSUM_ROW, VMAX_ROW and VAMAX_ROW at the vector unit (R109, R110). -/
def Chip.opReduce (c : Chip) (i t : Nat) (d : Desc) : Ran :=
  Ran.unless (c.vFault i d) (fun _ =>
    let n := vCount d
    let f := fmtOf (vIn d)
    let xs := (f.unpack n (c.storeRead t (refOff (vA d)) (f.lineBytes n))).map f.decode
    .done (c.vWrite i t d (vOutOf (fmtOf (vOut d)) ((chunks (vRowlen d) n xs).map (vReduce (dOp d))))))

/-! The random generators (R123 to R125). -/

/-- One advance of a generator (R123). -/
def rngNext (s : Word × Word × Word × Word) : Word × Word × Word × Word :=
  let t := s.1 ^^^ (s.1 <<< 11)
  (s.2.1, s.2.2.1, s.2.2.2, s.2.2.2 ^^^ (s.2.2.2 >>> 19) ^^^ t ^^^ (t >>> 8))

def rngAfter : Nat → Word × Word × Word × Word → Word × Word × Word × Word
  | 0, s => s
  | n + 1, s => rngAfter n (rngNext s)

/-- The state that lane l of tile t loads (R125). -/
def rngLoad (seed : Double) (t l : Nat) : Word × Word × Word × Word :=
  (seed.extractLsb' 0 32, seed.extractLsb' 32 32, BitVec.ofNat 32 (64 * t + l), 0x6A09E667)

/-- The state of lane l's generator in tile t at a tc: it has advanced once in every tc since its load (R123, R125). -/
def Chip.rngAt (c : Chip) (t l tc : Nat) : Word × Word × Word × Word :=
  rngAfter (tc - (c.tile t).seededAt) (rngLoad (c.tile t).seed t l)

/-- The output of lane l of tile t in a tc: d after that tc's advance (R123). -/
def Chip.rngOut (c : Chip) (t l tc : Nat) : Word := (c.rngAt t l tc).2.2.2

/-- VRAND and VRAND_BITS at the vector unit (R112, R124): lane l computes its elements one per tc. The tc of the first
element is free, after the present one and after every output drawn before (log 44). -/
def Chip.opRandom (c : Chip) (i t : Nat) (d : Desc) : Ran :=
  Ran.unless (c.vFault i d) (fun _ =>
    let first := max (c.tc + 1) (c.tile t).drawnTo + c.freeNow
    let ws := (List.range (vCount d)).map (fun j => c.rngOut t (j % 64) (first + j / 64))
    let c := c.drew.onTile t (fun k => { k with drawnTo := first + divUp (vCount d) 64 })
    if dOp d = 0x36 then .done (c.storeWrite t (refOff (vD d)) (ws.flatMap (fun w => leBytes 4 w.toNat)))
    else .done (c.vWrite i t d (vOutOf .f32 (ws.map (fun w => (Num.fin false (w.toNat / 256) 1 (-24), 0))))))

/-! Convert descriptors. -/

/-- The codes of every line of an input. -/
def vInput (d : Desc) (bs : List Byte) : List (List Nat) :=
  let f := fmtOf (vIn d)
  rowCodes f bs (vLines d) (f.lineBytes (vLen d)) (vLen d)

/-- Converted lines as an output. -/
def cvOut (f : Fmt) (lines : List (List Cv)) : VOut :=
  let n := cvCounts (lines.flatMap id)
  { bytes := lines.flatMap (fun l => f.pack (l.map (·.code))), nans := n.1, sats := n.2,
    odd := lines.any (·.any (fun k => !(f.decode k.code).isFinite)) }

/-- CVT at the vector unit (R121, R133). -/
def Chip.opCvt (c : Chip) (i t : Nat) (d : Desc) : Ran :=
  Ran.unless (c.vFault i d) (fun _ =>
    let f := fmtOf (vIn d)
    let g := fmtOf (vOut d)
    let lines := vInput d (c.storeRead t (refOff (vA d)) (vBytes d f))
    let out :=
      if refNone (vB d) then lines.map (fun l => l.map (fun k => g.convert (f.decode k)))
      else
        let set := readScales (c.storeRead t (refOff (vB d)) (vSetBytes d)) (vLines d) (vGroup d)
        List.zipWith (fun l s => l.map (fun k =>
          if g.scaled then quantise g s.1 s.2 (f.decode k) else dequantise f g s.1 s.2 k)) lines set
    .done (c.vWrite i t d (cvOut g out)))

/-- SCALE_PASS at the vector unit (R130 to R132). -/
def Chip.opScalePass (c : Chip) (i t : Nat) (d : Desc) : Ran :=
  Ran.unless (c.vFault i d) (fun _ =>
    let f := fmtOf (vIn d)
    let lines := (vInput d (c.storeRead t (refOff (vA d)) (vBytes d f))).map (fun l => l.map f.decode)
    .done (c.storeWrite t (refOff (vB d)) (scalePass (fmtOf (vOut d)) lines (vGroup d))))

/-- What CVT_GRAD makes of one element (R138, R139): the code, the new error term, and whether it was flushed. -/
structure GradOut where
  cv : Cv
  term : Nat
  flushed : Bool

def gradElem (l : Nat) (s : Num) (bad : Bool) (v : Num) : GradOut :=
  let q := Fmt.e4m3.convert (v.div s)
  let back := (v.sub ((Fmt.e4m3.decode q.code).mul s)).mul (Num.pow2 (-(l : Int)))
  { cv := q, term := if bad then 0 else (Fmt.bf16.convert back).code, flushed := !v.isZero && q.code % 128 = 0 }

/-- CVT_GRAD at the vector unit (R137 to R139, R146), with the loss-scale exponent l of its issue. -/
def Chip.opCvtGrad (c : Chip) (i t l : Nat) (d : Desc) : Ran :=
  Ran.unless (c.vFault i d) (fun _ =>
    let f := fmtOf (vIn d)
    let a := (vInput d (c.storeRead t (refOff (vA d)) (vBytes d f))).map (fun r => r.map f.decode)
    let e := rowCodes .bf16 (c.storeRead t (refOff (vC d)) (2 * vCount d)) (vLines d) (2 * vLen d) (vLen d)
    let e := e.map (fun r => r.map Fmt.bf16.decode)
    let sums := List.zipWith (List.zipWith (fun x y => (x.add (y.mul (Num.pow2 l))).toF32)) a e
    let bad := List.zipWith (List.zipWith (fun (x y : Num) => !x.isFinite || !y.isFinite)) a e
    let v := sums.map (fun r => r.map (·.1))
    let set := scalePass .e4m3 v (vGroup d)
    let scales := (readScales set (vLines d) (vGroup d)).map (·.1)
    let out := List.zipWith (fun s r => List.zipWith (gradElem l s) r.1 r.2) scales (List.zip bad v)
    let all := out.flatMap id
    let o := cvOut .e4m3 (out.map (fun r => r.map (·.cv)))
    let sats := o.sats + ((sums.flatMap id).filter (·.2)).length
    let c := c.storeWrite t (refOff (vB d)) set
    let c := c.vWrite i t d { o with sats := sats }
    let c := c.storeWrite t (refOff (vC d)) (all.flatMap (fun g => leBytes 2 g.term))
    let c := (c.count i 11 (vCount d)).count i 12 (all.filter (·.flushed)).length
    .done (if (bad.flatMap id).any id then c.setVote i else c))

end Sys2Proof.Machine
end

