-- ==== Sys2Proof/Machine/Moves.lean ====
section
/-! DEFINITION. The DMA channels: COPY, COPY2D, FILL, GATHER, SCATTER (R100 to R102, R158 to R160) and the stash engine's
STASH_PUT and STASH_GET (R177 to R181). -/

namespace Sys2Proof.Machine

/-! Fields of the move body. -/
def vDstride (d : Desc) : Nat := dbits d 383 352
def vSstride (d : Desc) : Nat := dbits d 351 320
def vRows (d : Desc) : Nat := dbits d 319 288
def vLength (d : Desc) : Nat := dbits d 287 256
def vSrc (d : Desc) : RefBits := dRef d 0
def vDst (d : Desc) : RefBits := dRef d 1
def vIndex (d : Desc) : RefBits := dRef d 2

/-- Why an access of n bytes at an offset from a reference faults, if it does: the offset does not wrap. -/
def Chip.rowFault (c : Chip) (i : Nat) (r : RefBits) (off n : Nat) (write : Bool) : Option Nat :=
  if refSpace r = 2 then
    if 2 ^ 52 ≤ refAddr r + off then some caAddrFault else c.refFault i (refPlus r off) n write
  else if storeBytes < refOff r + off + n then
    (if refSpace r = 1 && !c.ownsTile i (refTile r) then some caForeignTile else some caStoreRange)
  else c.refFault i (refPlus r off) n write

/-- Every row's source and destination checked, and held or not (R160). -/
def Chip.rowsFault (c : Chip) (i : Nat) (d : Desc) (n : Nat) (rows : List (Nat × Nat)) : Option Nat :=
  rows.foldl (fun f r => f.orElse (fun _ =>
    (c.rowFault i (vSrc d) r.1 n false).orElse (fun _ => c.rowFault i (vDst d) r.2 n true))) none

def Chip.rowsHeld (c : Chip) (i : Nat) (d : Desc) (n : Nat) (rows : List (Nat × Nat)) : Bool :=
  rows.any (fun r => c.refHeld i (refPlus (vSrc d) r.1) n false || c.refHeld i (refPlus (vDst d) r.2) n true)

/-- Rows of n bytes moved, given as offsets from SRC and DST: every source is read before the first byte is written (R102),
and rows are written in order. -/
def Chip.moveRows (c : Chip) (i t : Nat) (d : Desc) (n : Nat) (rows : List (Nat × Nat)) : Ran :=
  Ran.unless (c.rowsFault i d n rows) (fun _ =>
    if c.rowsHeld i d n rows then .held
    else
      let data := rows.map (fun r => (r.2, c.refRead i t (refPlus (vSrc d) r.1) n))
      let c := rows.foldl (fun (c : Chip) r => c.refTouch i (refPlus (vSrc d) r.1) n) c
      .done (data.foldl (fun (c : Chip) e => c.refWrite i t (refPlus (vDst d) e.1) e.2) c))

/-- Faults of a move that its bits alone show, and foreign tiles (R8, R96, R98, R102), in an order of the
model's (DESIGN CHOICE, log 95): `index` where INDEX is used. -/
def Chip.moveFault (c : Chip) (i : Nat) (d : Desc) (index rows : Bool) : Option Nat :=
  let fill := dOp d = 0x02
  let refs := (if fill then [] else [vSrc d]) ++ [vDst d, vIndex d]
  firstFault
    [(dbits d 511 384 ≠ 0 || refs.any refRsv || (fill && bits (vSrc d) 61 32 ≠ 0), caRsvField),
     (refs.any (c.foreign i), caForeignTile),
     ((if fill then !refNone (vSrc d) else refNone (vSrc d)) || refNone (vDst d) ||
        (refNone (vIndex d) == index), caBadSpace),
     (vLength d = 0 || (if rows then vRows d = 0 else vRows d ≠ 0), caBadShape),
     (fill && vLength d % 4 ≠ 0, caAlign)]

/-- COPY at its channel (R100, R102). -/
def Chip.opCopy (c : Chip) (i t : Nat) (d : Desc) : Ran :=
  Ran.unless (c.moveFault i d false false) (fun _ => c.moveRows i t d (vLength d) [(0, 0)])

/-- COPY2D at its channel (R100). -/
def Chip.opCopy2d (c : Chip) (i t : Nat) (d : Desc) : Ran :=
  Ran.unless (c.moveFault i d false true) (fun _ =>
    c.moveRows i t d (vLength d) ((List.range (vRows d)).map (fun r => (r * vSstride d, r * vDstride d))))

/-- FILL at its channel (R100, R102). -/
def Chip.opFill (c : Chip) (i t : Nat) (d : Desc) : Ran :=
  Ran.unless (c.moveFault i d false false) (fun _ =>
    Ran.unless (c.refFault i (vDst d) (vLength d) true) (fun _ =>
      if c.refHeld i (vDst d) (vLength d) true then .held
      else .done (c.refWrite i t (vDst d)
        ((List.range (vLength d / 4)).flatMap (fun _ => leBytes 4 (bits (vSrc d) 31 0))))))

/-- The index list of GATHER and SCATTER, which is read first (R160). -/
def Chip.withIndex (c : Chip) (i t : Nat) (d : Desc) (k : Chip → List Nat → Ran) : Ran :=
  let n := 4 * vRows d
  Ran.unless (c.rowFault i (vIndex d) 0 n false) (fun _ =>
    if c.refHeld i (vIndex d) n false then .held
    else
      let bs := c.refRead i t (vIndex d) n
      k (c.refTouch i (vIndex d) n) (unpackWide 4 (vRows d) bs))

/-- GATHER at its channel (R100, R160). -/
def Chip.opGather (c : Chip) (i t : Nat) (d : Desc) : Ran :=
  Ran.unless (c.moveFault i d true true) (fun _ =>
    c.withIndex i t d (fun c idx =>
      c.moveRows i t d (vLength d) (idx.mapIdx (fun r k => (k * vSstride d, r * vDstride d)))))

/-- SCATTER at its channel (R100, R160). -/
def Chip.opScatter (c : Chip) (i t : Nat) (d : Desc) : Ran :=
  Ran.unless (c.moveFault i d true true) (fun _ =>
    c.withIndex i t d (fun c idx =>
      c.moveRows i t d (vLength d) (idx.mapIdx (fun r k => (r * vSstride d, k * vDstride d)))))

/-! The stash engine (R177 to R181). -/

/-- Fields of the stash control word. -/
def swLayer (d : Desc) : Nat := dbits d 383 376
def swDist (d : Desc) : Nat := dbits d 375 372
def swCmp (d : Desc) : Bool := dbit d 368
def swFmt (d : Desc) : Nat := dbits d 367 364

/-- Elements per row on the tile's side. -/
def swElems (d : Desc) : Nat := vLength d * 8 / (fmtOf (swFmt d)).width

/-- Bytes of the codes, and of the whole range in the store (R179). -/
def swCodes (d : Desc) : Nat := 64 * divUp (vRows d * swElems d) 64
def swRange (d : Desc) : Nat :=
  if swCmp d then swCodes d + scaleSetBytes (vRows d) (groupLines (swElems d)) else vRows d * vLength d

/-- The stash object that holds a range whole. -/
def Chip.stashAt (c : Chip) (i a n : Nat) : Option Obj :=
  match c.objAt i a with
  | none => none
  | some o => if o.cls = 4 && a + n ≤ o.addr + o.length then some o else none

/-- Faults of a stash descriptor (R8, R96, R128, R158, R178); `put` for STASH_PUT. -/
def Chip.stashFault (c : Chip) (i : Nat) (d : Desc) (put : Bool) : Option Nat :=
  let tile := if put then vSrc d else vDst d
  let store := if put then vDst d else vSrc d
  let refs := [vSrc d, vDst d, vIndex d]
  let width := if put then spanOf (vRows d) (vSstride d) (vLength d) else vRows d * vLength d
  firstFault
    [(dbits d 511 384 ≠ 0 || refs.any refRsv || dbits d 371 369 ≠ 0 || dbits d 363 352 ≠ 0 ||
        (if put then swDist d ≠ 0 else vSstride d ≠ 0), caRsvField),
     (refs.any (c.foreign i), caForeignTile),
     (refSpace tile ≠ 0 || refSpace store ≠ 2 || !refNone (vIndex d), caBadSpace),
     (2 < swFmt d, caBadFormat),
     (vLength d = 0 || 65535 < vRows d || (put && vRows d = 0), caBadShape),
     (vLength d % 64 ≠ 0 || (swCmp d && refAddr store % 64 ≠ 0), caAlign),
     (offStore tile width, caStoreRange),
     (vRows d ≠ 0 && (c.stashAt i (refAddr store) (swRange d)).isNone, caAddrFault)]

/-- STASH_PUT at its channel (R179 to R181). -/
def Chip.opStashPut (c : Chip) (i t : Nat) (d : Desc) : Ran :=
  Ran.unless (c.stashFault i d true) (fun _ =>
    let a := refAddr (vDst d)
    let rows := (List.range (vRows d)).map (fun r => c.storeRead t (refOff (vSrc d) + r * vSstride d) (vLength d))
    let c :=
      if !swCmp d then c.copyWrite i 0 a (rows.flatMap id)
      else
        let f := fmtOf (swFmt d)
        let n := swElems d
        let lines := rows.map (fun bs => (f.unpack n bs).map f.decode)
        let set := scalePass .e4m3 lines (groupLines n)
        let scales := readScales set (vRows d) (groupLines n)
        let out := List.zipWith (fun l (s : Num × Nat) => l.map (quantise .e4m3 s.1 s.2)) lines scales
        let k := cvCounts (out.flatMap id)
        let codes := out.flatMap (fun l => Fmt.e4m3.pack (l.map (·.code)))
        ((c.copyWrite i 0 a codes).copyWrite i 0 (a + swCodes d) set).countConv i k.1 k.2
    let e : StashEntry := { addr := a, bytes := swRange d, layer := swLayer d, staged := false }
    let c := c.wakeHub 1
    .done (if (c.inst i).stash.length < 4096 then c.onInst i (fun x => { x with stash := x.stash ++ [e] }) else c.count i 9 1))

/-- Staging bytes in use in a stash object (R181). -/
def Chip.staged (c : Chip) (i : Nat) (o : Obj) : Nat :=
  (((c.inst i).stash.filter (fun e => e.staged && o.addr ≤ e.addr && e.addr < o.addr + o.length)).map (·.bytes)).sum

/-- The ranges of a layer copied into staging where they fit whole, else the skip counted (R181). -/
def Chip.stageLayer (c : Chip) (i layer : Nat) : Chip :=
  let mine := fun (e : StashEntry) => e.layer = layer && !e.staged
  let fresh := (c.inst i).stash.filter mine
  let fits := (c.inst i).objs.all (fun o =>
    let need := ((fresh.filter (fun e => o.addr ≤ e.addr && e.addr < o.addr + o.length)).map (·.bytes)).sum
    need = 0 || (o.cls = 4 && c.staged i o + need ≤ o.stage))
  if fresh.isEmpty then c
  else if fits then c.onInst i (fun x => { x with stash := x.stash.map (fun e => if mine e then { e with staged := true } else e) })
  else c.count i 10 1

/-- A byte of the store is staged. -/
def Chip.stagedAt (c : Chip) (i a : Nat) : Bool :=
  (c.inst i).stash.any (fun e => e.staged && e.addr ≤ a && a < e.addr + e.bytes)

/-- A GET whose whole range is staged frees the staging of the recorded ranges it reads (R181; log 46). -/
def Chip.unstage (c : Chip) (i a n : Nat) : Chip :=
  if (List.range n).all (fun k => c.stagedAt i (a + k)) then
    c.onInst i (fun x => { x with stash := x.stash.map (fun e => if meets e.addr e.bytes a n then { e with staged := false } else e) })
  else c

/-- STASH_GET at its channel (R179 to R181). -/
def Chip.opStashGet (c : Chip) (i t : Nat) (d : Desc) : Ran :=
  Ran.unless (c.stashFault i d false) (fun _ =>
    let a := refAddr (vSrc d)
    let c := c.wakeHub 1
    let layers := (List.range (min (swDist d) (swLayer d))).map (fun k => swLayer d - 1 - k)
    let c := layers.foldl (fun (c : Chip) l => c.stageLayer i l) c
    if vRows d = 0 then .done c
    else match c.stashAt i a (swRange d) with
      | none => .fault caAddrFault
      | some o =>
        let bs := c.copyRead i o 0 a (swRange d)
        let c := c.unstage i a (swRange d)
        if !swCmp d then .done (c.storeWrite t (refOff (vDst d)) bs)
        else
          let f := fmtOf (swFmt d)
          let n := swElems d
          let scales := readScales (bs.drop (swCodes d)) (vRows d) (groupLines n)
          let out := scales.mapIdx (fun r (s : Num × Nat) =>
            (cut bs (r * n) n).map (fun b => dequantise .e4m3 f s.1 s.2 b.toNat))
          let k := cvCounts (out.flatMap id)
          .done ((c.storeWrite t (refOff (vDst d)) (out.flatMap (fun l => f.pack (l.map (·.code))))).countConv i k.1 k.2))

end Sys2Proof.Machine
end

