-- ==== Sys2Proof/Machine/Tables.lean ====
section
/-! DEFINITION. Embedding tables (R183 to R191): where a row lives, its slot, creating, changing, loading and destroying a
share, hot sets (R207, R208), the overwrite of a row (R204) and the apply phase (R203, R205, R206, R209). -/

namespace Sys2Proof.Machine

/-! Fields of the parameter block (R184). -/
def tf (b : BitVec 512) (hi lo : Nat) : Nat := bits b.toNat hi lo
def tLr (b : BitVec 512) : Num := f32 (BitVec.ofNat 32 (tf b 511 480))
def tEps (b : BitVec 512) : Num := f32 (BitVec.ofNat 32 (tf b 479 448))
def tWd (b : BitVec 512) : Num := f32 (BitVec.ofNat 32 (tf b 447 416))
def tMul (b : BitVec 512) : Nat := tf b 415 384
def tSalt (b : BitVec 512) : Nat := tf b 359 320
def tRows (b : BitVec 512) : Nat := tf b 296 256
def tAccRows (b : BitVec 512) : Nat := tf b 255 224
def tLogBp (b : BitVec 512) : Nat := if tf b 223 208 = 0 then 200 else tf b 223 208
def tDim (b : BitVec 512) : Nat := tf b 207 192
def tBl (b : BitVec 512) : Nat := tf b 127 112 + 1
def tGroup (b : BitVec 512) : Nat := tf b 105 96
def tRule (b : BitVec 512) : Nat := tf b 69 68
def tWidest (b : BitVec 512) : Nat := tf b 67 66
def tNarrowest (b : BitVec 512) : Nat := tf b 65 64
def tMode (b : BitVec 512) : Nat := tf b 17 16
def tNb (b : BitVec 512) : Nat := divUp (tRows b) (tBl b)

/-- The digest of R190. -/
def tableDigest (b : BitVec 512) : Word :=
  BitVec.ofNat 32 (crc32c (padTo 64 (leBytes 52 (b.toNat % 2 ^ 416 - 2 ^ 18 * tf b 18 18))))

/-! Where a row lives (R185, R187). -/

/-- Member and local index of row r among n members; a replicated row lies at every member and its update owner is given. -/
def rowPlace (b : BitVec 512) (n r : Nat) : Nat × Nat :=
  if tMode b = 0 then (r % n, r)
  else if tMode b = 1 then
    let q := divUp (tRows b) n
    (r / q, r % q)
  else
    let p := (tMul b * (r / tBl b) + tSalt b) % tNb b
    (p % n, p / n * tBl b + r % tBl b)

/-- Local rows of member m among n; the rows that a hash table's partial last block lacks have slots (DEDUCED, log 47). -/
def heldRows (b : BitVec 512) (n m : Nat) : Nat :=
  if tMode b = 0 then tRows b
  else if tMode b = 1 then
    let q := divUp (tRows b) n
    min q (tRows b - m * q)
  else (if m < tNb b then (tNb b - 1 - m) / n + 1 else 0) * tBl b

/-- Extended Euclid on (r, t), (r', t'): the coefficient of a in gcd(a, m). -/
def euclid : Nat → Int → Int → Int → Int → Int
  | 0, _, t, _, _ => t
  | k + 1, r, t, r', t' => if r' = 0 then t else euclid k r' t' (r - r / r' * r') (t - r / r' * t')

/-- The inverse of a modulo m, for a coprime with m. -/
def modInverse (a m : Nat) : Nat := (euclid 200 (a % m) 1 m 0 % (m : Int)).toNat

/-- The global row of a local index at member m. -/
def globalRow (b : BitVec 512) (n m l : Nat) : Nat :=
  if tMode b = 0 then l
  else if tMode b = 1 then m * divUp (tRows b) n + l
  else
    let nb := tNb b
    let p := l / tBl b * n + m
    modInverse (tMul b) nb * ((p + nb - tSalt b % nb) % nb) % nb * tBl b + l % tBl b

/-- Offset in the share of a local index's slot. -/
def slotOff (b : BitVec 512) (l : Nat) : Nat := l / perExtent b * extentBytes + l % perExtent b * rowSlotBytes b

/-- Members and this device's index in a table's list. -/
def Chip.tableGroup (c : Chip) (t : Table) : Nat × Nat := (c.groupSize (tGroup t.block), c.selfOf (tGroup t.block))

/-- The engine that serves a local index on this device (R192). -/
def Chip.engineAt (c : Chip) (i : Nat) (t : Table) (l : Nat) : Option Nat :=
  (c.shareOf i t.num).bind (fun o => (o.extents[l / perExtent t.block]?).map (fun x => engineOf x.place))

/-- This device holds row r; its local index. -/
def Chip.holds (c : Chip) (t : Table) (r : Nat) : Option Nat :=
  let g := c.tableGroup t
  let p := rowPlace t.block g.1 r
  if tMode t.block = 0 || p.1 = g.2 then some p.2 else none

/-- Local indices of the slots that lie in extents of engine e, in ascending order. -/
def Chip.localRows (c : Chip) (i : Nat) (t : Table) (e : Nat) : List Nat :=
  let g := c.tableGroup t
  (List.range (heldRows t.block g.1 g.2)).filter (fun l => c.engineAt i t l = some e)

/-- Log entries that an engine has room for (R36, R188). -/
def Chip.logRoom (c : Chip) (i : Nat) (t : Table) (e : Nat) : Nat :=
  let s := rowSlotBytes t.block
  (c.localRows i t e).length * s * tLogBp t.block / 10000 / (16 + s)

/-! Packets between the front ends and the engines of two members (R193, R274). -/

/-- The unit code of engine e (R274). -/
def engineUnit (e : Nat) : Nat := if e < 16 then 0x10 + e else 0x20 + (e - 16)

/-- Send a content from a unit to a unit of another member of a group, cut into payloads of at most 4,096 bytes (R274; log
89). -/
def Chip.sendUnit (c : Chip) (i g m dunit sunit cls kind : Nat) (bs : List Byte) : Chip :=
  (List.range (max 1 (divUp bs.length 4096))).foldl (fun (c : Chip) k =>
    c.sendPkt i ((c.group g).members.getD m 0).toNat dunit sunit sunit (Config.fabricOpc kind) cls 0 (cut bs (4096 * k) 4096)) c

/-- What a packet of the engines says of a row. -/
def rowNote (kind table row : Nat) : List Byte := Config.fabricBytes kind (leBytes 2 table ++ leBytes 5 row)

/-- Engine e sends a row's slot to every other member of a table's list (R203, R209). -/
def Chip.sendSlot (c : Chip) (i e : Nat) (t : Table) (kind row : Nat) (slot : List Byte) : Chip :=
  (c.others (tGroup t.block)).foldl (fun (c : Chip) m =>
    c.sendUnit i (tGroup t.block) m (engineUnit e) (engineUnit e) 0 kind (rowNote kind t.num row ++ slot)) c

/-- Acknowledge a slot to its owner (R19, R203). -/
def Chip.sendRowAck (c : Chip) (i e : Nat) (t : Table) (m row : Nat) : Chip :=
  c.sendUnit i (tGroup t.block) m (engineUnit e) (engineUnit e) 1 5 (rowNote 5 t.num row)

/-! Slots (R187). -/

def Chip.slotRead (c : Chip) (i : Nat) (t : Table) (l : Nat) : List Byte :=
  match c.shareOf i t.num with
  | none => []
  | some o => c.copyRead i o 0 (o.addr + slotOff t.block l) (rowSlotBytes t.block)

def Chip.slotWrite (c : Chip) (i : Nat) (t : Table) (l : Nat) (slot : List Byte) : Chip :=
  match c.shareOf i t.num with
  | none => c
  | some o => (c.copyWrite i 0 (o.addr + slotOff t.block l) slot).touch i o (o.addr + slotOff t.block l) slot.length

/-- EPOCH_W, CLASS, ACC of a slot. -/
def rowEpoch (slot : List Byte) : Nat := fieldAt slot 0 6
def slotClass (slot : List Byte) : Nat := fieldAt slot 7 1 / 64
def slotAcc (slot : List Byte) : Word := BitVec.ofNat 32 (fieldAt slot 16 4)

/-- The format of a class; code 11b is read as BF16 (DEDUCED, log 51). -/
def classFmt (cls : Nat) : Fmt := if cls = 1 then .a8 else if cls = 2 then .b4 else .bf16

/-- The elements of a slot decoded to F32 (R133, R187, R198). -/
def slotVals (dim : Nat) (slot : List Byte) : List Num :=
  let f := classFmt (slotClass slot)
  let codes := f.unpack dim (slot.drop 32)
  if f = .bf16 then codes.map f.decode
  else
    let rec' := fieldAt slot 8 4
    let s := scaleOf (rec' % 256) (BitVec.ofNat 32 (fieldAt slot 12 4))
    codes.map (fun k => (Fmt.f32.decode (dequantise f .f32 s (rec' / 256 % 256) k).code))

/-- A row stored in a class: its slot, and the conversions behind it (R132, R133, R187, R203). -/
def makeSlot (b : BitVec 512) (cls epoch : Nat) (acc : Word) (xs : List Num) : List Byte × List Cv :=
  let f := classFmt cls
  let one := groupScales f [xs]
  let code := one.2.headD (0, 0)
  let ps := pow2Bits one.1
  let cs := if f = .bf16 then xs.map f.convert
    else xs.map (quantise f (scaleOf code.1 ps) code.2)
  let rec' := if f = .bf16 then 0 else code.1 + 256 * code.2
  let head := leBytes 6 epoch ++ [0, BitVec.ofNat 8 (64 * (if f = .bf16 then 0 else cls))] ++ leBytes 4 rec' ++
    leBytes 4 (if f = .bf16 then 0x3F800000 else ps.toNat) ++ leBytes 4 acc.toNat ++ List.replicate 12 0
  (padTo (rowSlotBytes b) (head ++ f.pack (cs.map (·.code))), cs)

/-- An access to a slot is held: its extent moves, or one of its PCs is in its window (R168, R175). -/
def Chip.slotHeld (c : Chip) (i : Nat) (t : Table) (l : Nat) (write : Bool) : Bool :=
  (c.shareOf i t.num).any (fun o =>
    let a := o.addr + slotOff t.block l
    o.moveHeld a (rowSlotBytes t.block) write || c.windowHeld o a (rowSlotBytes t.block) write)

/-! Overwriting a row (R33, R37, R204). -/

/-- The pre-image of a row is still to be logged for the published snapshot. -/
def Chip.needsLog (c : Chip) (i : Nat) (slot : List Byte) : Bool :=
  (c.inst i).snapValid && rowEpoch slot < (c.inst i).snapEpoch

/-- Overwrite a slot, its pre-image logged first; none where the log is full. -/
def Chip.overwrite (c : Chip) (i e : Nat) (t : Table) (l : Nat) (slot : List Byte) : Option Chip :=
  let old := c.slotRead i t l
  if !c.needsLog i old then some (c.slotWrite i t l slot)
  else
    let k := ((c.tableOf i t.num).getD t).eng e
    if c.logRoom i t e ≤ k.log.length then none
    else
      let entry : LogEntry := { snap := (c.inst i).snapEpoch, row := l, slot := old }
      some ((c.onEngTab i t.num e (fun k => { k with log := k.log ++ [entry] })).slotWrite i t l slot)

/-- Engine e's acknowledgements to every other member whose batches it holds carry the mark of its stalled log, or carry it
no longer (R307; what carries it, DESIGN CHOICE, log 88). -/
def Chip.tellStall (c : Chip) (i e num : Nat) (on : Bool) : Chip :=
  match c.tableOf i num with
  | none => c
  | some t =>
    let ms := (((t.eng e).batches.map (·.1)).eraseDups).filter (· ≠ (c.tableGroup t).2)
    ms.foldl (fun (c : Chip) m =>
      c.sendUnit i (tGroup t.block) m 0x00 (engineUnit e) 1 6 (Config.fabricBytes 6 (leBytes 2 num ++ leBytes 1 (bit on)))) c

/-- The log is full: the engine stalls, and says so once (R37) (once a stall, DEDUCED, log 99). -/
def Chip.stallLog (c : Chip) (i e num : Nat) : Chip :=
  let was := ((c.tableOf i num).map (fun t => (t.eng e).stalled)).getD false
  let c := c.onEngTab i num e (fun k => { k with stalled := true })
  if was then c else ((c.notify [i] ncLogFull num e).tellStall i e num true).ctrLimit i

/-! Commands on tables (R189 to R191). -/

/-- MUL and SALT fit a hash table. -/
def hashOk (b : BitVec 512) : Bool := tMode b ≠ 2 || (Nat.gcd (tMul b) (tNb b) = 1 && tSalt b < tNb b)

/-- Extents of the slots of a share (R187). -/
def slotExtents (b : BitVec 512) (held : Nat) : Nat := max 1 (divUp held (perExtent b))

/-- Bytes of the engine areas of a share whose slots lie at these places (R188): on each engine that holds slots, the
accumulator, the log with its index, and the sketch; all of them together fill whole extents (log 48). -/
def areaBytes (b : BitVec 512) (held : Nat) (ps : List Place) : Nat :=
  let s := rowSlotBytes b
  (((ps.map engineOf).eraseDups).map (fun e =>
    let rows := (ps.mapIdx (fun k p => if engineOf p = e then min (perExtent b) (held - k * perExtent b) else 0)).sum
    let log := rows * s * tLogBp b / 10000
    tAccRows b * (32 + 4 * tDim b) + log + 8 * (log / (16 + s)) + 32768)).sum

/-- The parameter at fault in a TABLE_CREATE, as a byte offset (R189). -/
def tableParamFault (b : BitVec 512) : Option Nat :=
  if 16383 < tf b 15 0 then some 0
  else if tMode b = 3 then some 2
  else if tNarrowest b < tWidest b || tWidest b = 3 || tNarrowest b = 3 then some 8
  else if 1 < tRule b then some 8
  else if tf b 81 80 = 2 then some 10
  else if tDim b % 8 ≠ 0 || tDim b < 8 || 4096 < tDim b then some 24
  else if tAccRows b = 0 || 16777216 < tAccRows b then some 28
  else if tRows b = 0 || 2 ^ 40 < tRows b then some 32
  else if !hashOk b then (if tSalt b < tNb b then some 48 else some 40)
  else if tMode b = 0 && 4000000000 < tRows b * rowSlotBytes b then some 32
  else none

/-- The tiers that a table may take: the preferred one, and all in order (R163, R184). -/
def tableTiers (b : BitVec 512) : Option Nat × List Nat :=
  let t := tf b 81 80
  if t = 3 then (none, [0, 1])
  else if t = 1 then (some 1, [1])
  else (some 0, if tf b 72 72 = 1 then [0, 1] else [0])

/-- Places for a share, and the rotations after them (R163, R186, R188): the places of the slots say which engines hold them,
and so how many extents the areas take. A share above 2^37 bytes is refused (R189), as `none`. -/
def Chip.placeShare (c : Chip) (i : Nat) (b : BitVec 512) (held : Nat) :
    Option (Chip × ((List Place × List Nat) ⊕ (Nat × Nat))) :=
  let slots := slotExtents b held
  if 2 ^ 37 < slots * extentBytes then none
  else
    let tiers := tableTiers b
    let r := c.obtain i 1 slots tiers.1 tiers.2
    match r.2 with
    | .inr f => some (r.1, .inr f)
    | .inl (ps, _) =>
      let n := slots + divUp (areaBytes b held ps) extentBytes
      if 2 ^ 37 < n * extentBytes then none else some (c.obtain i 1 n tiers.1 tiers.2)

/-- An extent as it is placed (R162). -/
def Extent.new (pin : Bool) (pl : Place) : Extent := { place := pl, age := 0, pinned := pin, other := none, stage := none, relay := false }

/-- A share created (R184 to R189). -/
def Chip.createTable (c : Chip) (p : Icp) : Verdict :=
  let i := p.who
  let b := BitVec.ofNat 512 (leNat p.params)
  let e := c.group (tGroup b)
  let n := max 1 e.members.length
  let held := heldRows b n (c.selfOf (tGroup b))
  match tableParamFault b with
  | some k => badParam k
  | none =>
    if (c.tableOf i (tf b 15 0)).isSome then c.badState p
    else if e.owner ≠ some i then .refuse stNoObject 12
    else if (c.selfIn e.members).isNone then .refuse stNotPermitted 0
    else match c.placeShare i b held with
      | none => badParam 32
      | some (c, .inr (st, t)) => .overs st t c
      | some (c, .inl (ps, rots)) =>
        let o : Obj :=
          { addr := windowBase + tf b 15 0 * 2 ^ 37, length := slotExtents b held * extentBytes, cls := 0, table := some (tf b 15 0),
            stage := 0, serial := c.freeCount, extents := ps.map (Extent.new false), migration := none, shardsDone := [],
            landed := [], due := [], serveDue := false, panels := [] }
        let t : Table := { num := tf b 15 0, block := b, digest := tableDigest b, inForce := b, engs := [] }
        .done 0 [] ((c.onInst i (fun x => { x with objs := x.objs ++ [o], tables := x.tables ++ [t], rot := rots })).drew)

/-- LR, EPS and WD changed (R189). -/
def Chip.modifyTable (c : Chip) (p : Icp) : Verdict :=
  let i := p.who
  let b := BitVec.ofNat 512 (leNat p.params)
  match c.tableOf i (tf b 15 0) with
  | none => if 16383 < tf b 15 0 then badParam 0 else .refuse stNoObject 0
  | some t =>
    let same := b.toNat % 2 ^ 416 - 2 ^ 18 * tf b 18 18
    let own := t.block.toNat % 2 ^ 416
    match (List.range 52).find? (fun k => same / 256 ^ k % 256 ≠ own / 256 ^ k % 256) with
    | some k => badParam k
    | none => .done 0 [] (c.onTable i t.num (fun t => { t with block := BitVec.ofNat 512 (b.toNat - 2 ^ 18 * tf b 18 18) }))

/-- Opcode 40h by its MODIFY bit. -/
def Chip.tableSet (c : Chip) (p : Icp) : Verdict := if p.bits 18 18 = 1 then c.modifyTable p else c.createTable p

/-- TABLE_CREATE (R184 to R189). -/
def execTableCreate (p : Icp) (s : State) : Host.Outcome State Fault Refusal := icp 0x40 p s Chip.tableSet

/-- TABLE_CREATE with MODIFY (R189). -/
def execTableModify (p : Icp) (s : State) : Host.Outcome State Fault Refusal := icp 0x40 p s Chip.tableSet

/-- TABLE_DESTROY (R191). -/
def execTableDestroy (p : Icp) (s : State) : Host.Outcome State Fault Refusal :=
  icp 0x41 p s (fun c p =>
    let i := p.who
    let num := p.par 0 2
    match c.tableOf i num, c.shareOf i num with
    | some _, some o =>
      if c.jobRuns i then c.badState p
      else
        let keep := fun (h : HotSet) =>
          ({ h with active := h.active.filter (fun r => r.table ≠ num), inactive := h.inactive.filter (fun r => r.table ≠ num),
                    rows := h.rows.filter (fun r => r.1 ≠ num) } : HotSet)
        .done 0 [] ((c.unmap i o).onInst i (fun x =>
          { x with tables := x.tables.filter (fun t => t.num ≠ num), hot := x.hot.map keep }))
    | _, _ => .refuse stNoObject 0)

/-- The rows of a TABLE_LOAD written from their source bytes (R191). -/
def Chip.loadRows (c : Chip) (i num first : Nat) (f : Fmt) (src : List Byte) : Chip :=
  match c.tableOf i num with
  | none => c
  | some t =>
    let dim := tDim t.block
    let size := f.lineBytes dim
    (List.range (src.length / max 1 size)).foldl (fun (c : Chip) k =>
      match c.holds t (first + k) with
      | none => c
      | some l =>
        let xs := (f.unpack dim (cut src (k * size) size)).map f.decode
        let r := makeSlot t.block (tWidest t.block) 0 0 xs
        let n := cvCounts r.2
        (c.slotWrite i t l r.1).countConv i n.1 n.2) c

/-- Element format, source bytes and refusal of a TABLE_LOAD (R158, R191, R412). -/
def Chip.loadFault (c : Chip) (p : Icp) : Option (Nat × Nat) :=
  let i := p.who
  let loc := p.par 24 1 % 16
  let kind := p.par 24 1 / 16
  let a := p.par 32 8
  match c.tableOf i (p.par 0 2) with
  | none => some (stNoObject, 0)
  | some t =>
    let n := p.par 16 8 * tDim t.block * (if kind = 0 then 4 else 2)
    if c.jobRuns i then some (stBadState, c.phaseDetail p)
    else if p.par 16 8 = 0 then some (stBadParam, 16)
    else if tRows t.block < p.par 8 8 + p.par 16 8 then some (stBadParam, 8)
    else if 2 < loc || 1 < kind then some (stBadParam, 24)
    else if loc = 0 && hostTop < a + n then some (stBadParam, 32)
    else if loc = 2 then
      match c.check i a n with
      | .fault k => some (stAddrFault, k)
      | .ok _ => none
    else none

/-- TABLE_LOAD (R191, R409): the mover replies when it has written the last byte. -/
def execTableLoad (p : Icp) (s : State) : Host.Outcome State Fault Refusal :=
  icp 0x42 p s (fun c p =>
    match c.loadFault p with
    | some r => .refuse r.1 r.2
    | none => .later { c with moves := c.moves ++ [{ cmd := (c.refOf p), flushing := false }] })

/-! Hot sets (R207, R208). -/

/-- An entry of a hot list: table and row; none where its reserved bits are set. What such an entry answers no rule says: the
model refuses it with BAD_PARAM, DETAIL 8, as it does the other entries at fault (DESIGN CHOICE, log 50). -/
def hotEntry (v : Nat) : Option (Nat × Nat) := if bits v 49 40 = 0 then some (bits v 63 50, bits v 39 0) else none

/-- The hot sets with one more or another next set for a group. -/
def withNext (hs : List HotSet) (g : Nat) (rows : List (Nat × Nat)) (f : Nat) (r : Ref) : List HotSet :=
  if hs.any (fun h => h.group = g) then hs.map (fun h => if h.group = g then { h with next := some (rows, f, r) } else h)
  else hs ++ [{ group := g, active := [], inactive := [], rows := [], next := some (rows, f, r) }]

/-- The tier in which the replicas of an instance do not fit, if there is one (R63, R208). -/
def Chip.hotMisfit (c : Chip) (i : Nat) : Option Nat :=
  if ((c.tierUnits i 0).map (fun g => c.groupCap g - c.usedAt 0 g)).sum < c.hotUse i 0 then some 0
  else if c.quota i 1 < c.use i 1 then some 1
  else none

/-- HOT_SET (R25, R207, R208): it waits while its list may not be read; an earlier set still to come is cancelled (DESIGN
CHOICE, log 50). -/
def execHotSet (p : Icp) (s : State) : Host.Outcome State Fault Refusal :=
  icp 0x43 p s (fun c p =>
    let i := p.who
    let g := p.bits 9 0
    let f := p.bits 63 16
    let n := p.bits 148 128
    let j := c.job i
    if (c.group g).owner ≠ some i then .refuse stNoObject 0
    else if 1048576 < n then badParam 16
    else if f ≤ j.epoch || (f = j.epoch + 1 && j.close = .closed) then c.badState p
    else if !(c.inst i).hot.any (fun h => h.group = g) && 4 ≤ (c.inst i).hot.length then c.badState p
    else match (if n = 0 then none else some (c.check i (p.bits 127 64) (8 * n))) with
      | some (.fault k) => .refuse stAddrFault k
      | r =>
        let held := match r with
          | some (.ok o) => c.cmdHeld i o (p.bits 127 64) (8 * n) false
          | _ => false
        if held then .wait
        else
        let bs := match r with
          | some (.ok o) => c.frontRead i o (p.bits 127 64) (8 * n)
          | _ => []
        let c := if n = 0 then c else c.touchAt i (p.bits 127 64) (8 * n)
        let entries := (List.range n).map (fun k => hotEntry (fieldAt bs (8 * k) 8))
        let rows := entries.filterMap id
        let good := fun (r : Nat × Nat) => match c.tableOf i r.1 with
          | some t => tGroup t.block = g && r.2 < tRows t.block
          | none => false
        if entries.any (·.isNone) || !rows.all good || rows.eraseDups.length < n then badParam 8
        else
          let old := ((c.inst i).hot.find? (fun h => h.group = g)).bind (·.next)
          let d := c.onInst i (fun x => { x with hot := withNext x.hot g rows f (c.refOf p) })
          match if n = 0 then none else d.hotMisfit i with
          | some tier => .refuse stNoSpace tier
          | none => .pending (match old with
            | some (_, _, q) => d.commandDone q stCancelled 0
            | none => d))

/-! The apply phase (R203 to R206, R209). -/

/-- Sum of squares of a row (R110, R203), with its counts. -/
def rowSquares (gs : List Num) : Num × Nat × Nat := (reduceRow addC (gs.map (fun g => (g.mul g).rndC))).getD (Num.zero, 0, 0)

/-- What the row rule gives for a row: its elements, its accumulator, and the counts of its roundings (R122). -/
structure RowOut where
  xs : List Num
  acc : Word
  cnt : Nat × Nat

/-- The row rule (R203). -/
def rowRule (b : BitVec 512) (lexp : Nat) (acc : Word) (xs cs : List Num) : RowOut :=
  let g1 := rndRow (cs.map (fun k => k.mul (Num.pow2 (-(lexp : Int)))))
  let wx := rndRow (xs.map (fun x => (tWd b).mul x))
  let g := rndRow (List.zipWith Num.add g1.1 wx.1)
  let lg := rndRow (g.1.map (fun g => (tLr b).mul g))
  let n := cntSum [g1.2, wx.2, g.2, lg.2]
  if tRule b = 0 then
    let x := rndRow (List.zipWith Num.sub xs lg.1)
    { xs := x.1, acc := acc, cnt := cntAdd n x.2 }
  else
    let sq := rowSquares g.1
    let mean := (sq.1.div (Num.ofInt (tDim b))).rndC
    let a := ((f32 acc).add mean.1).rndC
    let root := a.1.sqrtR
    let den := (root.add (tEps b)).rndC
    let q := rndRow (lg.1.map (fun v => v.div den.1))
    let x := rndRow (List.zipWith Num.sub xs q.1)
    { xs := x.1, acc := a.1.f32Bits, cnt := cntSum [n, sq.2, mean.2, a.2, (bit root.isNan, 0), den.2, q.2, x.2] }

/-- Sketch counters of a row (R205). -/
def sketchKeys (r : Nat) : List Nat :=
  [0x9E3779B97F4A7C15, 0xC2B2AE3D27D4EB4F, 0x165667B19E3779F9, 0xD6E8FEB86659FD93].mapIdx
    (fun i h => 4096 * i + r * h % 2 ^ 64 / 2 ^ 52)

/-- A row's estimate (R205). -/
def EngTab.estimate (k : EngTab) (r : Nat) : Nat :=
  ((sketchKeys r).map (fun a => (tget 0 k.sketch a).toNat)).foldl min 65535

/-- The target class of an estimate (R206). -/
def targetClass (b : BitVec 512) (est : Nat) : Nat :=
  let t := if tf b 191 176 ≤ est then 0 else if tf b 175 160 ≤ est then 1 else 2
  min (max t (tWidest b)) (tNarrowest b)

/-- The row is served hot on this device. -/
def Inst.hotRow (x : Inst) (table r : Nat) : Bool := x.hot.any (fun h => h.rows.contains (table, r))

/-- Apply one held row; none where the log is full. -/
def Chip.applyRow (c : Chip) (i e : Nat) (t : Table) (a : AccEntry) : Option Chip :=
  let j := c.job i
  let old := c.slotRead i t a.row
  let b := t.inForce
  let r := rowRule b j.lexp (if tRule b = 0 then 0 else slotAcc old) (slotVals (tDim t.block) old) (a.vals.map f32)
  let s := makeSlot t.block (slotClass old) j.epoch r.acc r.xs
  let n := cntAdd r.cnt (cvCounts s.2)
  (c.overwrite i e t a.row s.1).map (fun c =>
    let c := c.countConv i n.1 n.2
    let rest := (c.others (tGroup t.block)).map (fun m => (m, a.row))
    let c := c.onEngTab i t.num e (fun k => { k with
      acc := k.acc.filter (fun x => x.row ≠ a.row), applied := k.applied ++ [a.row],
      unacked := if tMode t.block = 0 then k.unacked ++ rest else k.unacked })
    if tMode t.block = 0 then c.sendSlot i e t 4 a.row s.1 else c)

/-- Apply held rows in order, as far as the log and the moves of extents let; whether all are applied. -/
def Chip.applyRows (i e : Nat) (t : Table) : List AccEntry → Chip → Chip × Bool
  | [], c => (c, true)
  | a :: r, c =>
    if c.slotHeld i t a.row true then (c, false)
    else match c.applyRow i e t a with
    | none => (c.stallLog i e t.num, false)
    | some c => Chip.applyRows i e t r c

/-- Examine one row for reclass (R206); none where the log is full. Rows never written are examined like others
(DEDUCED, log 90). -/
def Chip.reclass (c : Chip) (i e : Nat) (t : Table) (l : Nat) : Option Chip :=
  let g := c.tableGroup t
  let r := globalRow t.block g.1 g.2 l
  let k := ((c.tableOf i t.num).getD t).eng e
  let old := c.slotRead i t l
  let want := targetClass t.block (k.estimate r)
  let done := fun (c : Chip) (n : Nat) => c.onEngTab i t.num e (fun k => { k with examined := k.examined + 1, changed := k.changed + n })
  if (c.inst i).hotRow t.num r || want = slotClass old || tf t.block 159 144 ≤ k.changed then some (done c 0)
  else
    let s := makeSlot t.block want (c.job i).epoch (slotAcc old) (slotVals (tDim t.block) old)
    let n := cvCounts s.2
    (c.overwrite i e t l s.1).map (fun c => done (c.countConv i n.1 n.2) 1)

def Chip.reclassRows (i e : Nat) (t : Table) : List Nat → Chip → Chip × Bool
  | [], c => (c, true)
  | l :: r, c =>
    if c.slotHeld i t l true then (c, false)
    else match c.reclass i e t l with
    | none => (c.stallLog i e t.num, false)
    | some c => Chip.reclassRows i e t r c

/-- The rows of the reclass sweep: SWEEP rows from the cursor on, cyclically (R206). -/
def sweepRows (rows : List Nat) (cursor sweep : Nat) : List Nat :=
  (List.range (min sweep rows.length)).map (fun k => rows.getD ((cursor + k) % rows.length) 0)

/-- Place a replica in the inactive buffer of its group's hot set (R30, R209). -/
def Chip.putReplica (c : Chip) (i table row : Nat) (slot : List Byte) : Chip :=
  let listed := fun (h : HotSet) => h.rows.contains (table, row) || h.next.any (fun n => n.1.contains (table, row))
  c.onInst i (fun x => { x with hot := x.hot.map (fun h =>
    if listed h then
      { h with inactive := h.inactive.filter (fun r => !(r.table = table && r.row = row)) ++
          [{ table := table, row := row, slot := slot, installed := 0 }] }
    else h) })

/-- The hot rows whose values engine e sends in this apply phase (R209): newly listed ones, and those it has overwritten. -/
def Chip.hotToSend (c : Chip) (i e : Nat) (t : Table) : List (Nat × Nat) :=
  let fresh := (c.inst i).hot.flatMap (fun h => match h.next with
    | some (rows, f, _) => if f ≤ (c.job i).epoch + 1 then rows else []
    | none => [])
  let k := ((c.tableOf i t.num).getD t).eng e
  let now := (c.inst i).hot.flatMap (·.rows)
  let mine := fun (r : Nat × Nat) => if r.1 ≠ t.num then none else
    let g := c.tableGroup t
    let p := rowPlace t.block g.1 r.2
    if p.1 = g.2 && c.engineAt i t p.2 = some e then some (r.2, p.2) else none
  ((fresh.filterMap mine) ++ (now.filterMap mine).filter (fun x => k.applied.contains x.2)).eraseDups

/-- Send hot rows' new values to every replica (R30, R209). -/
def Chip.sendHot (c : Chip) (i e : Nat) (t : Table) : Chip :=
  (c.hotToSend i e t).foldl (fun (c : Chip) r =>
    let slot := c.slotRead i t r.2
    let rest := (c.others (tGroup t.block)).map (fun m => (t.num, r.1, m))
    ((c.putReplica i t.num r.1 slot).onJob i (fun j => { j with unackedHot := j.unackedHot ++ rest })).sendSlot i e t 3 r.1 slot) c

/-- A batch is acknowledged as applied (R19, R203): this device's own leaves its list, another's is answered by the engine
that took it. -/
def Chip.ackBatch (c : Chip) (i : Nat) (t : Table) (b : Nat × Nat × Nat × Nat) : Chip :=
  if b.1 = (c.tableGroup t).2 then
    c.onJob i (fun j => { j with unapplied := j.unapplied.erase (b.1, b.2.2.2, b.2.1, b.2.2.1) })
  else
    c.sendUnit i (tGroup t.block) b.1 0x00 (engineUnit b.2.2.2) 1 5
      (Config.fabricBytes 5 (leBytes 2 t.num ++ leBytes 8 b.2.1 ++ leBytes 8 b.2.2.1))

/-- The batches of engine e are acknowledged once its rows are applied and every member has acknowledged the slots it was
sent (R19, R203); one that another engine holds a part of waits for that one. -/
def Chip.ackBatches (c : Chip) (i e num : Nat) : Chip :=
  match c.tableOf i num with
  | none => c
  | some t =>
    if (c.job i).toApply.contains (e, num) || !(t.eng e).unacked.isEmpty then c
    else
      let shared := fun (b : Nat × Nat × Nat × Nat) => t.engs.any (fun x => x.1 ≠ e && x.2.batches.contains b)
      let c := ((t.eng e).batches.filter (fun b => !shared b)).foldl (fun (c : Chip) b => c.ackBatch i t b) c
      c.onEngTab i num e (fun k => { k with batches := [] })

/-- ROW_APPLY (R19, R27 to R30, R203 to R206, R209): engine e applies, reclasses and sends for one table; a full log, or an
extent of its rows in the commit of a move (R168), stops it, and the command comes again. -/
def execRowApply (i e table : Nat) (s : State) : Host.Outcome State Fault Refusal :=
  onChip s (fun c =>
    match c.tableOf i table with
    | none => c
    | some t =>
      if (c.job i).phase ≠ .apply || !(c.job i).toApply.contains (e, table) then c
      else
        let a := Chip.applyRows i e t ((t.eng e).acc.mergeSort (fun x y => x.row ≤ y.row)) c
        if !a.2 then a.1
        else
          let k := ((a.1.tableOf i table).getD t).eng e
          let rows := a.1.localRows i t e
          let sweep := tf t.block 143 128
          let r := Chip.reclassRows i e t ((k.applied ++ sweepRows rows k.cursor sweep).drop k.examined) a.1
          if !r.2 then r.1
          else
            let c := if k.stalled then (r.1.tellStall i e table false).sendHot i e t else r.1.sendHot i e t
            let c := c.onEngTab i table e (fun k => { k with
              applied := [], examined := 0, changed := 0, stalled := false, cursor := (k.cursor + sweep) % max 1 rows.length })
            (c.onJob i (fun j => { j with toApply := j.toApply.erase (e, table) })).ackBatches i e table)

/-- Serving messages of a retired or published snapshot that an engine still holds. -/
def Chip.servingAt (c : Chip) (i e table p : Nat) : Bool :=
  (c.engine e).queue.any (fun x => x.2.inst = i && x.2.table = table && x.2.kind = .serve && x.2.epoch = p)

/-- LOG_ENTRIES_FREE (R32, R36 to R38): the last read of a retired snapshot has completed at the engine, which frees its
entries and refuses such reads from now on. -/
def execLogEntriesFree (i e table : Nat) (s : State) : Host.Outcome State Fault Refusal :=
  onChip s (fun c =>
    let x := c.inst i
    let live := fun (p : Nat) => (x.snapValid && x.snapEpoch = p) || c.servingAt i e table p
    let was := (c.tableOf i table).any (fun t => (t.eng e).stalled)
    let c := c.onEngTab i table e (fun k =>
      let kept := k.log.filter (fun l => live l.snap)
      { k with log := kept, closed := x.oldSnaps.filter (fun p => !live p), stalled := k.stalled && kept.length = k.log.length })
    if was && !(c.tableOf i table).any (fun t => (t.eng e).stalled) then (c.tellStall i e table false).ctrLimit i else c)

/-- HOT_ROW_VALUE_RECEIVED (R30, R209): the value goes to the inactive buffer and is acknowledged. -/
def execHotRowValueReceived (i table row : Nat) (slot : List Byte) (s : State) : Host.Outcome State Fault Refusal :=
  onChip s (fun c =>
    match c.tableOf i table with
    | none => c
    | some t =>
      let owner := (rowPlace t.block (max 1 (c.tableGroup t).1) row).1
      (c.putReplica i table row slot).sendRowAck i (c.liveEngines.headD 0) t owner row)

/-- REPLICA_SLOT_WRITE (R33, R37, R168, R203, R204): the new slot is written in place, or waits on a full log or on a move. -/
def execReplicaSlotWrite (i table row : Nat) (slot : List Byte) (s : State) : Host.Outcome State Fault Refusal :=
  onChip s (fun c =>
    match c.tableOf i table with
    | none => c
    | some t =>
      match c.engineAt i t row with
      | none => c
      | some e =>
        if tMode t.block ≠ 0 || heldRows t.block 1 0 ≤ row || slot.length ≠ rowSlotBytes t.block then c
        else if c.slotHeld i t row true then c
        else match c.overwrite i e t row slot with
          | none => c.stallLog i e table
          | some c => c.sendRowAck i e t (row % max 1 (c.tableGroup t).1) row)

end Sys2Proof.Machine
end

