-- ==== Sys2Proof/Machine/Lookups.lean ====
section
/-! DEFINITION. LOOKUP and ROW_GRAD (R192, R196, R197, R201), what an engine does with a request message (R193, R194, R198
to R202, R205, R210), and the merge at the front end (R199, R200). -/

namespace Sys2Proof.Machine

/-! Fields of the lookup body (R196). -/
def lTable (d : Desc) : Nat := dbits d 431 416
def lFmt (d : Desc) : Nat := dbits d 403 400
def lServe (d : Desc) : Bool := dbit d 384
def lBags (d : Desc) : Nat := dbits d 383 352
def lCount (d : Desc) : Nat := dbits d 351 320
def lIndex (d : Desc) : RefBits := dRef d 0
def lDst (d : Desc) : RefBits := dRef d 1
def lWeight (d : Desc) : RefBits := dRef d 2
def lOffs (d : Desc) : RefBits := dbits d 319 256
def lGrad (d : Desc) : Bool := dOp d = 0x51

/-- Bytes of an element of FMT. -/
def lSize (d : Desc) : Nat := if lFmt d = 0 then 4 else 2

/-- Faults that a LOOKUP's bits alone show, and foreign tiles (R8, R96, R196, R197). -/
def Chip.lookupFault (c : Chip) (i : Nat) (d : Desc) : Option Nat :=
  let refs := [lIndex d, lDst d, lWeight d, lOffs d]
  firstFault
    [(dbits d 511 432 ≠ 0 || dbits d 415 404 ≠ 0 || dbits d 399 385 ≠ 0 || refs.any refRsv, caRsvField),
     (refs.any (c.foreign i), caForeignTile),
     (refs.any (fun r => refSpace r = 1) || refNone (lIndex d) || refNone (lDst d) || refNone (lOffs d), caBadSpace),
     (!(lFmt d = 0 || lFmt d = 2), caBadFormat),
     (lBags d = 0 || 16777216 < lBags d || lCount d = 0 || 16777216 < lCount d || (lGrad d && lServe d), caBadShape),
     ((c.tableOf i (lTable d)).isNone, caNoTable),
     (lServe d && !(c.inst i).snapValid, caStaleSnapshot)]

/-- The ranges a LOOKUP reads, and its destination or bag gradients: reference, bytes, written. -/
def lRanges (d : Desc) (dim : Nat) : List (RefBits × Nat × Bool) :=
  [(lIndex d, 8 * lCount d, false)] ++ (if refNone (lWeight d) then [] else [(lWeight d, 4 * lCount d, false)]) ++
    [(lOffs d, 4 * lBags d, false), (lDst d, lBags d * dim * lSize d, !lGrad d)]

/-- The bag of every index: bag b holds the indices from end[b − 1] to end[b] − 1. -/
def bagOf (ends : List Nat) (k : Nat) : Nat := (ends.takeWhile (· ≤ k)).length

/-- The ends never decrease and the last is COUNT (R197). -/
def endsOk : Nat → List Nat → Nat → Bool
  | prev, [], count => prev = count
  | prev, e :: r, count => prev ≤ e && endsOk e r count

/-- The replica of a row in this device's hot sets. -/
def Chip.replica (c : Chip) (i table row : Nat) : Option Replica :=
  if (c.inst i).hotRow table row then
    ((c.inst i).hot.flatMap (·.active)).find? (fun r => r.table = table && r.row = row)
  else none

/-- The replica serves a read: a training read always, a serving read where it was installed at or before P (R34). -/
def Chip.replicaServes (c : Chip) (i table row : Nat) (serve : Bool) : Option Replica :=
  (c.replica i table row).filter (fun r => !serve || r.installed ≤ (c.inst i).snapEpoch)

/-- Member and engine that serve a row (R185, R192). Which engine of another member holds the row's extent is free (log
53). -/
def Chip.serverOf (c : Chip) (i : Nat) (t : Table) (r : Nat) (grad serve : Bool) : Nat × Nat :=
  let g := c.tableGroup t
  let p := rowPlace t.block (max 1 g.1) r
  let es := c.liveEngines
  if !grad && (c.replicaServes i t.num r serve).isSome then (g.2, es.getD ((r + t.num) % max 1 es.length) 0)
  else if (!grad && tMode t.block = 0) || p.1 = g.2 then (g.2, (c.engineAt i t p.2).getD 0)
  else
    (p.1, Config.remoteEngine ((c.group (tGroup t.block)).members.getD p.1 0).toNat t.num (p.2 / perExtent t.block) c.tc % 24)

/-- The bags that an engine serves whole (R198, R199). -/
def bagsWhole (recs : List ((Nat × Nat) × ReqRecord)) (srv : Nat × Nat) : List Nat :=
  (((recs.filter (fun x => x.1 = srv)).map (·.2.bag)).eraseDups).filter (fun b => recs.all (fun x => x.2.bag ≠ b || x.1 = srv))

/-- Records per message (R193). -/
def perMessage (weighted : Bool) : Nat := if weighted then 14 else 28

/-- The messages of a descriptor to one engine, numbered from `first` on, in the order of its records (R193, R199, R201). Each
bag gradient goes once, with the first message that needs it. -/
def messagesTo (proto : ReqMsg) (recs : List ((Nat × Nat) × ReqRecord)) (grads : List (List Word)) (srv : Nat × Nat)
    (first : Nat) : List ReqMsg :=
  let mine := (recs.filter (fun x => x.1 = srv)).map (·.2)
  let n := perMessage proto.weighted
  let k := divUp mine.length n
  (List.range k).map (fun j =>
    let here := (mine.drop (n * j)).take n
    let seen := (mine.take (n * j)).map (·.bag)
    { proto with
      owner := srv.1, part := first + j, last := j + 1 = k, records := here, wholeBags := bagsWhole recs srv,
      grads := if proto.kind = .grad then
          (((here.map (·.bag)).eraseDups).filter (fun b => !seen.contains b)).map (fun b => (b, grads.getD b []))
        else [] })

/-- Every message of a descriptor, with its engine, in the order of the engines (R193). -/
def allMessages (proto : ReqMsg) (recs : List ((Nat × Nat) × ReqRecord)) (grads : List (List Word)) :
    List (Nat × Nat) → Nat → List (Nat × ReqMsg)
  | [], _ => []
  | srv :: r, first =>
    let ms := messagesTo proto recs grads srv first
    ms.map (fun m => (srv.2, m)) ++ allMessages proto recs grads r (first + ms.length)

/-! The entries of an engine's queue (R194). -/

/-- Entries that a source takes. -/
def Engine.ofSource (g : Engine) (src : Nat) : Nat := (g.queue.filter (fun x => x.1 = src)).length

/-- A source has an entry left at an engine: one of its 8, or one of the 232 that the 35 sources share (R194). -/
def Engine.room (g : Engine) (src : Nat) : Bool :=
  g.ofSource src < 8 || ((List.range 35).map (fun s => g.ofSource s - 8)).sum < 232

/-- A message enters the queue of its engine (R194, R397). -/
def Chip.enqueue (c : Chip) (e src : Nat) (m : ReqMsg) : Chip :=
  let g := c.engine e
  c.setEngine e { g with queue := g.queue ++ [(src, m)], gated := false }

/-- The payload of a request message (R193): its header, whose layout is free, its records, and the bag gradients of a
ROW_GRAD (log 89). -/
def reqPayload (m : ReqMsg) : List Byte :=
  let kind := match m.kind with
    | .lookup => 0
    | .serve => 1
    | .grad => 2
  padTo 16 ((Config.fabricBytes 0 (leBytes 6 m.epoch ++ leBytes 2 m.table ++ leBytes 4 m.digest.toNat ++ leBytes 1 kind)).take 16) ++
    m.records.flatMap (fun r =>
      leBytes 8 (r.row % 2 ^ 40 + r.bag % 2 ^ 24 * 2 ^ 40) ++ (if m.weighted then leBytes 8 r.weight.toNat else [])) ++
    (if m.kind = .grad then Config.fabricBytes 1 (m.grads.flatMap (fun g => leBytes 3 g.1 ++ g.2.flatMap (fun w => leBytes 4 w.toNat)))
     else [])

/-- Send a request to another member (R193, R274). -/
def Chip.sendMessage (c : Chip) (e : Nat) (m : ReqMsg) : Chip :=
  match c.tableOf m.inst m.table with
  | none => c
  | some t => c.sendUnit m.inst (tGroup t.block) m.owner (engineUnit e) 0x00 0 0 (reqPayload m)

/-- A message of the front end can go: to another member, or to a local engine with room (R194). -/
def Chip.canSend (c : Chip) (e : Nat) (m : ReqMsg) : Bool := m.owner ≠ m.member || (c.engine e).room 0

/-- The first message of an instance that the front end holds, with its job. -/
def Chip.nextSend (c : Chip) (i : Nat) : Option (FrontJob × Nat × ReqMsg) :=
  (c.front.find? (fun f => f.inst = i && !f.toSend.isEmpty)).bind (fun f => f.toSend.head?.map (fun x => (f, x)))

/-- The front end sends what it can, one message a turn, the instances by their weights (R194, R352). -/
def Chip.pumpFront : Nat → Chip → Chip
  | 0, c => c
  | fuel + 1, c =>
    match nextTurn c.frontTurn (fun i => (c.nextSend i).any (fun x => c.canSend x.2.1 x.2.2)) (c.weight 0) with
    | none => c
    | some turn => match c.nextSend turn.1 with
      | none => c
      | some (f, e, m) =>
        let c : Chip := { c with
          frontTurn := turn, front := modFirst (fun x => decide (x = f)) (fun f => { f with toSend := f.toSend.drop 1 }) c.front }
        Chip.pumpFront fuel (if m.owner = m.member then c.enqueue e 0 m else c.sendMessage e m)

/-- Messages that the front end holds. -/
def Chip.unsent (c : Chip) : Nat := (c.front.map (fun f => f.toSend.length)).sum

/-- The bag gradients of a ROW_GRAD decoded to F32. -/
def bagGrads (d : Desc) (dim : Nat) (bs : List Byte) : List (List Word) :=
  let f := fmtOf (lFmt d)
  (chunks (dim * lSize d) (lBags d) bs).map (fun b => toWords f dim b)

/-- LOOKUP and ROW_GRAD at their channel: the lists are read and checked whole, then the front end takes the descriptor
(R17, R197, R199, R201). A ROW_GRAD too waits from the close to the flip (DEDUCED, log 54). -/
def Chip.opLookup (c : Chip) (i t : Nat) (d : Desc) : Ran :=
  Ran.unless (c.lookupFault i d) (fun _ =>
    match c.tableOf i (lTable d) with
    | none => .fault caNoTable
    | some tb =>
      let dim := tDim tb.block
      let rs := lRanges d dim
      Ran.unless (rs.foldl (fun f r => f.orElse (fun _ => c.rowFault i r.1 0 r.2.1 r.2.2)) none) (fun _ =>
        if rs.any (fun r => c.refHeld i r.1 r.2.1 r.2.2) || (!lServe d && c.jobRuns i && (c.job i).close = .closed) then .held
        else
          let rd := fun (r : RefBits) n => c.refRead i t r n
          let rows := unpackWide 8 (lCount d) (rd (lIndex d) (8 * lCount d))
          let ends := unpackWide 4 (lBags d) (rd (lOffs d) (4 * lBags d))
          let ws := if refNone (lWeight d) then List.replicate (lCount d) 0x3F800000
            else unpackWide 4 (lCount d) (rd (lWeight d) (4 * lCount d))
          if !endsOk 0 ends (lCount d) then .fault caBadShape
          else if rows.any (fun r => tRows tb.block ≤ r) then .fault caAddrFault
          else
            let me := (c.tableGroup tb).2
            let recs := (List.zip rows ws).mapIdx (fun k x =>
              (c.serverOf i tb x.1 (lGrad d) (lServe d),
               ({ row := x.1, bag := bagOf ends k, weight := BitVec.ofNat 32 x.2 } : ReqRecord)))
            let grads := if lGrad d then bagGrads d dim (rd (lDst d) (lBags d * dim * lSize d)) else []
            let proto : ReqMsg :=
              { inst := i, kind := if lGrad d then .grad else if lServe d then .serve else .lookup,
                epoch := if lServe d then (c.inst i).snapEpoch else (c.job i).epoch, table := tb.num, digest := tb.digest,
                member := me, tile := t, chan := dCh d, req := c.reqs, part := 0, last := true, owner := me,
                weighted := !refNone (lWeight d), records := [], wholeBags := [], fmt := lFmt d, grads := [] }
            let ms := allMessages proto recs grads ((recs.map (·.1)).eraseDups) 0
            let parts := ms.map (fun x => (x.2.owner, x.1, x.2.part))
            let c := rs.foldl (fun (c : Chip) r => if r.2.2 then c else c.refTouch i r.1 r.2.1) c
            let c := if lGrad d && c.jobRuns i then
                c.onJob i (fun j => { j with unapplied := j.unapplied ++ parts.map (fun s => (s.1, s.2.1, c.reqs, s.2.2)) })
              else c
            let job : FrontJob :=
              { inst := i, tile := t, chan := dCh d, grad := lGrad d, desc := d, req := c.reqs, toSend := ms, unanswered := parts,
                got := [], cause := 0, full := false }
            let c : Chip := { c.wakeHub 0 with front := c.front ++ [job], reqs := c.reqs + 1 }
            .awaits (Chip.pumpFront c.unsent c)))

/-! At the front end (R199 to R202). -/

/-- Parts of a bag in ascending order of member and engine (R199). -/
def bagParts (got : List (Nat × Nat × List BagSum)) (b : Nat) : List BagSum :=
  (got.mergeSort (fun x y => x.1 < y.1 || (x.1 = y.1 && x.2.1 ≤ y.2.1))).flatMap (fun g => g.2.2.filter (fun s => s.bag = b))

/-- One bag merged: codes of FMT and the counts of R122; an empty bag is +0 (R198, R199). -/
def mergeBag (f : Fmt) (dim : Nat) (parts : List BagSum) : List Nat × Nat × Nat :=
  match parts with
  | [] => (List.replicate dim 0, 0, 0)
  | p :: r =>
    if p.whole && r.isEmpty then (p.vals.map (·.toNat), 0, 0)
    else
      let sums := r.foldl (fun (acc : List Num × Nat × Nat) q =>
        let x := rndRow (List.zipWith (fun a w => a.add (f32 w)) acc.1 q.vals)
        (x.1, cntAdd acc.2 x.2)) (p.vals.map f32, 0, 0)
      let cs := sums.1.map f.convert
      (cs.map (·.code), cntAdd sums.2 (cvCounts cs))

/-- The front end holds a LOOKUP whose sums wait for a gradient buffer (R200, R221). -/
def Chip.frontHeld (c : Chip) (f : FrontJob) : Bool :=
  let dim := ((c.tableOf f.inst (lTable f.desc)).map (fun t => tDim t.block)).getD 0
  f.unanswered.isEmpty && f.cause = 0 && !f.grad && refSpace (lDst f.desc) = 2 &&
    c.writeHeld f.inst (refAddr (lDst f.desc)) (lBags f.desc * dim * lSize f.desc)

/-- The front end has every answer of a descriptor: it faults, or its sums are written (R200). A full accumulator sets the
vote flag whatever the descriptor's fault says (R202). Nothing happens while DST lies in a gradient buffer that Bruin holds
(R221). -/
def Chip.finishFront (c : Chip) (f : FrontJob) : Chip :=
  let u := 2 + f.chan
  let drop := fun (c : Chip) => ({ c with front := dropFirst (fun x => decide (x = f)) c.front } : Chip).release f.tile f.chan (dOp f.desc)
  if !f.unanswered.isEmpty then c
  else if f.cause ≠ 0 then
    let c := c.fault f.tile (c.headSlot f.tile u) f.cause
    (drop (if f.full then c.setVote f.inst else c)).popUnit f.tile u
  else if f.grad then drop c
  else
    let d := f.desc
    let dim := ((c.tableOf f.inst (lTable d)).map (fun t => tDim t.block)).getD 0
    let g := fmtOf (lFmt d)
    let out := (List.range (lBags d)).map (fun b => mergeBag g dim (bagParts f.got b))
    let bytes := out.flatMap (fun o => g.pack o.1)
    if c.refHeld f.inst (lDst d) bytes.length true then c
    else
      let n := cntSum (out.map (·.2))
      let e := (c.countConv f.inst n.1 n.2).refWrite f.inst f.tile (lDst d) bytes
      let c := c.landed c e f.tile u
      drop (if dGrad d && nonFinite (lFmt d) bytes then c.setVote f.inst else c)

/-- An answer reaches the front end (R199 to R202); a batch that was refused will never be applied. -/
def Chip.takeAnswer (c : Chip) (r : LookupResult) : Chip :=
  let key := (r.member, r.engine, r.part)
  match c.front.find? (fun f => f.inst = r.inst && f.req = r.req && f.unanswered.contains key) with
  | none => c
  | some f =>
    let g : FrontJob :=
      { f with unanswered := f.unanswered.erase key, got := f.got ++ [(r.member, r.engine, r.sums)],
               cause := if f.cause = 0 then r.cause else f.cause, full := f.full || (f.grad && r.cause = caBadShape) }
    let c : Chip := { c with front := modFirst (fun x => decide (x = f)) (fun _ => g) c.front }
    let c := if f.grad && r.cause ≠ 0 then
        c.onJob r.inst (fun j => { j with unapplied := j.unapplied.erase (r.member, r.engine, r.req, r.part) })
      else c
    c.finishFront g

/-- LOOKUP_RESULT_RECEIVED (R19, R190, R199 to R203, R307): another member's engine answers a message, or acknowledges a batch
as applied, a hot row's value or a replicated slot, or marks its acknowledgements as stalled. The acknowledgements have no row
of their own (DESIGN CHOICE, log 49). -/
def execLookupResultReceived (r : LookupResult) (s : State) : Host.Outcome State Fault Refusal :=
  onChip s (fun c =>
    match r.kind with
    | .sums => (c.takeAnswer r).ctrLimit r.inst
    | .applied =>
      c.onJob r.inst (fun j =>
        let rest := j.unapplied.erase (r.member, r.engine, r.req, r.part)
        { j with unapplied := rest, marks := j.marks.filter (fun k => rest.any (fun u => (u.1, u.2.1) = k)) })
    | .stall on =>
      c.onJob r.inst (fun j =>
        let rest := j.marks.filter (· ≠ (r.member, r.engine))
        { j with marks := if on then rest ++ [(r.member, r.engine)] else rest })
    | .hotRow row => c.onJob r.inst (fun j => { j with unackedHot := j.unackedHot.erase (r.table, row, r.member) })
    | .slot row =>
      let hit := ((c.tableOf r.inst r.table).map (fun t => (t.engs.filter (fun e => e.2.unacked.contains (r.member, row))).map (·.1))).getD []
      match hit with
      | [] => c
      | e :: _ =>
        ((c.onEngTab r.inst r.table e (fun k => { k with unacked := k.unacked.erase (r.member, row) })).ackBatches r.inst e r.table).ctrLimit
          r.inst)

/-! At the engine (R198 to R202, R205, R210). -/

/-- The slot that serves a read of one record, and whether a replica does (R34, R192, R210). The log of every engine is
asked, for an extent takes its entries with it; the oldest entry since the read's epoch holds what the row was in it. -/
def Chip.servedSlot (c : Chip) (i : Nat) (t : Table) (m : ReqMsg) (r : Nat) : Option (List Byte × Bool) :=
  let here := m.member = (c.tableGroup t).2
  let rep := if here && m.kind ≠ .grad then
      (c.replica i t.num r).filter (fun x => m.kind ≠ .serve || x.installed ≤ m.epoch)
    else none
  match rep with
  | some x => some (x.slot, true)
  | none => match c.holds t r with
    | none => none
    | some l =>
      let slot := c.slotRead i t l
      if m.kind = .serve && m.epoch ≤ rowEpoch slot then
        match (t.engs.flatMap (fun e => e.2.log)).find? (fun g => m.epoch ≤ g.snap && g.row = l) with
        | some g => some (g.slot, false)
        | none => some (slot, false)
      else some (slot, false)

/-- What an engine keeps of a message's descriptor. -/
def Engine.pool (g : Engine) (m : ReqMsg) : List (Nat × List Word) :=
  ((g.pools.find? (fun p => p.inst = m.inst && p.member = m.member && p.req = m.req)).map (·.bags)).getD []

/-- The engine keeps it until the descriptor's last message to it. -/
def Engine.keep (g : Engine) (m : ReqMsg) (bags : List (Nat × List Word)) : Engine :=
  let rest := g.pools.filter (fun p => !(p.inst = m.inst && p.member = m.member && p.req = m.req))
  { g with pools := if m.last then rest else rest ++ [{ inst := m.inst, member := m.member, req := m.req, bags := bags }] }

/-- Put a value under a bag, in the order in which the bags came. -/
def putBag (bags : List (Nat × List Word)) (b : Nat) (v : List Word) : List (Nat × List Word) :=
  if bags.any (fun x => x.1 = b) then bags.map (fun x => if x.1 = b then (b, v) else x) else bags ++ [(b, v)]

/-- The records of a message pooled, each into its bag's sum (R198): the sums, and the counts of R122. -/
def Chip.poolRecords (c : Chip) (i : Nat) (t : Table) (m : ReqMsg) (start : List (Nat × List Word)) :
    List (Nat × List Word) × Nat × Nat :=
  let dim := tDim t.block
  m.records.foldl (fun (acc : List (Nat × List Word) × Nat × Nat) r =>
    match c.servedSlot i t m r.row with
    | none => acc
    | some s =>
      let old := (((acc.1.find? (fun x => x.1 = r.bag)).map (·.2)).getD (List.replicate dim 0)).map f32
      let x := fmaRow (f32 r.weight) (slotVals dim s.1) old
      (putBag acc.1 r.bag (x.1.map (·.f32Bits)), cntAdd acc.2 x.2)) (start, 0, 0)

/-- The answer to a lookup's last message: a whole bag's sum rounded once to FMT, another's as an F32 partial (R199). -/
def bagAnswers (m : ReqMsg) (bags : List (Nat × List Word)) : List BagSum × Nat × Nat :=
  let f := fmtOf m.fmt
  let out := bags.map (fun b =>
    if m.wholeBags.contains b.1 then
      let cs := (b.2.map f32).map f.convert
      (({ bag := b.1, whole := true, vals := cs.map (fun k => BitVec.ofNat 32 k.code) } : BagSum), cvCounts cs)
    else ({ bag := b.1, whole := false, vals := b.2 }, (0, 0)))
  (out.map (·.1), cntSum (out.map (·.2)))

/-- The sketch counts the rows of a training lookup that no replica served (R205). -/
def Chip.sketchRows (c : Chip) (i e : Nat) (t : Table) (m : ReqMsg) : Chip :=
  let rows := (m.records.filter (fun r => (c.servedSlot i t m r.row).any (fun s => !s.2))).map (·.row)
  c.onEngTab i t.num e (fun k => { k with sketch := rows.foldl (fun (s : Tab Half) r =>
    (sketchKeys r).foldl (fun (s : Tab Half) a => tmod 0 s a (fun v => satAdd v 1)) s) k.sketch })

/-- The slots that a message reads are touched (R162), and poison in them is met (R383). -/
def Chip.touchRows (c : Chip) (i : Nat) (t : Table) (m : ReqMsg) : Chip :=
  m.records.foldl (fun (c : Chip) r =>
    match c.servedSlot i t m r.row, c.holds t r.row, c.shareOf i t.num with
    | some (_, false), some l, some o => c.readMarks i o (o.addr + slotOff t.block l) (rowSlotBytes t.block)
    | _, _, _ => c) c

/-- A contribution to a row's entry (R201, R202): the accumulator, and the counts of R122; none where it is full. -/
def addGrad (room : Nat) (l : Nat) (w : Num) (g : List Num) (acc : List AccEntry) : Option (List AccEntry × Nat × Nat) :=
  match acc.find? (fun a => a.row = l) with
  | some old =>
    let x := fmaRow w g (old.vals.map f32)
    some (acc.map (fun a => if a.row = l then { a with vals := x.1.map (·.f32Bits) } else a), x.2)
  | none =>
    if room ≤ acc.length then none
    else
      let x := fmaRow w g (g.map (fun _ => Num.zero))
      some (acc ++ [{ row := l, vals := x.1.map (·.f32Bits) }], x.2)

/-- One record of a row gradient goes into the accumulator of the engine on which its row lies (R192, R201), the message's
engine where it lies on none; whether it was refused (R202). -/
def Chip.holdRecord (c : Chip) (i e : Nat) (t : Table) (m : ReqMsg) (bags : List (Nat × List Word)) (r : ReqRecord) : Chip × Bool :=
  match c.holds t r.row with
  | none => (c, false)
  | some l =>
    let at' := (c.engineAt i t l).getD e
    let k := ((c.tableOf i t.num).getD t).eng at'
    let g := (((bags.find? (fun x => x.1 = r.bag)).map (·.2)).getD []).map f32
    match addGrad (tAccRows t.block) l (f32 r.weight) g k.acc with
    | none => (c, true)
    | some (acc, n) =>
      let b := (m.member, m.req, m.part, e)
      ((c.onEngTab i t.num at' (fun k => { k with
        acc := acc, batches := if k.batches.contains b then k.batches else k.batches ++ [b] })).countConv i n.1 n.2, false)

/-- A row-gradient message held (R201, R202): a refused one is listed at no engine, for it will never be acknowledged as
applied. -/
def Chip.holdGrads (c : Chip) (i e : Nat) (t : Table) (m : ReqMsg) (bags : List (Nat × List Word)) : Chip × Bool :=
  let r := m.records.foldl (fun (a : Chip × Bool) r =>
    let x := a.1.holdRecord i e t m bags r
    (x.1, a.2 || x.2)) (c, false)
  let b := (m.member, m.req, m.part, e)
  if r.2 then
    (r.1.onTable i t.num (fun t => { t with engs := t.engs.map (fun x => (x.1, { x.2 with batches := x.2.batches.filter (· ≠ b) })) }), true)
  else
    (r.1.onEngTab i t.num e (fun k => { k with batches := if k.batches.contains b then k.batches else k.batches ++ [b] }), false)

/-- The answer goes to the front end that asked: this device's own, or another member's (R199, R274). -/
def Chip.answerMsg (c : Chip) (e me : Nat) (m : ReqMsg) (cause : Nat) (sums : List BagSum) : Chip :=
  let r : LookupResult :=
    { inst := m.inst, kind := .sums, table := m.table, req := m.req, part := m.part, member := m.owner, engine := e,
      cause := cause, sums := sums }
  if m.member = me then c.takeAnswer r
  else
    let size := fun (s : BagSum) => if s.whole && m.fmt ≠ 0 then 2 else 4
    match c.tableOf m.inst m.table with
    | none => c
    | some t => c.sendUnit m.inst (tGroup t.block) m.member 0x00 (engineUnit e) 1 2
        (Config.fabricBytes 2 (leBytes 8 m.req ++ leBytes 8 m.part ++ leBytes 1 cause) ++
          sums.flatMap (fun s => leBytes 3 s.bag ++ s.vals.flatMap (fun v => leBytes (size s) v.toNat)))

/-- A serving read may be served (R32, R38): its snapshot is published, or is retired and reads of it may still be in
flight at the engine. -/
def Chip.snapOpen (c : Chip) (i e : Nat) (t : Table) (p : Nat) : Bool :=
  ((c.inst i).snapValid && (c.inst i).snapEpoch = p) || ((c.inst i).oldSnaps.contains p && !(t.eng e).closed.contains p)

/-- An engine serves a request message (R13, R34, R190, R198 to R202, R205, R210). -/
def Chip.serveRequest (c : Chip) (e : Nat) (m : ReqMsg) : Chip :=
  let i := m.inst
  match c.tableOf i m.table with
  | none => c.answerMsg e m.owner m caNoTable []
  | some t =>
    let me := (c.tableGroup t).2
    let old := (c.engine e).pool m
    if t.digest ≠ m.digest then c.answerMsg e me m caNoTable []
    else match m.kind with
      | .grad =>
        let bags := old ++ m.grads
        let c := c.setEngine e ((c.engine e).keep m bags)
        let r := c.holdGrads i e t m bags
        r.1.answerMsg e me m (if r.2 then caBadShape else 0) []
      | _ =>
        if m.kind = .serve && !c.snapOpen i e t m.epoch then c.answerMsg e me m caStaleSnapshot []
        else
          let r := c.poolRecords i t m old
          let out := if m.last then bagAnswers m r.1 else ([], 0, 0)
          let n := cntAdd r.2 out.2
          let c := if m.kind = .lookup then c.sketchRows i e t m else c
          let c := (c.touchRows i t m).setEngine e ((c.engine e).keep m r.1)
          (c.countConv i n.1 n.2).answerMsg e me m 0 out.1

/-- The first message that an instance's source has at an engine, the sources of the instance taking turns (R194). -/
def Engine.nextOf (g : Engine) (i : Nat) : Option (Nat × ReqMsg) :=
  let s := tget 0 g.srcTurn i
  (((List.range 35).map (fun d => (s + 1 + d) % 35)).filterMap (fun src =>
    g.queue.find? (fun x => x.1 = src && x.2.inst = i))).head?

/-- A message waits: a slot that it reads lies in an extent in the commit of its move (R168) or in a window (R175). -/
def Chip.requestHeld (c : Chip) (m : ReqMsg) : Bool :=
  match c.tableOf m.inst m.table with
  | none => false
  | some t => m.kind ≠ .grad && m.records.any (fun r => (c.holds t r.row).any (fun l => c.slotHeld m.inst t l false))

/-- ENGINE_REQUEST_MESSAGE (R28, R192 to R194, R198 to R202, R205, R210, R352): the messages that have come over the links
enter the engine's queue, each in an entry of its source, and the engine takes its next one: the instances by weighted round
robin, the sources of an instance in turn, each source's messages as they came. A message that finds no entry is one that no
source may send; it is left out (log 52). -/
def execEngineRequestMessage (e : Nat) (arrived : List (Nat × ReqMsg)) (s : State) : Host.Outcome State Fault Refusal :=
  onChip s (fun c =>
    let c := arrived.foldl (fun (c : Chip) x =>
      if x.1 < 32 && (c.engine e).room (1 + x.1) then c.enqueue e (1 + x.1) x.2 else c) c
    let g := c.engine e
    match nextTurn g.turn (fun i => (g.nextOf i).isSome) (c.weight (if e < 16 then 0 else 1)) with
    | none => c
    | some turn => match g.nextOf turn.1 with
      | none => c
      | some (src, m) =>
        if c.requestHeld m then c
        else
          let here := fun (x : Nat × ReqMsg) => decide (x.1 = src ∧ x.2 = m)
          let c := c.setEngine e { g with
            queue := dropFirst here g.queue, turn := turn, srcTurn := tput g.srcTurn turn.1 src, gated := false }
          let c := c.serveRequest e m
          (Chip.pumpFront c.unsent c).ctrLimit m.inst)


end Sys2Proof.Machine
end

