-- ==== Sys2Proof/Machine/Seq.lean ====
section
/-! DEFINITION. Tile semaphores (R232 to R245), hub semaphores and host waits (R246 to R254), the tile's sequencer (R85 to
R87, R95 to R97, R113 to R115) and its units' queues. A descriptor's effect takes place whole when its unit runs it; until
it completes, what it wrote in a tile store reads as old or new (R84; DESIGN CHOICE, log 55). -/

namespace Sys2Proof.Machine

/-! Tile semaphores (R232 to R241). -/

def Tile.sem (k : Tile) (n : Nat) : Nat := (tget 0 k.sems n).toNat

/-- The sequencer's pending wait is tested (R240): when it is satisfied, COUNT is subtracted, and a gated tile wakes
(R243). -/
def Chip.testHold (c : Chip) (t : Nat) : Chip :=
  let k := c.tile t
  match k.hold with
  | none => c
  | some h =>
    if h.satisfied || k.sem h.sem < h.count then c
    else c.setTile t { k with sems := tput k.sems h.sem (BitVec.ofNat 16 (k.sem h.sem - h.count)),
                              hold := some { h with satisfied := true }, gated := false }

/-- The value after an update, or the cause of its fault (R235). -/
def semAdd (top : Nat) (v : Nat) (count : Int) : Nat ⊕ Nat :=
  let w : Int := (v : Int) + count
  if w < 0 then .inr caSemUnderflow else if (top : Int) < w then .inr caSemOverflow else .inl w.toNat

/-- Where a signal or its acknowledgement travels from (R90): a tile, or 1,600 for the hub. -/
def Sender.origin : Sender → Nat
  | .tile t _ => t
  | .host _ => 1600

/-- What the sender of an update learns of it (R235, R238, R239, R253): tile t's own descriptor at once, another tile's by
an acknowledgement, a HOST_SIGNAL by its reply. -/
def Chip.semAnswer (c : Chip) (t : Nat) (sender : Sender) (cause : Nat) : Chip :=
  match sender with
  | .tile u slot =>
    if u = t then (if cause = 0 then c else c.fault t slot cause)
    else { c with acks := c.acks ++ [{ target := u, source := t, slot := slot, cause := cause }] }
  | .host cmd =>
    if cause = 0 then c.reply cmd.queue cmd.tag stOK 0 0 []
    else c.reply cmd.queue cmd.tag stDescriptorError (errorWord 0 0x7FF cause).toNat 0 []

/-- Apply one update to a semaphore of tile t (R235). -/
def Chip.semApply (c : Chip) (t : Nat) (u : Due) : Chip :=
  let k := c.tile t
  match semAdd 65535 (k.sem u.sem) u.count with
  | .inr cause => c.semAnswer t u.sender cause
  | .inl v => (c.setTile t { k with sems := tput k.sems u.sem (BitVec.ofNat 16 v) }).semAnswer t u.sender 0

/-- The updates due in a tc in the order of R240. -/
def dueOrder (us : List Due) : List Due := (List.range 6).flatMap (fun r => us.filter (fun u => u.rank = r))

/-- One tc of tile t's semaphore block (R240): every update that is due, then the pending wait. -/
def Chip.semBlock (c : Chip) (t : Nat) : Chip :=
  let us := (c.tile t).due
  if us.isEmpty then c
  else ((dueOrder us).foldl (fun (c : Chip) u => c.semApply t u) (c.onTile t (fun k => { k with due := [] }))).testHold t

/-- An update of a semaphore of tile t is due (R237, R240). -/
def Chip.semDue (c : Chip) (t : Nat) (u : Due) : Chip := c.onTile t (fun k => { k with due := k.due ++ [u] })

/-- A signal from tile t's descriptor at a store offset (R235, R237, R238), of a rank of R240 where it is for the tile's own
semaphore; 7FFh names the tile itself. -/
def Chip.sendSignal (c : Chip) (t slot rank target sem : Nat) (count : Int) : Chip :=
  if target = 0x7FF || target = t then c.semDue t { rank := rank, sem := sem, count := count, sender := .tile t slot }
  else
    let c := c.onTile t (fun k => { k with unacked := k.unacked + 1 })
    { c with sigs := c.sigs ++ [{ target := target, sem := sem, count := count, sender := .tile t slot }] }

/-- The header SIG of a descriptor of unit u once it has completed, or of a control descriptor once it has run, which
counts with the sequencer's own (R87, R234, R240). -/
def Chip.headSig (c : Chip) (t slot rank : Nat) (d : Desc) : Chip :=
  if dSig d then c.sendSignal t slot rank (dSigTile d) (dSigSem d) 1 else c

/-- SEMAPHORE_SIGNAL_RECEIVED (R239, R240, R253): the network ejects the oldest signal that the sender has in flight to
tile t; of those of several senders any may come first (R89 to R92). It is due in this tc, in which the network ejects no
second one; on a tile that does not run it is discarded. -/
def execSemaphoreSignalReceived (t sender : Nat) (s : State) : Host.Outcome State Fault Refusal :=
  onChip s (fun c =>
    let mine := fun (x : Sig) => x.target = t && x.sender.origin = sender
    match c.sigs.find? mine with
    | none => c
    | some x =>
      if (c.tile t).due.any (fun u => u.rank = 5) then c
      else
        let c : Chip := { c with sigs := dropFirst mine c.sigs }
        if (c.tile t).run ≠ .running then c.semAnswer t x.sender caSemResidue
        else c.semDue t { rank := 5, sem := x.sem, count := x.count, sender := x.sender })

/-- SIGNAL_ACK_RECEIVED (R235, R238, R239): the oldest acknowledgement in flight to tile t from a tile or the hub. -/
def execSignalAckReceived (t source : Nat) (s : State) : Host.Outcome State Fault Refusal :=
  onChip s (fun c =>
    let mine := fun (x : Ack) => x.target = t && x.source = source
    match c.acks.find? mine with
    | none => c
    | some x =>
      let c : Chip := { c with acks := dropFirst mine c.acks }
      let c := if x.cause = 0 then c else c.fault t x.slot x.cause
      c.onTile t (fun k => { k with unacked := k.unacked - 1 }))

/-! Hub semaphores (R246 to R254). -/

/-- Pending host waits of one hub semaphore are tested, the oldest first (R249); `fuel` bounds how many. -/
def Chip.hubTest (i sem : Nat) : Nat → Chip → Chip
  | 0, c => c
  | fuel + 1, c =>
    match (c.inst i).waits.find? (fun w => w.sem = sem) with
    | none => c
    | some w =>
      let v := (tget 0 (c.inst i).hubSems sem).toNat
      if v < w.count then c
      else
        let c := c.onInst i (fun x => { x with
          hubSems := tput x.hubSems sem (BitVec.ofNat 32 (v - w.count)),
          waits := dropFirst (fun y => decide (y.sem = sem)) x.waits })
        Chip.hubTest i sem fuel (c.commandDone w.cmd stOK (v - w.count))

/-- An update of a hub semaphore (R247, R249): its fault, or the value after it and the chip once the waits are tested. -/
def Chip.hubAdd (c : Chip) (i sem : Nat) (count : Int) : Nat ⊕ (Nat × Chip) :=
  match semAdd 4294967295 (tget 0 (c.inst i).hubSems sem).toNat count with
  | .inr cause => .inl cause
  | .inl v =>
    .inr (v, Chip.hubTest i sem (c.inst i).waits.length
      (c.onInst i (fun x => { x with hubSems := tput x.hubSems sem (BitVec.ofNat 32 v) })))

/-- HOST_SIGNAL by its OP (R250 to R254). -/
def Chip.hostSignal (c : Chip) (p : Icp) : Verdict :=
  let i := p.who
  let op := p.par 0 1
  let tile := p.bits 26 16
  let sem := p.bits 45 40
  let count := toSigned 32 (p.par 8 4)
  let off := p.par 12 4
  let plen := p.par 16 4
  let v := (tget 0 (c.inst i).hubSems sem).toNat
  if 3 < op then badParam 0
  else if op = 0 && 4096 < plen then .refuse stInlineTooLong plen
  else if op = 0 && !c.ownsTile i tile then badParam 2
  else if op < 3 && count = 0 then badParam 8
  else if op = 0 && !(-65535 ≤ count && count ≤ 65535) then badParam 8
  else if op = 2 && count < 0 then badParam 8
  else if op = 0 && (off % 64 ≠ 0 || 1048576 ≤ off) then badParam 12
  else if op = 0 && plen % 64 ≠ 0 then badParam 16
  else if op = 0 && 1048576 < off + plen then badParam 12
  else if op ≠ 0 && plen ≠ 0 then badParam 16
  else if op = 0 then
    let c := c.storeWrite tile off (cut p.params 32 plen)
    .later { c with sigs := c.sigs ++ [{ target := tile, sem := sem, count := count, sender := .host (c.refOf p) }] }
  else if op = 1 then
    match c.hubAdd i sem count with
    | .inl cause => .refuse stDescriptorError (errorWord 0 0x7FF cause).toNat
    | .inr r => .done r.1 [] r.2
  else if op = 2 then
    if 256 ≤ (c.inst i).waits.length then c.badState p
    else if count ≤ (v : Int) && !(c.inst i).waits.any (fun w => w.sem = sem) then
      .done (v - count.toNat) []
        (c.onInst i (fun x => { x with hubSems := tput x.hubSems sem (BitVec.ofNat 32 (v - count.toNat)) }))
    else .pending (c.onInst i (fun x => { x with waits := x.waits ++ [{ sem := sem, count := count.toNat, cmd := (c.refOf p) }] }))
  else .done v [] c

/-- HOST_SIGNAL OP 00h (R251 to R253). -/
def execHostSignalTile (p : Icp) (s : State) : Host.Outcome State Fault Refusal := icp 0x56 p s (fun c p => c.hostSignal p)
/-- HOST_SIGNAL OP 01h (R249, R251 to R253). -/
def execHostSignalHub (p : Icp) (s : State) : Host.Outcome State Fault Refusal := icp 0x56 p s (fun c p => c.hostSignal p)
/-- HOST_SIGNAL OP 02h (R249, R251, R252, R254). -/
def execHostSignalWait (p : Icp) (s : State) : Host.Outcome State Fault Refusal := icp 0x56 p s (fun c p => c.hostSignal p)
/-- HOST_SIGNAL OP 03h (R251, R252). -/
def execHostSignalRead (p : Icp) (s : State) : Host.Outcome State Fault Refusal := icp 0x56 p s (fun c p => c.hostSignal p)

/-! Fields of the control body (R113). -/
def kEpoch (d : Desc) : Nat := dbits d 383 336
def kInc (d : Desc) (n : Nat) : Int := toSigned 32 (dbits d (255 + 32 * n) (224 + 32 * n))
def kCount (d : Desc) : Nat := dbits d 223 192
def kTarget (d : Desc) : Int := toSigned 16 (dbits d 191 176)
def kSpan (d : Desc) : Nat := dbits d 175 168
def kTile (d : Desc) : Nat := dbits d 159 149
def kSem (d : Desc) : Nat := dbits d 148 143

/-! Units (R85, R86). -/

/-- Every unit queue is empty. -/
def Tile.unitsEmpty (k : Tile) : Bool := k.units.all (fun u => u.2.isEmpty)

/-- What a unit makes of a descriptor (R100), with the loss-scale exponent of its issue (R138). -/
def Chip.runDesc (c : Chip) (i t l : Nat) (d : Desc) : Ran :=
  let op := dOp d
  if op = 0x00 then c.opCopy i t d
  else if op = 0x01 then c.opCopy2d i t d
  else if op = 0x02 then c.opFill i t d
  else if op = 0x03 then c.opGather i t d
  else if op = 0x04 then c.opScatter i t d
  else if op = 0x05 then c.opStashPut i t d
  else if op = 0x06 then c.opStashGet i t d
  else if op = 0x10 || op = 0x11 then c.opMatmul i t d
  else if op = 0x12 then c.opMatmulSplit i t d
  else if op = 0x35 || op = 0x36 then c.opRandom i t d
  else if 0x32 ≤ op && op ≤ 0x34 then c.opReduce i t d
  else if 0x20 ≤ op && op ≤ 0x31 then c.opVector i t d
  else if op = 0x40 then c.opCvt i t d
  else if op = 0x41 then c.opScalePass i t d
  else if op = 0x42 then c.opCvtGrad i t l d
  else if op = 0x50 || op = 0x51 then c.opLookup i t d
  else if op = 0x52 then c.opColl i t d
  else .fault caBadOp

/-- The unit runs the descriptor at the head of its queue; one that faults leaves it, and the next runs (R86, R96).
`fuel` bounds how many. -/
def Chip.runHead (i t u : Nat) : Nat → Chip → Chip
  | 0, c => c
  | fuel + 1, c =>
    match (c.tile t).unitQ u with
    | [] => c
    | e :: _ =>
      if e.ran then c
      else
        let mark := fun (c : Chip) (w : Bool) => c.onTile t (fun k =>
          { k with units := tmod [] k.units u (fun q => q.mapIdx (fun n x => if n = 0 then { x with ran := true, awaits := w } else x)) })
        let v := c.view
        match v.runDesc i t e.lexp e.desc with
        | .held => c
        | .fault cause => Chip.runHead i t u fuel ((c.fault t e.slot cause).popUnit t u)
        | .gone d => Chip.runHead i t u fuel ((c.landed v d t u).settleWrites t u)
        | .done d => mark (c.landed v d t u) false
        | .awaits d => mark (c.landed v d t u) true

/-- Tile-store ranges of a move or a LOOKUP that its bits give: reference and bytes. -/
def Chip.tileRanges (c : Chip) (i : Nat) (d : Desc) : List (RefBits × Nat) :=
  let op := dOp d
  let n := vLength d
  let src := spanOf (vRows d) (vSstride d) n
  let dst := spanOf (vRows d) (vDstride d) n
  let rs : List (RefBits × Nat) :=
    if op = 0x00 then [(vSrc d, n), (vDst d, n)]
    else if op = 0x01 then [(vSrc d, src), (vDst d, dst)]
    else if op = 0x02 then [(vDst d, n)]
    else if op = 0x03 then [(vIndex d, 4 * vRows d), (vDst d, dst)]
    else if op = 0x04 then [(vIndex d, 4 * vRows d), (vSrc d, src)]
    else if op = 0x50 || op = 0x51 then
      (lRanges d (((c.tableOf i (lTable d)).map (fun t => tDim t.block)).getD 0)).map (fun r => (r.1, r.2.1))
    else []
  rs.filter (fun r => refSpace r.1 < 2)

/-- Faults of a unit's descriptor that are found before it issues (R96). -/
def Chip.unitFault (c : Chip) (i : Nat) (d : Desc) : Option Nat :=
  let op := dOp d
  let f := match opClass op with
    | some .move =>
      if op = 0x05 || op = 0x06 then c.stashFault i d (op = 0x05)
      else c.moveFault i d (op = 0x03 || op = 0x04) (op = 0x01 || op = 0x03 || op = 0x04)
    | some .matrix => c.mFault i d
    | some .exchange => if op = 0x52 then cStatic d else c.lookupFault i d
    | _ => c.vFault i d
  f.orElse (fun _ => if (c.tileRanges i d).any (fun r => offStore r.1 r.2) then some caStoreRange else none)

/-! The sequencer. -/

/-- Where the sequencer goes after the descriptor before offset n: round the innermost span, or past it (R113, R114). -/
def loopNext : List Loop → Nat → Nat × List Loop
  | [], n => (n, [])
  | l :: r, n =>
    if n = l.past then
      if l.iter + 1 < l.count then (l.first, { l with iter := l.iter + 1 } :: r) else loopNext r n
    else (n, l :: r)

/-- Continue at an offset under the REPEATs in progress; past F_FFC0h the fetch faults at the last descriptor (R96;
DEDUCED, log 56). -/
def Chip.goTo (c : Chip) (t slot n : Nat) (ls : List Loop) : Chip :=
  let r := loopNext ls n
  if storeBytes ≤ r.1 then c.fault t slot caRunOff
  else c.onTile t (fun k => { k with pc := r.1, loops := r.2 })

/-- Continue at the next descriptor. -/
def Chip.advance (c : Chip) (t slot : Nat) : Chip := c.goTo t slot (slot + 64) (c.tile t).loops

/-- The offset that TARGET names; none outside the tile store or the innermost span (R96, R114). -/
def targetOf (slot : Nat) (ls : List Loop) (d : Desc) : Option Nat :=
  let n : Int := (slot : Int) + 64 * kTarget d
  if n < 0 || (storeBytes : Int) ≤ n then none
  else
    let m := n.toNat
    match ls with
    | [] => some m
    | l :: _ => if l.first ≤ m && m < l.past then some m else none

/-- Faults of a control descriptor that its bits and its place show (R8, R113, R114, R234, R247). -/
def Chip.controlFault (c : Chip) (i slot : Nat) (ls : List Loop) (d : Desc) : Option Nat :=
  let op := dOp d
  let n := toSigned 32 (kCount d)
  let past := slot + 64 + 64 * kSpan d
  firstFault
    [(dbits d 511 384 ≠ 0 || dbits d 335 320 ≠ 0 || dbits d 167 160 ≠ 0 || dbits d 142 64 ≠ 0, caRsvField),
     (op = 0x73 && kTile d ≠ 0x7FF && !c.ownsTile i (kTile d), caForeignTile),
     (op = 0x71 && (kCount d = 0 || kSpan d = 0 || 64 < kSpan d), caBadShape),
     (op = 0x72 && !(1 ≤ n && n ≤ 65535), caBadShape),
     (op = 0x73 && (n = 0 || n < -65535 || 65535 < n), caBadShape),
     (op = 0x74 && !(0 ≤ n && n ≤ 65535), caBadShape),
     (op = 0x78 && (n = 0 || n = -2147483648), caBadShape),
     (op = 0x71 && (4 ≤ ls.length || ls.head?.any (fun l => l.past < past)), caRepeatNest),
     ((op = 0x74 || op = 0x75) && (targetOf slot ls d).isNone, caBadTarget)]

/-- Why a fetched descriptor faults before it issues, if it does (R96, R97, R234). -/
def Chip.fetchFault (c : Chip) (i slot : Nat) (ls : List Loop) (d : Desc) : Option Nat :=
  let incs := loopIncs ls
  (firstFault
    [(headRsv d, caRsvField), ((opClass (dOp d)).isNone, caBadOp),
     (dSig d && dSigTile d ≠ 0x7FF && !c.ownsTile i (dSigTile d), caForeignTile)]).orElse (fun _ =>
    if opClass (dOp d) = some .control then c.controlFault i slot ls d
    else
      let moved := fun k inc => bumpLeaves (dRef d k) inc
      let off := fun k => refSpace (dRef d k) < 2
      (c.unitFault i (bumped d incs)).orElse (fun _ =>
        if ls.isEmpty then none
        else firstFault
          [((moved 0 incs.1 && off 0) || (moved 1 incs.2.1 && off 1) || (moved 2 incs.2.2 && off 2), caStoreRange),
           (moved 0 incs.1 || moved 1 incs.2.1 || moved 2 incs.2.2, caAddrFault)]))

/-- STEP_CLOSE by a descriptor (R16, R115): the first of the epoch starts the close; its own program still runs. -/
def Chip.stepCloseDesc (c : Chip) (i t slot : Nat) (d : Desc) : Chip :=
  let j := c.job i
  if !c.jobRuns i || kEpoch d ≠ j.epoch then c.fault t slot caWrongEpoch
  else
    let c := if j.close = .none then c.onJob i (fun j => { j with close := .pending }) else c
    (c.headSig t slot 0 d).advance t slot

/-- HOST_SIGNAL by a descriptor (R247 to R249): the hub's acknowledgement carries the fault back (R238, R239). -/
def Chip.hubSignalDesc (c : Chip) (i t slot : Nat) (d : Desc) : Chip :=
  let c := c.onTile t (fun k => { k with unacked := k.unacked + 1 })
  let r := match c.hubAdd i (kSem d) (toSigned 32 (kCount d)) with
    | .inl cause => (c, cause)
    | .inr v => (v.2, 0)
  let c : Chip := { r.1 with acks := r.1.acks ++ [{ target := t, source := 1600, slot := slot, cause := r.2 }] }
  (c.headSig t slot 0 d).advance t slot

/-- A control descriptor that has passed its waits (R100, R113 to R115, R234, R236). -/
def Chip.control (c : Chip) (i t : Nat) (d : Desc) : Chip :=
  let k := c.tile t
  let slot := k.pc
  let op := dOp d
  let next := fun (c : Chip) => (c.headSig t slot 0 d).advance t slot
  if op = 0x71 then
    let l : Loop := { first := slot + 64, past := slot + 64 + 64 * kSpan d, count := kCount d, iter := 0,
                      inc1 := kInc d 0, inc2 := kInc d 1, inc3 := kInc d 2 }
    (c.headSig t slot 0 d).goTo t slot (slot + 64) (l :: k.loops)
  else if op = 0x72 then
    if kCount d ≤ k.sem (kSem d) then
      next (c.setTile t { k with sems := tput k.sems (kSem d) (BitVec.ofNat 16 (k.sem (kSem d) - kCount d)) })
    else c.setTile t { k with hold := some { sem := kSem d, count := kCount d, desc := d, header := false, satisfied := false } }
  else if op = 0x73 then
    next (c.sendSignal t slot 0 (kTile d) (kSem d) (toSigned 32 (kCount d)))
  else if op = 0x74 && k.sem (kSem d) < kCount d then next c
  else if op = 0x74 || op = 0x75 then
    match targetOf slot k.loops d with
    | none => c.fault t slot caBadTarget
    | some n => (c.headSig t slot 0 d).onTile t (fun k => { k with pc := n })
  else if op = 0x77 then c.stepCloseDesc i t slot d
  else if op = 0x78 then c.hubSignalDesc i t slot d
  else if op = 0x7F then (c.headSig t slot 0 d).onTile t (fun k => { k with ended := true })
  else next c

/-- A descriptor that has passed its fence and its header wait issues: to its unit, or in the sequencer (R85). -/
def Chip.start (c : Chip) (i t : Nat) (d : Desc) : Chip :=
  let k := c.tile t
  match unitOf d with
  | none => c.control i t d
  | some u =>
    let e : Issued :=
      { slot := k.pc, desc := bumped d (loopIncs k.loops), ran := false, awaits := false, lexp := (c.job i).lexp }
    let first := (k.unitQ u).isEmpty
    let c := (c.setTile t { k with units := tput k.units u (k.unitQ u ++ [e]) }).advance t k.pc
    if first then Chip.runHead i t u 1 c else c

/-- The descriptor is a fence, or carries one (R97, R248). -/
def fences (d : Desc) : Bool := dFence d || dOp d = 0x76 || dOp d = 0x78

/-- The sequencer waits for the units before it takes this descriptor: a fence, or a full queue (R85, R97, R248). A
descriptor that its unit is running counts as one of the queue's 8 until it completes (DESIGN CHOICE, log 57). -/
def Tile.stalls (k : Tile) (d : Desc) : Bool :=
  (fences d && !k.unitsEmpty) || (unitOf d).any (fun u => 8 ≤ (k.unitQ u).length)

/-- A fence has passed: what the program wrote before it is what the sequencer fetches from now on (R85). -/
def Chip.passFence (c : Chip) (t : Nat) (d : Desc) : Chip :=
  if fences d then c.onTile t (fun k => { k with before := k.before.filter (fun b => !b.closed) }) else c

/-- Tile t's sequencer fetches the descriptor d, where that is what stands at its offset of the store, and takes it (R85,
R96, R236). Nothing happens on a tile that fetches none now: not running, ended, held, or stalled behind its units (log 57).
A fault that the descriptor's bits show is raised at the fetch, before its fence, its wait and its unit's queue, which R96
leaves open (DESIGN CHOICE, log 57). A tile that another one's fault stops in this tc still fetches in it, and reports its
own fault (R96). -/
def Chip.issue (c : Chip) (t : Nat) (d : Desc) : Chip :=
  let k := c.tile t
  match c.ownerOf t with
  | none => c
  | some i =>
    if k.ended || k.hold.isSome || !c.stands t k.pc d then c
    else if k.run = .stopping && k.stopTc = some c.tc then
      (match c.fetchFault i k.pc k.loops d with
      | some f => (c.fault t k.pc f).onTile t (fun k => { k with stopTc := none })
      | none => c)
    else if k.run ≠ .running then c
    else match c.fetchFault i k.pc k.loops d with
      | some f => (c.fault t k.pc f).onTile t (fun k => { k with stopTc := none })
      | none =>
        if k.stalls d then c
        else
        let c := c.passFence t d
        let k := c.tile t
        if !dWait d then c.start i t d
        else if k.sem (dWaitSem d) = 0 then
          c.setTile t { k with hold := some { sem := dWaitSem d, count := 1, desc := d, header := true, satisfied := false } }
        else
          (c.setTile t { k with sems := tput k.sems (dWaitSem d) (BitVec.ofNat 16 (k.sem (dWaitSem d) - 1)) }).start i t d

/-- WAIT_RELEASE (R241): a satisfied wait releases its descriptor. -/
def execWaitRelease (t : Nat) (s : State) : Host.Outcome State Fault Refusal :=
  onChip s (fun c =>
    let k := c.tile t
    match k.hold, c.ownerOf t with
    | some h, some i =>
      if !h.satisfied then c
      else
        let c := c.setTile t { k with hold := none }
        if h.header then c.start i t h.desc else (c.headSig t k.pc 0 h.desc).advance t k.pc
    | _, _ => c)

/-- A descriptor at the head of its unit has run, waits for nobody, and its last write is visible (R87, R310). -/
def Chip.descOver (c : Chip) (i : Nat) (e : Issued) : Bool :=
  e.ran && !e.awaits && !(dOp e.desc = 0x12 && c.splitPending i e.desc)

/-- Retry a LOOKUP whose sums could not be written yet (R200, R221). -/
def Chip.retryFront (c : Chip) (t u : Nat) : Chip :=
  match c.front.find? (fun f => f.tile = t && u = 2 + f.chan) with
  | some f => c.finishFront f
  | none => c

/-- DESCRIPTOR_COMPLETE (R86, R87): the head of unit u completes, its SIG is signalled, and the next one runs. One that
was held tries again here (DESIGN CHOICE, log 86). -/
def execDescriptorComplete (t u : Nat) (s : State) : Host.Outcome State Fault Refusal :=
  onChip s (fun c =>
    match c.ownerOf t, (c.tile t).unitQ u with
    | some i, e :: r =>
      let c := if !e.ran then Chip.runHead i t u (r.length + 1) c else if e.awaits then c.retryFront t u else c
      match (c.tile t).unitQ u with
      | [] => c
      | f :: q =>
        if q.length < r.length || !c.descOver i f then c
        else Chip.runHead i t u (r.length + 1) (((c.settleWrites t u).popUnit t u).headSig t f.slot (u + 1) f.desc)
    | _, _ => c)

/-! The descriptors' rows. -/

/-- COPY (R100, R102). -/
def execCopy (t : Nat) (d : Desc) (s : State) : Host.Outcome State Fault Refusal := onChip s (fun c => c.issue t d)
/-- COPY2D (R100). -/
def execCopy2d (t : Nat) (d : Desc) (s : State) : Host.Outcome State Fault Refusal := onChip s (fun c => c.issue t d)
/-- FILL (R100, R102). -/
def execFill (t : Nat) (d : Desc) (s : State) : Host.Outcome State Fault Refusal := onChip s (fun c => c.issue t d)
/-- GATHER (R100, R160). -/
def execGather (t : Nat) (d : Desc) (s : State) : Host.Outcome State Fault Refusal := onChip s (fun c => c.issue t d)
/-- SCATTER (R100, R160). -/
def execScatter (t : Nat) (d : Desc) (s : State) : Host.Outcome State Fault Refusal := onChip s (fun c => c.issue t d)
/-- STASH_PUT (R177 to R181). -/
def execStashPut (t : Nat) (d : Desc) (s : State) : Host.Outcome State Fault Refusal := onChip s (fun c => c.issue t d)
/-- STASH_GET (R177 to R181). -/
def execStashGet (t : Nat) (d : Desc) (s : State) : Host.Outcome State Fault Refusal := onChip s (fun c => c.issue t d)
/-- MATMUL (R103 to R105). -/
def execMatmul (t : Nat) (d : Desc) (s : State) : Host.Outcome State Fault Refusal := onChip s (fun c => c.issue t d)
/-- MATMUL_BT (R103 to R105). -/
def execMatmulBt (t : Nat) (d : Desc) (s : State) : Host.Outcome State Fault Refusal := onChip s (fun c => c.issue t d)
/-- MATMUL_SPLIT (R310, R311). -/
def execMatmulSplit (t : Nat) (d : Desc) (s : State) : Host.Outcome State Fault Refusal := onChip s (fun c => c.issue t d)
/-- VADD (R108). -/
def execVadd (t : Nat) (d : Desc) (s : State) : Host.Outcome State Fault Refusal := onChip s (fun c => c.issue t d)
/-- VSUB (R108). -/
def execVsub (t : Nat) (d : Desc) (s : State) : Host.Outcome State Fault Refusal := onChip s (fun c => c.issue t d)
/-- VMUL (R108). -/
def execVmul (t : Nat) (d : Desc) (s : State) : Host.Outcome State Fault Refusal := onChip s (fun c => c.issue t d)
/-- VFMA (R108). -/
def execVfma (t : Nat) (d : Desc) (s : State) : Host.Outcome State Fault Refusal := onChip s (fun c => c.issue t d)
/-- VMAX (R109). -/
def execVmax (t : Nat) (d : Desc) (s : State) : Host.Outcome State Fault Refusal := onChip s (fun c => c.issue t d)
/-- VMIN (R109). -/
def execVmin (t : Nat) (d : Desc) (s : State) : Host.Outcome State Fault Refusal := onChip s (fun c => c.issue t d)
/-- VNEG (R108). -/
def execVneg (t : Nat) (d : Desc) (s : State) : Host.Outcome State Fault Refusal := onChip s (fun c => c.issue t d)
/-- VABS (R108). -/
def execVabs (t : Nat) (d : Desc) (s : State) : Host.Outcome State Fault Refusal := onChip s (fun c => c.issue t d)
/-- VRELU (R108). -/
def execVrelu (t : Nat) (d : Desc) (s : State) : Host.Outcome State Fault Refusal := onChip s (fun c => c.issue t d)
/-- VCLAMP (R108). -/
def execVclamp (t : Nat) (d : Desc) (s : State) : Host.Outcome State Fault Refusal := onChip s (fun c => c.issue t d)
/-- VSELECT (R109). -/
def execVselect (t : Nat) (d : Desc) (s : State) : Host.Outcome State Fault Refusal := onChip s (fun c => c.issue t d)
/-- VRECIP (R108). -/
def execVrecip (t : Nat) (d : Desc) (s : State) : Host.Outcome State Fault Refusal := onChip s (fun c => c.issue t d)
/-- VRSQRT (R108). -/
def execVrsqrt (t : Nat) (d : Desc) (s : State) : Host.Outcome State Fault Refusal := onChip s (fun c => c.issue t d)
/-- VEXP (R108). -/
def execVexp (t : Nat) (d : Desc) (s : State) : Host.Outcome State Fault Refusal := onChip s (fun c => c.issue t d)
/-- VLOG (R108). -/
def execVlog (t : Nat) (d : Desc) (s : State) : Host.Outcome State Fault Refusal := onChip s (fun c => c.issue t d)
/-- VTANH (R108). -/
def execVtanh (t : Nat) (d : Desc) (s : State) : Host.Outcome State Fault Refusal := onChip s (fun c => c.issue t d)
/-- VSIGMOID (R108). -/
def execVsigmoid (t : Nat) (d : Desc) (s : State) : Host.Outcome State Fault Refusal := onChip s (fun c => c.issue t d)
/-- VGELU (R108). -/
def execVgelu (t : Nat) (d : Desc) (s : State) : Host.Outcome State Fault Refusal := onChip s (fun c => c.issue t d)
/-- VSUM_ROW (R110). -/
def execVsumRow (t : Nat) (d : Desc) (s : State) : Host.Outcome State Fault Refusal := onChip s (fun c => c.issue t d)
/-- VMAX_ROW (R110). -/
def execVmaxRow (t : Nat) (d : Desc) (s : State) : Host.Outcome State Fault Refusal := onChip s (fun c => c.issue t d)
/-- VAMAX_ROW (R110). -/
def execVamaxRow (t : Nat) (d : Desc) (s : State) : Host.Outcome State Fault Refusal := onChip s (fun c => c.issue t d)
/-- VRAND (R124). -/
def execVrand (t : Nat) (d : Desc) (s : State) : Host.Outcome State Fault Refusal := onChip s (fun c => c.issue t d)
/-- VRAND_BITS (R124). -/
def execVrandBits (t : Nat) (d : Desc) (s : State) : Host.Outcome State Fault Refusal := onChip s (fun c => c.issue t d)
/-- CVT (R133). -/
def execCvt (t : Nat) (d : Desc) (s : State) : Host.Outcome State Fault Refusal := onChip s (fun c => c.issue t d)
/-- SCALE_PASS (R130 to R132). -/
def execScalePass (t : Nat) (d : Desc) (s : State) : Host.Outcome State Fault Refusal := onChip s (fun c => c.issue t d)
/-- CVT_GRAD (R137 to R139, R146). -/
def execCvtGrad (t : Nat) (d : Desc) (s : State) : Host.Outcome State Fault Refusal := onChip s (fun c => c.issue t d)
/-- LOOKUP (R196, R197). -/
def execLookup (t : Nat) (d : Desc) (s : State) : Host.Outcome State Fault Refusal := onChip s (fun c => c.issue t d)
/-- ROW_GRAD (R201). -/
def execRowGrad (t : Nat) (d : Desc) (s : State) : Host.Outcome State Fault Refusal := onChip s (fun c => c.issue t d)
/-- COLL KIND 0 (R294 to R302). -/
def execCollAllReduce (t : Nat) (d : Desc) (s : State) : Host.Outcome State Fault Refusal := onChip s (fun c => c.issue t d)
/-- COLL KIND 1 (R294 to R302). -/
def execCollReduceScatter (t : Nat) (d : Desc) (s : State) : Host.Outcome State Fault Refusal := onChip s (fun c => c.issue t d)
/-- COLL KIND 2 (R303). -/
def execCollAllGather (t : Nat) (d : Desc) (s : State) : Host.Outcome State Fault Refusal := onChip s (fun c => c.issue t d)
/-- COLL KIND 3 (R303). -/
def execCollBroadcast (t : Nat) (d : Desc) (s : State) : Host.Outcome State Fault Refusal := onChip s (fun c => c.issue t d)
/-- COLL KIND 4 (R305). -/
def execCollBarrier (t : Nat) (d : Desc) (s : State) : Host.Outcome State Fault Refusal := onChip s (fun c => c.issue t d)
/-- COLL KIND 5 (R303). -/
def execCollAllToAll (t : Nat) (d : Desc) (s : State) : Host.Outcome State Fault Refusal := onChip s (fun c => c.issue t d)
/-- COLL KIND 6 (R304). -/
def execCollAllToAllV (t : Nat) (d : Desc) (s : State) : Host.Outcome State Fault Refusal := onChip s (fun c => c.issue t d)
/-- COLL KIND 7 (R309). -/
def execCollSplitOpen (t : Nat) (d : Desc) (s : State) : Host.Outcome State Fault Refusal := onChip s (fun c => c.issue t d)
/-- NOP, the descriptor (R100). -/
def execNopDescriptor (t : Nat) (d : Desc) (s : State) : Host.Outcome State Fault Refusal := onChip s (fun c => c.issue t d)
/-- REPEAT (R113, R114). -/
def execRepeatSpan (t : Nat) (d : Desc) (s : State) : Host.Outcome State Fault Refusal := onChip s (fun c => c.issue t d)
/-- WAIT (R234, R236). -/
def execWait (t : Nat) (d : Desc) (s : State) : Host.Outcome State Fault Refusal := onChip s (fun c => c.issue t d)
/-- SIGNAL (R234, R235, R237). -/
def execSignal (t : Nat) (d : Desc) (s : State) : Host.Outcome State Fault Refusal := onChip s (fun c => c.issue t d)
/-- BRANCH_SEM (R234, R236). -/
def execBranchSem (t : Nat) (d : Desc) (s : State) : Host.Outcome State Fault Refusal := onChip s (fun c => c.issue t d)
/-- JUMP (R100, R114). -/
def execJump (t : Nat) (d : Desc) (s : State) : Host.Outcome State Fault Refusal := onChip s (fun c => c.issue t d)
/-- FENCE, the descriptor (R100). -/
def execFenceDescriptor (t : Nat) (d : Desc) (s : State) : Host.Outcome State Fault Refusal := onChip s (fun c => c.issue t d)
/-- STEP_CLOSE, the descriptor (R16, R115). -/
def execStepCloseDescriptor (t : Nat) (d : Desc) (s : State) : Host.Outcome State Fault Refusal := onChip s (fun c => c.issue t d)
/-- HOST_SIGNAL, the descriptor (R247 to R249). -/
def execHostSignalDescriptor (t : Nat) (d : Desc) (s : State) : Host.Outcome State Fault Refusal := onChip s (fun c => c.issue t d)
/-- END (R95, R100). -/
def execEndProgram (t : Nat) (d : Desc) (s : State) : Host.Outcome State Fault Refusal := onChip s (fun c => c.issue t d)

end Sys2Proof.Machine
end

