-- ==== Sys2Proof/Machine/Launch.lean ====
section
/-! DEFINITION. LAUNCH and the end of programs (R94, R95, R125, R233, R238, R244, R245), clock gating (R242, R397), and the
passing of time: generators, idle counters, phase times (R123, R312, R379, R386, R396). -/

namespace Sys2Proof.Machine

/-- The tiles of the rectangle of a LAUNCH, in raster order (R94). -/
def launchTiles (p : Icp) : List Nat :=
  (List.range (4 * p.par 23 1)).flatMap (fun y =>
    (List.range (4 * p.par 22 1)).map (fun x => 40 * (4 * p.par 21 1 + y) + 4 * p.par 20 1 + x))

/-- Bytes of model space that a LAUNCH reads (R94). -/
def launchBytes (p : Icp) : Nat := p.par 8 4 * (if p.bits 193 193 = 1 then (launchTiles p).length else 1)

/-- The refusal of a LAUNCH, in the order BAD_PARAM, RETIRED, BAD_STATE, ADDR_FAULT (R94, R125, R158, R384, R385) (order
and offsets DEDUCED, log 95). SEED_VALID without a running job is refused with BAD_STATE, whether none has started or the
one that JOB_START started has ended: R125 names the first LAUNCH after JOB_START only (DEDUCED, log 95). -/
def Chip.launchFault (c : Chip) (p : Icp) : Option (Nat × Nat) :=
  let i := p.who
  let img := p.par 0 8
  let len := p.par 8 4
  let load := p.par 12 4
  let entry := p.par 16 4
  let bx := p.par 20 1
  let byRow := p.par 21 1
  let bw := p.par 22 1
  let bh := p.par 23 1
  let ts := launchTiles p
  if (List.range 4).all (c.isRetired 11 ·) then some (stRetired, unitSubject ⟨11, 0⟩)
  else if img % 64 ≠ 0 then some (stBadParam, 0)
  else if len % 64 ≠ 0 || len = 0 || 1048576 < len then some (stBadParam, 8)
  else if load % 64 ≠ 0 || 1048576 < load + len then some (stBadParam, 12)
  else if entry % 64 ≠ 0 || entry < load || load + len ≤ entry then some (stBadParam, 16)
  else if bw = 0 || 10 < bw then some (stBadParam, 22)
  else if bh = 0 || 10 < bh then some (stBadParam, 23)
  else if 10 < bx + bw then some (stBadParam, 20)
  else if 10 < byRow + bh then some (stBadParam, 21)
  else if ts.any (fun t => !c.ownsTile i t) then some (stBadParam, 20)
  else match ts.find? (c.isRetired 3 ·) with
    | some t => some (stRetired, unitSubject ⟨3, t⟩)
    | none =>
      if ts.any (fun t => (c.tile t).run ≠ .idle) then some (stBadState, c.phaseDetail p)
      else if p.bits 192 192 = 1 && (!c.jobRuns i || (c.job i).launched) then some (stBadState, c.phaseDetail p)
      else match c.check i img (launchBytes p) with
        | .fault k => some (stAddrFault, k)
        | .ok _ => none

/-- What the last programs of these tiles wrote is in the stores (R87). -/
def Chip.forget (c : Chip) (ts : List Nat) : Chip :=
  { c with tiles := c.tiles.map (fun e => (e.1, { e.2 with before := e.2.before.filter (fun b => !ts.contains b.tile) })) }

/-- LAUNCH (R94, R95, R125, R233, R409): the image is loaded; LAUNCH_START follows. A read of the image that R25 or R168
holds waits. -/
def execLaunch (p : Icp) (s : State) : Host.Outcome State Fault Refusal :=
  icp 0x52 p s (fun c p =>
    let i := p.who
    match c.launchFault p, c.objAt i (p.par 0 8) with
    | some r, _ => .refuse r.1 r.2
    | none, none => .refuse stAddrFault 0
    | none, some o =>
      if c.cmdHeld i o (p.par 0 8) (launchBytes p) false then .wait else
      let len := p.par 8 4
      let ts := launchTiles p
      let per := p.bits 193 193 = 1
      let image := c.frontRead i o (p.par 0 8) (launchBytes p)
      let c := c.readMarks i o (p.par 0 8) (launchBytes p)
      let c := (ts.zip (List.range ts.length)).foldl (fun (c : Chip) tk =>
        (c.storeWrite tk.1 (p.par 12 4) (cut image (if per then tk.2 * len else 0) len)).onTile tk.1 (fun k =>
          { k with run := .loaded, launch := some (c.refOf p), ended := false, sems := [], unacked := 0, hold := none, loops := [],
                   units := [], gated := false, due := [], stopTc := none, before := [] })) (c.forget ts)
      let c := if p.bits 192 192 = 1 then
          (c.tilesOf i).foldl (fun (c : Chip) t =>
            c.onTile t (fun k => { k with seed := BitVec.ofNat 64 (p.par 32 8), seededAt := c.tc, drawnTo := c.tc })) c
        else c
      let c := c.onJob i (fun j => { j with launched := true })
      .later (c.onInst i (fun x => { x with launches := x.launches ++
        [{ cmd := (c.refOf p), tiles := ts, entry := p.par 16 4, epoch := 0, started := false, overs := [], fault := none,
           final := none }] })))

/-- LAUNCH_START (R95, R233): every tile of the launch starts fetching, and LAUNCH replies PENDING. -/
def execLaunchStart (i : Nat) (tag : Word) (q : Nat) (s : State) : Host.Outcome State Fault Refusal :=
  onChip s (fun c =>
    match (c.inst i).launches.find? (fun l => l.cmd.is q tag && !l.started) with
    | none => c
    | some l =>
      let c := l.tiles.foldl (fun (c : Chip) t =>
        c.onTile t (fun k => { k with run := .running, pc := l.entry, ranStep := true })) c
      let c := c.onLaunch i l.cmd (fun l => { l with started := true, epoch := (c.job i).epoch })
      c.reply q tag stPending 0 0 [])

/-! The end of a program (R95, R238, R244, R245). -/

/-- Every tile's program is over: COMMAND_DONE (R95, R96, R316, R384). -/
def Chip.launchOver (c : Chip) (i : Nat) (l : Launch) : Chip :=
  if !l.tiles.all (fun t => l.overs.contains t) then c
  else
    let c := c.onInst i (fun x => { x with launches := x.launches.filter (fun m => m.cmd ≠ l.cmd) })
    let r := match l.final, l.fault with
      | some f, _ => (f.1.toNat, f.2.toNat)
      | none, some w => (stDescriptorError, w.1.toNat)
      | none, none => (stOK, 0)
    c.commandDone l.cmd r.1 r.2

/-- PROGRAM_END (R95, R238, R244, R245). -/
def execProgramEnd (t : Nat) (s : State) : Host.Outcome State Fault Refusal :=
  onChip s (fun c =>
    let k := c.tile t
    match c.ownerOf t, k.launch with
    | some i, some r =>
      let fetched := k.run = .running && k.ended
      if !(fetched || k.run = .stopping) || !k.unitsEmpty || k.unacked ≠ 0 || !k.due.isEmpty then c
      else
        let c := if fetched && k.sems.any (fun e => e.2 ≠ 0) then c.fault t k.pc caSemResidue else c
        let c := c.onTile t (fun k => { k with
          run := .idle, launch := none, sems := [], hold := none, loops := [], before := [], stopTc := none })
        let c := c.onLaunch i r (fun l => { l with overs := l.overs ++ [t] })
        match c.launchBy i r with
        | none => c
        | some l => c.launchOver i l
    | _, _ => c)

/-! Clock gating (R242, R397). -/

/-- A tile is idle (R242): held on a wait, or its program is over (R95, R238). -/
def Tile.idle (k : Tile) : Bool := (k.hold.isSome || k.run = .idle) && k.unitsEmpty

/-- TILE_CLOCK_GATE (R242). A satisfied wait is about to release, and gates nothing. -/
def execTileClockGate (t : Nat) (s : State) : Host.Outcome State Fault Refusal :=
  onChip s (fun c =>
    let k := c.tile t
    if t < 1600 && k.idle && !k.hold.any (·.satisfied) then c.setTile t { k with gated := true } else c)

/-- A hub engine has nothing to do (R397): 0 front end, 1 stash, 2 Pack, 3 hoard, 4 Bruin. -/
def Chip.hubIdle (c : Chip) (k : Nat) : Bool :=
  if k = 0 then c.front.isEmpty
  else if k = 2 then c.groups.all (fun e => e.2.colls.isEmpty) && c.insts.all (fun e => e.2.job.barrier.isNone)
  else if k = 3 then c.insts.all (fun e => e.2.objs.all (fun o => o.migration.isNone && o.extents.all (fun x => x.stage.isNone)))
  else if k = 4 then c.insts.all (fun e => e.2.bqueue.all (fun b => !b.started))
  else k = 1

/-- ENGINE_CLOCK_GATE (R397): units 0 to 23 the engines, 24 on the hub engines. -/
def execEngineClockGate (unit : Nat) (s : State) : Host.Outcome State Fault Refusal :=
  onChip s (fun c =>
    if unit < 24 then
      if (c.engine unit).queue.isEmpty then c.setEngine unit { c.engine unit with gated := true } else c
    else if unit < 29 && c.hubIdle (unit - 24) && !c.gatedHub.contains (unit - 24) then
      { c with gatedHub := c.gatedHub ++ [unit - 24] }
    else c)

/-! One tc passes (R123, R243, R312, R379, R386, R396). -/

/-- The accesses of a descriptor that may be held: reference, bytes, written. -/
def Chip.accesses (c : Chip) (i t : Nat) (d : Desc) : List (RefBits × Nat × Bool) :=
  let op := dOp d
  let n := vLength d
  let rows := List.range (vRows d)
  let idx := if op = 0x03 || op = 0x04 then unpackWide 4 (vRows d) (c.refRead i t (vIndex d) (4 * vRows d)) else []
  let at' := fun (r : RefBits) (w : Bool) (offs : List Nat) => offs.map (fun o => (refPlus r o, n, w))
  if op = 0x00 then [(vSrc d, n, false), (vDst d, n, true)]
  else if op = 0x01 then at' (vSrc d) false (rows.map (· * vSstride d)) ++ at' (vDst d) true (rows.map (· * vDstride d))
  else if op = 0x02 then [(vDst d, n, true)]
  else if op = 0x03 then
    [(vIndex d, 4 * vRows d, false)] ++ at' (vSrc d) false (idx.map (· * vSstride d)) ++ at' (vDst d) true (rows.map (· * vDstride d))
  else if op = 0x04 then
    [(vIndex d, 4 * vRows d, false)] ++ at' (vSrc d) false (rows.map (· * vSstride d)) ++ at' (vDst d) true (idx.map (· * vDstride d))
  else if op = 0x50 || op = 0x51 then lRanges d (((c.tableOf i (lTable d)).map (fun t => tDim t.block)).getD 0)
  else if op = 0x52 then [(cSrc d, 1, false)]
  else []

/-- The idle cause of a held access: 0 epoch hold, 1 dense pending, 3 gradient buffer (R17, R25, R221). -/
def Chip.holdCause (c : Chip) (i : Nat) (a : RefBits × Nat × Bool) : Option Nat :=
  if refSpace a.1 ≠ 2 then none
  else if a.2.2 then (if c.writeHeld i (refAddr a.1) a.2.1 then some 3 else none)
  else if !(c.objAt i (refAddr a.1)).any (c.readHeld i) then none
  else if (c.job i).close = .closed then some 0 else some 1

/-- The idle cause of a DMA channel of a tile: none where it is not held. -/
def Chip.channelCause (c : Chip) (i t u : Nat) : Option Nat :=
  match (c.tile t).unitQ u with
  | [] => none
  | e :: _ =>
    if e.ran then none
    else (((c.accesses i t e.desc).filterMap (c.holdCause i)).head?).orElse (fun _ =>
      if (dOp e.desc = 0x50 || dOp e.desc = 0x51) && !lServe e.desc && (c.job i).close = .closed then some 0 else none)

/-- The idle causes of an instance's DMA channels. -/
def Chip.channelCauses (c : Chip) (i : Nat) : List Nat :=
  ((c.tiles.filter (fun e => c.ownsTile i e.1)).flatMap (fun e => [2, 3].map (c.channelCause i e.1 ·))).filterMap id

/-- The counters of one tc (R17, R25, R243). -/
def Chip.tickTc (c : Chip) (i : Nat) : Chip :=
  let held := ((c.tiles.filter (fun e => c.ownsTile i e.1 && e.2.run = .running && e.2.hold.isSome))).length
  let ks := c.channelCauses i
  ((c.count i 0 (ks.filter (· = 0)).length).count i 1 (ks.filter (· = 1)).length).count i 2 held

/-- Packets of a group's work wait for the link's credits (R273). -/
def Chip.creditWaits (c : Chip) (mark : Nat) : Bool :=
  c.links.any (fun l => l.2.txq.any (fun p => p.2.2.mark = mark) || l.2.going.any (fun g => g.any (fun g => g.pkt.mark = mark))) ||
    c.unplaced.any (fun p => p.2.2.mark = mark)

/-- The Pack engine serves another instance's queue in this ec; only where another instance has a collective open (R312,
R317; log 58). -/
def Chip.packAway (c : Chip) (i : Nat) : Bool :=
  c.groups.any (fun e => e.2.owner.isSome && e.2.owner ≠ some i && e.2.colls.any (·.active)) && Config.packShare c.tc i

/-- The cause under which the open collective of a group waits, if it does (R312). -/
def Chip.collWait (c : Chip) (i g : Nat) (x : Coll) : Option Nat :=
  if c.collOver i g x then none
  else if c.creditWaits (collMark g x.cseq) ||
      (x.kind ≤ 1 && (c.others g).any (fun h => countOf x.sent h < c.leafChunks i x.desc (c.groupSize g) h)) then some 1
  else if c.packAway i then some 2
  else some 0

/-- The cause under which the vote or the flip barrier of a group's job waits, if it does (R306, R307, R312). -/
def Chip.barrierWait (c : Chip) (i g : Nat) : Option Nat :=
  if !c.jobRuns i || (c.job i).group ≠ g || !(c.job i).barrier.any (fun b => !b.done) then none
  else if c.creditWaits (barrierMark g) then some 1
  else if c.packAway i then some 2
  else some 0

/-- Data is held for a collective or a split stream that this device has not issued (R298, R312). -/
def Group.unissued (e : Group) : Bool :=
  e.early.any (fun p =>
    (p.1 = 8 && !e.colls.any (fun x => x.kind = 7 && cRoot x.desc % 64 = p.2.1.cseq % 64)) ||
    (p.1 ≠ 8 && p.1 ≠ 9 && !e.colls.any (fun x => x.cseq = BitVec.ofNat 32 p.2.1.cseq)))

/-- The causes that a group counts in an ec (R312): each once, whatever waits under it (DEDUCED, log 58). -/
def Chip.waitCauses (c : Chip) (i g : Nat) (e : Group) : List Nat :=
  (((e.colls.find? (fun (x : Coll) => x.active)).bind (c.collWait i g)).toList ++ (c.barrierWait i g).toList ++
    (if e.unissued then [3] else [])).eraseDups

/-- The counters of one ec (R221, R222, R312), and the slew of job time (R396). -/
def Chip.tickEc (c : Chip) (i : Nat) : Chip :=
  let ks := (c.channelCauses i).filter (· = 3)
  let landing := ((c.groups.filter (fun e => e.2.owner = some i)).flatMap (fun e => e.2.colls.filter (fun x => !x.held.isEmpty))).length
  let front := (c.front.filter (fun f => f.inst = i && c.frontHeld f)).length
  let c := c.count i 3 (ks.length + landing + front)
  let swap := match c.bruinHead i with
    | some (r, _) => !r.prog.started && !c.mayStart i r.prog
    | none => false
  let c := c.count i 4 (bit swap)
  c.onJob i (fun j =>
    if j.slew = 0 || c.tc / 2 % max 1 j.slewEvery ≠ 0 then j
    else
      let d : Int := if j.slew < 0 then -1 else 1
      { j with slew := j.slew - d, timeOffset := j.timeOffset + d })

/-- One ec of every group's wait counters (R312, R313). -/
def Chip.tickGroups (c : Chip) : Chip :=
  { c with groups := c.groups.map (fun e =>
      match e.2.owner with
      | none => e
      | some i =>
        (e.1, { e.2 with waits := (c.waitCauses i e.1 e.2).foldl (fun w k => lmod (fun v => satAdd v 1) w k) e.2.waits })) }

/-- Phase time of the tiles that run and are not idle in the compute phase (R386). -/
def Chip.tickTiles (c : Chip) : Chip :=
  { c with tiles := c.tiles.map (fun e =>
      if e.2.run = .running && (c.ownerOf e.1).any (fun i => (c.job i).phase = .compute) then
        (e.1, { e.2 with ranStep := true, phaseTime := e.2.phaseTime + bit (!e.2.idle) })
      else e) }

/-- RANDOM_GENERATOR_ADVANCE (R123): one tc passes. Every generator advances, for its state is that of its load after the tc
since (`Chip.rngAt`); with the tc go the semaphore blocks (R240) and the counters that time alone moves (DESIGN CHOICE,
log 59). -/
def execRandomGeneratorAdvance (s : State) : Host.Outcome State Fault Refusal :=
  onChip s (fun c =>
    let c : Chip := { c.tickTiles with tc := c.tc + 1 }
    let c := (c.tiles.map (·.1)).foldl (fun (c : Chip) t => c.semBlock t) c
    let c := c.liveInsts.foldl (fun (c : Chip) i => c.tickTc i) c
    if c.tc % 2 = 1 then c
    else
      let c := ((c.liveInsts.foldl (fun (c : Chip) i => c.tickEc i) c).tickGroups).packTurn
      c.liveInsts.foldl (fun (c : Chip) i => (c.poisonFail i).ctrLimit i) c)

end Sys2Proof.Machine
end

