-- ==== Sys2Proof/Machine/Instances.lean ====
section
/-! DEFINITION. Instances: INSTANCE_CREATE with and without MODIFY (R348 to R350), INSTANCE_DESTROY (R351) and the
instance reset (R80, R369). -/

namespace Sys2Proof.Machine

/-- The six weights of an INSTANCE_CREATE block, W_SETT first (R349). -/
def blockWeights (b : Nat) : List (BitVec 4) :=
  [(319, 316), (315, 312), (311, 308), (307, 304), (303, 300), (299, 296)].map (fun r => BitVec.ofNat 4 (bits b r.1 r.2))

/-- The byte offset of the first weight that is 0. -/
def zeroWeight (ws : List (BitVec 4)) : Option Nat :=
  ((List.range 6).find? (fun k => ws.getD k 0 = 0)).map (fun k => 39 - k / 2)

/-- The queue fields of the block that break R323, as a byte offset. -/
def blockQueueFault (b : Nat) : Option Nat :=
  (queueFault (bits b 351 344) (bits b 367 352) (bits b 447 384) (bits b 511 448) (bits b 383 368)).map
    (fun k => [44, 43, 48, 56, 46].getD k 0)

/-- A retired unit in the blocks or groups named (R350). -/
def Chip.blockRetired (c : Chip) (b : Nat) : Option UnitId :=
  match (List.range 1600).find? (fun t => bitOf (bits b 163 64) (blockOf t) && !c.liveTile t) with
  | some t => some (if c.isRetired 3 t then ⟨3, t⟩ else ⟨11, dieOf t⟩)
  | none =>
    match (List.range 64).find? (fun g => bitOf (bits b 255 192) g && c.livePcs g < 15) with
    | some g => ((List.range 16).find? (fun j => c.isRetired 4 (16 * g + j))).map (fun j => ⟨4, 16 * g + j⟩)
    | none => none

/-- INSTANCE_CREATE with MODIFY = 0 (R348 to R350). -/
def Chip.instanceNew (c : Chip) (p : Icp) : Verdict :=
  let i := p.who
  let b := leNat p.params
  let blocks := bits b 163 64
  let groups := bits b 255 192
  let others := (List.range 16).filter (fun k => k ≠ i && (c.inst k).live)
  let shared := fun (v : Nat) (w : Nat → Nat) => others.any (fun k => v &&& w k ≠ 0)
  if (c.inst i).live then c.badState p
  else match zeroWeight (blockWeights b) with
    | some k => badParam k
    | none =>
      if blocks = 0 || shared blocks (fun k => (c.inst k).blocks.toNat) then badParam 8
      else if groups = 0 || shared groups (fun k => (c.inst k).pcGroups.toNat) then badParam 24
      else match blockQueueFault b, c.blockRetired b with
        | some k, _ => badParam k
        | none, some u => .refuse stRetired (unitSubject u)
        | none, none =>
          let c := c.onInst i (fun x => { x with
            live := true, blocks := BitVec.ofNat 100 blocks, pcGroups := BitVec.ofNat 64 groups, weights := blockWeights b,
            quotaMod := 0, quotaExp := 0, guar := [0, 0, 0] })
          .done 0 [] (c.makeQueue (16 * i) (bits b 351 344) (bits b 367 352) (bits b 447 384) (bits b 511 448) (bits b 383 368))

/-- INSTANCE_CREATE with MODIFY = 1 (R350): the weights are in force at each engine's next round. -/
def Chip.instanceModify (c : Chip) (p : Icp) : Verdict :=
  let i := p.who
  let ws := blockWeights (leNat p.params)
  if !(c.inst i).live then .refuse stNoObject noInstance
  else match (List.range 64).find? (fun k => k ≠ 0 && !(37 ≤ k && k ≤ 39) && p.params.getD k 0 ≠ 0) with
    | some k => badParam k
    | none => match zeroWeight ws with
      | some k => badParam k
      | none => .done 0 [] (c.onInst i (fun x => { x with weights := ws }))

/-- INSTANCE_CREATE by its MODIFY (R349, R350). -/
def Chip.instanceSet (c : Chip) (p : Icp) : Verdict :=
  if p.who = 255 then .refuse stNotPermitted 0
  else if p.bits 0 0 = 1 then c.instanceModify p else c.instanceNew p

/-- INSTANCE_CREATE (R348 to R350). -/
def execInstanceCreate (p : Icp) (s : State) : Host.Outcome State Fault Refusal := icp 0x20 p s Chip.instanceSet
/-- INSTANCE_CREATE with MODIFY = 1 (R350). -/
def execInstanceModify (p : Icp) (s : State) : Host.Outcome State Fault Refusal := icp 0x20 p s Chip.instanceSet

/-! The instance reset (R80, R369). -/

/-- The queues of an instance. -/
def queuesOf (i : Nat) : List Nat := (List.range 16).map (16 * i + ·)

/-- A tile stopped, its store and its semaphores zeroed (R369 steps 1 and 2). -/
def Tile.zero (k : Tile) : Tile :=
  { k with run := .idle, launch := none, ended := false, cells := [], zeroed := true, sems := [], unacked := 0, hold := none,
           loops := [], units := [], gated := false, phaseTime := 0, ranStep := false, before := [], stopTc := none, due := [] }

/-- What the shared units, the mesh and the fabric hold of an instance is dropped: its writes and completions would be
(R369 step 3; DEDUCED, log 60). -/
def Chip.dropInst (c : Chip) (i : Nat) : Chip :=
  let mine := fun (t : Nat) => c.ownsTile i t
  let c : Chip := { c with
    sigs := c.sigs.filter (fun x => !mine x.target), acks := c.acks.filter (fun x => !mine x.target),
    front := c.front.filter (fun f => f.inst ≠ i),
    engines := c.engines.map (fun e => (e.1, { e.2 with
      queue := e.2.queue.filter (fun m => m.2.inst ≠ i), pools := e.2.pools.filter (fun p => p.inst ≠ i) })),
    moves := c.moves.filter (fun m => m.cmd.queue / 16 ≠ i),
    bruinTurn := c.bruinTurn.filter (fun b => b.1 ≠ i) }
  c.dropColls i

/-- A migration of the instance is abandoned (R369): both locations stay charged until step 5 frees them. -/
def Obj.abandon (o : Obj) : Obj :=
  { o with migration := none, extents := o.extents.map (fun e => { e with stage := none, relay := false }) }

/-- Steps 1 and 2 of R369. -/
def Chip.resetStart (c : Chip) (i : Nat) (cmd : Icp) (destroy : Bool) : Chip :=
  let j := c.netJob i
  let c := if c.netRuns i then c.clearStreams (j.ident.toNat % 65536) else c
  let c : Chip := { c with delivered := c.delivered.filter (fun d => !(c.netRuns i && d.job = j.ident.extractLsb' 0 16)) }
  let c := (queuesOf i).foldl (fun (c : Chip) q =>
    if (c.queue q).depthLog2 = 0 then c else c.onQueue q (fun u => { u with fenced := true })) c
  let c := c.onNoticeQ i (fun n => { NoticeQ.initial with receiver := n.receiver })
  let c := c.dropInst i
  let c := (c.tilesOf i).foldl (fun (c : Chip) t => c.onTile t Tile.zero) c
  (c.onInst i (fun x => { x with
    jepoch := x.jepoch + 1, job := Job.initial, ended := none, launches := [], counters := [], hubSems := [], waits := [],
    bqueue := [], bheld := none, slowRuns := [], objs := x.objs.map Obj.abandon, evicting := [], resetting := some { cmd := cmd, destroy := destroy } })).purge i

/-- INSTANCE_RESET and INSTANCE_DESTROY start (R351, R357, R369). -/
def Chip.beginReset (c : Chip) (p : Icp) (destroy : Bool) : Verdict :=
  c.needInst p (
    if (c.inst p.who).resetting.isSome || (c.inst p.who).resets = 0xFFFF then c.badState p
    else .later (c.resetStart p.who p destroy))

/-- INSTANCE_RESET (R369). -/
def execInstanceReset (p : Icp) (s : State) : Host.Outcome State Fault Refusal := icp 0x21 p s (fun c p => c.beginReset p false)

/-- INSTANCE_DESTROY (R351, R369). -/
def execInstanceDestroy (p : Icp) (s : State) : Host.Outcome State Fault Refusal := icp 0x22 p s (fun c p => c.beginReset p true)

/-- Step 4 of R369: CANCELLED for every command of the instance but the one that resets it. -/
def Chip.cancelAll (c : Chip) (i : Nat) (keep : Icp) : Chip :=
  let c := (c.started.filter (fun st => st.cmd.queue / 16 = i && st.cmd ≠ keep)).foldl (fun (c : Chip) st =>
    if st.pending then c.commandDone st.ref stCancelled 0
    else c.reply st.cmd.queue st.cmd.tag stCancelled 0 0 []) c
  (queuesOf i).foldl (fun (c : Chip) q =>
    if (c.queue q).depthLog2 = 0 then c else c.answerItems q stCancelled 0) c

/-- Step 5 of R369: everything the instance has set up is freed. -/
def Chip.freeAll (c : Chip) (i : Nat) : Chip :=
  let c := (c.inst i).objs.foldl (fun (c : Chip) o => c.unmap i o) c
  let c : Chip := { c with groups := c.groups.map (fun e => if e.2.owner = some i then (e.1, e.2.unset) else e) }
  c.onInst i (fun x => { x with
    objs := [], freed := [], tables := [], hot := [], bobjs := [], stash := [], snapValid := false, snapEpoch := 0, oldSnaps := [], overMod := false,
    overExp := false, evicting := [] })

/-- Step 7 of R369 for one queue: WEPOCH advances as a flush does, and the counts return to 0 (R76, R80). The counts of a
deleted queue return to 0 too; its WEPOCH, which only QUEUE_CREATE advances, stays (DEDUCED, log 84). -/
def Chip.renewQueue (c : Chip) (q : Nat) : Chip :=
  if (c.queue q).depthLog2 = 0 then c.onQueue q (fun u => { u with stale := 0, torn := 0, flushes := 0 })
  else (c.dropPartials q).onQueue q (fun u => { u with
    wepoch := u.wepoch + 1, landed := [], slots := [], items := [], committed := 0, tail := 0, stale := 0, torn := 0,
    flushes := 0, fenced := false })

/-- The sessions of an instance end (R80). -/
def Chip.endSessions (c : Chip) (i : Nat) : Chip :=
  (c.sessions.filter (fun e => e.2.inst = i)).foldl (fun (c : Chip) e => c.endSession e.1) c

/-- A destroyed instance returns its resources (R351). -/
def Chip.returnInst (c : Chip) (i : Nat) : Chip :=
  let c := (queuesOf i).foldl (fun (c : Chip) q => if (c.queue q).depthLog2 = 0 then c else c.dropQueue q) c
  (c.onInst i (fun x => { x with
    live := false, blocks := 0, pcGroups := 0, weights := [0, 0, 0, 0, 0, 0], quotaMod := 0, quotaExp := 0, guar := [0, 0, 0],
    scaleStk := 65536 })).rescale

/-- Steps 4 to 7 of R369. -/
def Chip.resetEnd (c : Chip) (i : Nat) (r : Resetting) : Chip :=
  let c := (c.cancelAll i r.cmd).freeAll i
  let c := c.onInst i (fun x => { x with resets := x.resets + 1, resetting := none })
  let ok := fun (c : Chip) => c.reply r.cmd.queue r.cmd.tag stOK 0 0 []
  let renew := fun (c : Chip) => (((queuesOf i).foldl (fun (c : Chip) q => c.renewQueue q) c).endSessions i)
  if r.destroy then ok ((renew c).returnInst i) else renew (ok c)

/-- INSTANCE_RESET_DRAIN_END (R80, R351, R369). -/
def execInstanceResetDrainEnd (i : Nat) (s : State) : Host.Outcome State Fault Refusal :=
  onChip s (fun c =>
    match (c.inst i).resetting with
    | none => c
    | some r => c.resetEnd i r)

end Sys2Proof.Machine
end

