-- ==== Sys2Proof/Machine/Hoard.lean ====
section
/-! DEFINITION. The hoard manager and Owl's data mover: ALLOC, FREE, WRITE, READ, PIN, MIGRATE, quotas, guarantees, ages,
evictions and migrations (R149 to R173, R177, R330, R409, R412). -/

namespace Sys2Proof.Machine

/-! ALLOC and FREE (R152 to R155, R163, R177). -/

/-- Fields of an ALLOC out of range, as a byte offset (R152, R153). -/
def allocField (p : Icp) : Option Nat :=
  let cls := p.bits 23 20
  let len := p.par 8 8
  let stage := p.par 16 8
  if 4 < cls then some 2
  else if len % 4096 ≠ 0 || len < 4096 || 2 ^ 44 < len then some 8
  else if (if cls = 4 then stage % extentBytes ≠ 0 else stage ≠ 0) then some 16
  else none

/-- The tier that may evict, and the tiers tried in order (R152, R163). -/
def allocTiers (p : Icp) : Option Nat × List Nat :=
  let t := p.bits 17 16
  if t = 3 then (none, [0, 1, 2])
  else if p.bits 8 8 = 1 && t < 2 then (some t, [t, t + 1])
  else (some t, [t])

/-- A new object. -/
def Chip.newObj (c : Chip) (addr len cls stage : Nat) (pin : Bool) (ps : List Place) : Obj :=
  { addr := addr, length := len, cls := cls, table := none, stage := stage, serial := c.freeCount,
    extents := ps.map (Extent.new pin), migration := none, shardsDone := [], landed := [], due := [], serveDue := false,
    panels := [] }

/-- ALLOC (R152, R153, R155, R163, R177) (DETAILs of a stash store DEDUCED, log 93). -/
def execAlloc (p : Icp) (s : State) : Host.Outcome State Fault Refusal :=
  icp 0x30 p s (fun c p =>
    let i := p.who
    let cls := p.bits 23 20
    let len := p.par 8 8
    let n := divUp len extentBytes
    match allocField p with
    | some k => badParam k
    | none =>
      let c := c.wakeHub 3
      match c.freeAddr i n with
      | none => .refuse stNoSpace 0
      | some a =>
        if cls = 4 then
          if 32000000000 < c.stashUsed + len then .refuse stNoSpace 1
          else match c.placeIn i 0 1 (p.par 16 8 / extentBytes) with
            | none => .refuse stNoSpace 0
            | some (ps, rot) =>
              let o := c.newObj a len 4 (p.par 16 8) true ps
              .done a [] (((c.setRot i 0 rot).onInst i (fun x => { x with objs := x.objs ++ [o] })).drew)
        else
          let r := c.obtain i (copiesOf cls) n (allocTiers p).1 (allocTiers p).2
          match r.2 with
          | .inr (st, t) => .overs st t r.1
          | .inl (ps, rots) =>
            let o := r.1.newObj a len cls 0 (p.bits 0 0 = 1) ps
            .done a [] ((r.1.onInst i (fun x => { x with objs := x.objs ++ [o], rot := rots })).drew))

/-- A migration or an eviction of an extent of the object is in progress (R154, R167) (DEDUCED, log 94). -/
def Obj.moving (o : Obj) : Bool := o.migration.isSome || o.extents.any (fun e => e.stage.isSome)

/-- FREE (R154). -/
def execFree (p : Icp) (s : State) : Host.Outcome State Fault Refusal :=
  icp 0x31 p s (fun c p =>
    let i := p.who
    match c.objStart i (p.par 0 8) with
    | none => .refuse stNoObject 0
    | some o =>
      if o.table.isSome then .refuse stNoObject 0
      else if ((o.cls = 1 || o.cls = 2 || o.cls = 3) && c.jobRuns i) || o.moving then c.badState p
      else .done 0 [] ((c.wakeHub 3).unmap i o))

/-! WRITE and READ (R41, R50, R158, R159, R330, R409, R412). -/


/-- Why a WRITE or READ is refused (R23, R50, R158, R412). -/
def Chip.rwFault (c : Chip) (p : Icp) (write : Bool) : Option (Nat × Nat) :=
  let i := p.who
  let a := p.par 0 8
  let n := p.par 8 4
  let kind := p.par 12 4
  if n = 0 then some (stBadParam, 8)
  else if 2 < kind then some (stBadParam, 12)
  else if kind = 0 && 4096 < n then some (stInlineTooLong, n)
  else if kind = 1 && hostTop < p.par 16 8 + n then some (stBadParam, 16)
  else match c.check i a n with
    | .fault k => some (stAddrFault, k)
    | .ok o => if write && o.dense && c.jobRuns i then some (stWriteProtected, 0) else none

/-- The mover takes a command (R409). -/
def Chip.toMover (c : Chip) (p : Icp) : Chip := { c with moves := c.moves ++ [{ cmd := (c.refOf p), flushing := false }] }

/-- WRITE (R158, R409, R412): inline data lands at once, other data by the mover. -/
def execWrite (p : Icp) (s : State) : Host.Outcome State Fault Refusal :=
  icp 0x32 p s (fun c p =>
    let i := p.who
    let a := p.par 0 8
    let n := p.par 8 4
    match c.rwFault p true, c.objAt i a with
    | some r, _ => .refuse r.1 r.2
    | none, none => .refuse stAddrFault 0
    | none, some o =>
      if p.par 12 4 ≠ 0 then .later (c.toMover p)
      else if c.cmdHeld i o a n true then .wait
      else .done 0 [] (c.landModel i a (cut p.params 16 n)))

/-- READ (R158, R409, R412). -/
def execRead (p : Icp) (s : State) : Host.Outcome State Fault Refusal :=
  icp 0x33 p s (fun c p =>
    let i := p.who
    let a := p.par 0 8
    let n := p.par 8 4
    match c.rwFault p false, c.objAt i a with
    | some r, _ => .refuse r.1 r.2
    | none, none => .refuse stAddrFault 0
    | none, some o =>
      if p.par 12 4 ≠ 0 then .later (c.toMover p)
      else if c.cmdHeld i o a n false then .wait
      else
        let bs := c.frontRead i o a n
        .done 0 (bs ++ List.replicate (roundUp n 4 - n) 0) (c.readMarks i o a n))

/-- A started command of the mover: its opcode and parameters. -/
def Chip.moved (c : Chip) (r : Ref) : Option Started :=
  c.started.find? (fun st => st.ref = r && !st.pending)

/-- A move's PCIe address as an offset in the parameters; none where it has none (R328). -/
def pcieOffset (st : Started) : Option Nat :=
  if st.op = 0x42 then (if st.cmd.par 24 1 % 16 = 1 then some 32 else none)
  else if st.cmd.par 12 4 = 2 then some 16
  else none

/-- Take a move off the mover. -/
def Chip.dropMove (c : Chip) (r : Ref) : Chip := ({ c with moves := c.moves.filter (fun m => m.cmd ≠ r) } : Chip).dropUser r

/-- A move ends with a reply. -/
def Chip.endMove (c : Chip) (r : Ref) (status detail : Nat) : Chip := (c.dropMove r).reply r.queue r.tag status detail 0 []

/-- The bytes that the mover takes from its source: the host region, or what the PCIe requests returned. -/
def Chip.sourceBytes (c : Chip) (pcie : Bool) (a n : Nat) (data : List Byte) : List Byte :=
  if pcie then padTo n (data.take n) else c.hostRead a n

/-- The last byte of a WRITE lands. One translated before a FREE of its object completes normally, in memory that nothing
reads any more; one that finds no object, or not room for it, faults (R154, R158). -/
def Chip.finishWrite (c : Chip) (r : Ref) (p : Icp) (data : List Byte) : Chip :=
  let i := p.who
  let a := p.par 0 8
  let n := p.par 8 4
  if (c.freedFor i r).isSome then c.endMove r stOK 0
  else match c.check i a n with
    | .fault k => c.endMove r stAddrFault k
    | .ok o =>
      if o.dense && c.jobRuns i then c.endMove r stWriteProtected 0
      else if c.cmdHeld i o a n true then c
      else (c.landModel i a (c.sourceBytes (p.par 12 4 = 2) (p.par 16 8) n data)).endMove r stOK 0

/-- The bytes of a READ reach their destination; one to PCIe is followed by the flushing read (R330). -/
def Chip.readLands (c : Chip) (r : Ref) (p : Icp) (bs : List Byte) : Chip :=
  let dst := p.par 16 8
  if p.par 12 4 = 1 then (c.hostWrite dst bs).endMove r stOK 0
  else
    let c := (c.emit (.pcieWrite dst bs)).emit (.flushingRead (dst + p.par 8 4 - 4))
    { c with moves := modFirst (fun m => decide (m.cmd = r)) (fun m => { m with flushing := true }) c.moves }

/-- The last byte of a READ lands (R154, R158, R330). -/
def Chip.finishRead (c : Chip) (r : Ref) (p : Icp) : Chip :=
  let i := p.who
  let a := p.par 0 8
  let n := p.par 8 4
  match c.freedFor i r with
  | some bs => c.readLands r p bs
  | none => match c.check i a n with
    | .fault k => c.endMove r stAddrFault k
    | .ok o =>
      if c.cmdHeld i o a n false then c
      else (c.readMarks i o a n).readLands r p (c.frontRead i o a n)

/-- A TABLE_LOAD waits: its source, or a slot that it writes, meets the move of an extent or a window, or its source is a
dense object whose swap is to come (R25, R168, R175). -/
def Chip.loadHeld (c : Chip) (i : Nat) (t : Table) (p : Icp) (n : Nat) : Bool :=
  (p.par 24 1 % 16 = 2 && (c.objAt i (p.par 32 8)).any (fun o => c.cmdHeld i o (p.par 32 8) n false)) ||
    (List.range (p.par 16 8)).any (fun k => (c.holds t (p.par 8 8 + k)).any (fun l => c.slotHeld i t l true))

/-- The last row of a TABLE_LOAD is written (R162, R191). -/
def Chip.finishLoad (c : Chip) (r : Ref) (p : Icp) (data : List Byte) : Chip :=
  let i := p.who
  let loc := p.par 24 1 % 16
  let f : Fmt := if p.par 24 1 / 16 = 0 then .f32 else .bf16
  match c.tableOf i (p.par 0 2) with
  | none => c.endMove r stOK 0
  | some t =>
    let n := p.par 16 8 * tDim t.block * (if p.par 24 1 / 16 = 0 then 4 else 2)
    let src := if loc = 2 then (match c.objAt i (p.par 32 8) with
        | some o => c.frontRead i o (p.par 32 8) n
        | none => [])
      else c.sourceBytes (loc = 1) (p.par 32 8) n data
    if c.loadHeld i t p n then c
    else
      let c := if loc = 2 then c.touchAt i (p.par 32 8) n else c
      (c.loadRows i (p.par 0 2) (p.par 8 8) f src).endMove r stOK 0

/-- DATA_MOVE_COMPLETE (R41, R330, R409): one of the 8 commands that the mover runs writes its last byte. -/
def execDataMoveComplete (q : Nat) (tag : Word) (data : List Byte) (s : State) : Host.Outcome State Fault Refusal :=
  onChip s (fun c =>
    match (c.moves.take 8).find? (fun m => m.cmd.is q tag) with
    | none => c
    | some m => match c.moved m.cmd with
    | none => c
    | some st =>
      let r := m.cmd
      if m.flushing || ((pcieOffset st).isSome && !c.pcie.linkUp) then c
      else if st.op = 0x32 then c.finishWrite r st.cmd data
      else if st.op = 0x33 then c.finishRead r st.cmd
      else if st.op = 0x42 then c.finishLoad r st.cmd data
      else c)

/-- FLUSHING_READ_COMPLETE (R330). -/
def execFlushingReadComplete (q : Nat) (tag : Word) (s : State) : Host.Outcome State Fault Refusal :=
  onChip s (fun c =>
    match c.moves.find? (fun m => m.cmd.is q tag && m.flushing) with
    | some m => if c.pcie.linkUp then c.endMove m.cmd stOK 0 else c
    | none => c)

/-- PCIE_REQUEST_FAILURE (R328). -/
def execPcieRequestFailure (q : Nat) (tag : Word) (s : State) : Host.Outcome State Fault Refusal :=
  onChip s (fun c =>
    match c.moves.find? (fun m => m.cmd.is q tag) with
    | none => c
    | some m => match (c.moved m.cmd).bind pcieOffset with
      | some off =>
        let c : Chip := { c with pcie := { c.pcie with aer := c.pcie.aer ++ [m.cmd] } }
        c.endMove m.cmd stHostFault off
      | none => c)

/-! PIN (R166). -/

/-- The object whose extents hold [a, a + n), or the offset of the first byte outside (R153, R158). -/
def Chip.inExtents (c : Chip) (i a n : Nat) : Obj ⊕ Nat :=
  match c.objNear i a with
  | none => .inr 0
  | some o =>
    let top := o.addr + o.span * extentBytes
    if a + n ≤ top then .inl o else .inr (top - a)

/-- PIN by its value (R166): class 4h keeps its pins. A length of 0 meets no extent (DEDUCED, log 94). -/
def Chip.setPin (c : Chip) (p : Icp) : Verdict :=
  let i := p.who
  let a := p.par 0 8
  let n := p.par 8 8
  let pin := p.par 16 1 = 1
  if 1 < p.par 16 1 then badParam 16
  else match c.inExtents i a n with
    | .inr k => .refuse stAddrFault k
    | .inl o =>
      if o.cls = 4 then .done 0 [] c
      else .done 0 [] (c.onObj i o.addr (fun o => { o with extents := o.extents.mapIdx (fun k e =>
        if meets a n (o.addr + k * extentBytes) extentBytes then { e with pinned := pin } else e) }))

/-- PIN with value 1 (R166). -/
def execPin (p : Icp) (s : State) : Host.Outcome State Fault Refusal := icp 0x35 p s (fun c p => c.setPin p)
/-- PIN with value 0 (R166). -/
def execUnpin (p : Icp) (s : State) : Host.Outcome State Fault Refusal := icp 0x35 p s (fun c p => c.setPin p)

/-! Migration (R155, R167, R168). -/

/-- An extent starts to move: its target is reserved and mirrored, and panel 0 is copied (R168). -/
def Chip.startMove (c : Chip) (i a k : Nat) (pl : Place) (rot : Nat) : Chip :=
  ((c.wakeHub 3).onExtent i a k (fun e => { e with other := some pl, stage := some (.copy 0) })).setRot i pl.tier rot

/-- The next extent of a MIGRATE: those already in the target tier are skipped; the target tier evicts to make room (R163);
the last one done, or one that finds no room, ends it (R167). -/
def Chip.nextMove (c : Chip) (i a : Nat) : List Nat → Chip
  | [] =>
    match (c.objStart i a).bind (·.migration) with
    | none => c
    | some m =>
      let c := c.onObj i a (fun o => { o with migration := none })
      (match m.cmd with | some r => c.commandDone r stOK 0 | none => c)
  | k :: rest =>
    match c.objStart i a with
    | none => c
    | some o =>
      match o.migration with
      | none => c
      | some m =>
        if (o.extents[k]?).all (fun e => e.place.tier = m.target) then c.nextMove i a rest
        else
        let c := Chip.evictFor i m.target (copiesOf o.cls) 1 (c.extentCount i) c
        match c.roomIn i m.target (copiesOf o.cls) 1 with
          | some ([pl], rot) =>
            (c.onObj i a (fun o => { o with migration := some { m with todo := rest } })).startMove i a k pl rot
          | _ =>
            let why := c.whyFull i m.target (copiesOf o.cls) 1
            let c := c.onObj i a (fun o => { o with migration := none })
            match m.cmd with
            | some r => c.commandDone r why m.target
            | none => c

/-- MIGRATE (R167). Of a stash object it is refused with ADDR_FAULT 0 (DEDUCED, log 93). -/
def execMigrate (p : Icp) (s : State) : Host.Outcome State Fault Refusal :=
  icp 0x34 p s (fun c p =>
    let i := p.who
    let a := p.par 0 8
    let n := p.par 8 8
    let t := p.par 16 1
    if a % extentBytes ≠ 0 then badParam 0
    else if n = 0 || n % extentBytes ≠ 0 then badParam 8
    else if 2 < t then badParam 16
    else match c.inExtents i a n with
      | .inr k => .refuse stAddrFault k
      | .inl o =>
        if o.cls = 4 then .refuse stAddrFault 0
        else if o.table.isSome && t = 2 then badParam 16
        else if o.moving then c.badState p
        else
          let ks := (List.range (n / extentBytes)).map ((a - o.addr) / extentBytes + ·)
          let c := c.onObj i o.addr (fun o => { o with migration := some { target := t, todo := ks, cmd := some (c.refOf p) } })
          .later ((c.reply p.queue p.tag stPending 0 0 []).nextMove i o.addr ks))

/-- The stage of an extent of an object. -/
def Chip.stageOf (c : Chip) (i a k : Nat) : Option MStage := ((c.objStart i a).bind (fun o => o.extents[k]?)).bind (·.stage)

/-- MIGRATION_PANEL_COPY_DONE (R168). -/
def execMigrationPanelCopyDone (i obj ext : Nat) (s : State) : Host.Outcome State Fault Refusal :=
  onChip s (fun c =>
    match c.stageOf i obj ext with
    | some (.copy n) =>
      (c.onExtent i obj ext (fun e => { e with stage := some (if n < 63 then .copy (n + 1) else .commit) })).replayHandoffs i
    | _ => c)

/-- MIGRATION_COMMIT (R167, R168): the map entry switches, and a MIGRATE goes on to its next extent. -/
def execMigrationCommit (i obj ext : Nat) (s : State) : Host.Outcome State Fault Refusal :=
  onChip s (fun c =>
    match c.stageOf i obj ext with
    | some .commit =>
      let c := match c.objStart i obj with
        | none => c
        | some o => match o.extents[ext]? with
          | none => c
          | some e =>
            let c := c.onExtent i obj ext (fun e =>
              { e with place := e.other.getD e.place, other := some e.place, stage := some .release, relay := false })
            ((c.rowsMoved i o ext e.place (e.other.getD e.place)).quotaSettle i).replayHandoffs i
      match (c.objStart i obj).bind (·.migration) with
      | some m => c.nextMove i obj m.todo
      | none => c
    | _ => c)

/-- MIGRATION_RELEASE (R168). -/
def execMigrationRelease (i obj ext : Nat) (s : State) : Host.Outcome State Fault Refusal :=
  onChip s (fun c =>
    match c.stageOf i obj ext with
    | some .release => c.onExtent i obj ext (fun e => { e with other := none, stage := none })
    | _ => c)

/-! Ages and eviction (R162, R164, R165, R384). -/

/-- EXTENT_AGE_TICK (R162). -/
def execExtentAgeTick (s : State) : Host.Outcome State Fault Refusal :=
  onChip s (fun c => { c with insts := c.insts.map (fun e => (e.1, { e.2 with objs := e.2.objs.map (fun o =>
    { o with extents := o.extents.map (fun x => { x with age := satAdd x.age 1 }) }) })) })

/-- A place is out of service: its engine or its port has retired (R384). -/
def Chip.deadPlace (c : Chip) (pl : Place) : Bool :=
  (pl.tier = 0 && c.isRetired 7 (pl.unit / 4)) || (pl.tier = 1 && c.isRetired 8 pl.unit) ||
    (pl.tier = 2 && c.isRetired 2 pl.unit)

/-- The extents of an instance in a tier that are not moving, in ascending address. -/
def Chip.settled (c : Chip) (i tier : Nat) : List (Obj × Nat × Extent) :=
  ((c.inst i).objs.flatMap (fun o => (o.extents.mapIdx (fun k e => (o, k, e))).filter (fun x =>
    x.2.2.place.tier = tier && x.2.2.stage.isNone))).mergeSort
      (fun x y => x.1.addr + x.2.1 * extentBytes ≤ y.1.addr + y.2.1 * extentBytes)

/-- Data that no unit can take is poisoned, and its place freed (R384): place 3 is none (DEDUCED, log 94). -/
def Chip.loseExtent (c : Chip) (i : Nat) (o : Obj) (k : Nat) : Chip :=
  let gs := (List.range (copiesOf o.cls)).flatMap (fun m =>
    (List.range 4096).map (fun g => dramKey i m (o.addr + k * extentBytes) / 64 + g))
  let c : Chip := { c with poison := c.poison ++ gs.filter (fun g => !c.poison.contains g) }
  c.onExtent i o.addr k (fun e => { e with place := ⟨3, 0⟩ })

/-- Extents that already leave a tier. -/
def Chip.leaving (c : Chip) (i tier : Nat) : Nat :=
  ((c.inst i).objs.map (fun o => copiesOf o.cls * (o.extents.filter (fun e =>
    e.place.tier = tier && e.stage.isSome && e.other.any (fun p => p.tier ≠ tier))).length)).sum

/-- Where an extent lies once its move is over. -/
def Extent.final (e : Extent) : Place := if e.stage = some .release then e.place else e.other.getD e.place

/-- Extents of PC group g once the moves under way are over. -/
def Chip.finalAt (c : Chip) (g : Nat) : Nat :=
  ((List.range 16).map (fun i => ((c.inst i).charged.map (fun o =>
    copiesOf o.cls * (o.extents.filter (fun e => e.final = ⟨0, g⟩)).length)).sum)).sum

/-- A PC group of the instance holds more than its live PCs take (R165); what already leaves it does not count. -/
def Chip.excessGroup (c : Chip) (i : Nat) : Option Nat :=
  (c.tierUnits i 0).find? (fun g => c.groupCap g < c.finalAt g)

/-- The next extent of the instance to be laid out again within its PC group or its burrow engine moves to the same one
(R165, R384). Its target panels need no room of their own there (DESIGN CHOICE, log 94). -/
def Chip.relayout (c : Chip) (i tier : Nat) : Option Chip :=
  ((c.settled i tier).find? (·.2.2.relay)).map (fun x => c.startMove i x.1.addr x.2.1 x.2.2.place ((c.inst i).rot.getD tier 0))

/-- One eviction by age (R162, R164, R165): of the whole tier, or of one PC group. -/
def Chip.evictStep (c : Chip) (i tier : Nat) (group : Option Nat) : Option Chip :=
  match victim ((c.evictable i tier).filter (fun x => group.all (fun g => x.2.2.place.unit = g))) with
  | none => none
  | some (o, k, _) =>
    match c.evictPlace i o tier with
    | some ([pl], rot) => some (c.startMove i o.addr k pl rot)
    | _ => none

/-- The instance is over quota in a tier, and nothing can be evicted (R164): one notice. -/
def Chip.overQuota (c : Chip) (i tier above : Nat) : Chip :=
  let was := if tier = 1 then (c.inst i).overMod else (c.inst i).overExp
  let c := c.onInst i (fun x => { x with
    overMod := if tier = 1 then true else x.overMod, overExp := if tier = 2 then true else x.overExp,
    evicting := x.evicting.filter (· ≠ tier) })
  if was then c else c.notify [i] ncOverQuota tier (above * extentBytes)

/-- QUOTA_EVICTION_TICK (R162, R164, R165, R384): one extent leaves; the moves that a retirement forces go first. No move starts for an
instance in its reset (R369). -/
def execQuotaEvictionTick (i tier : Nat) (s : State) : Host.Outcome State Fault Refusal :=
  onChip s (fun c =>
    if (c.inst i).resetting.isSome then c else
    match (c.settled i tier).find? (fun x => c.deadPlace x.2.2.place) with
    | some (o, k, _) =>
      (match c.placeIn i 1 (copiesOf o.cls) 1 with
      | some ([pl], rot) => c.startMove i o.addr k pl rot
      | _ => c.loseExtent i o k)
    | none => match c.relayout i tier with
    | some c => c
    | none =>
      if tier = 0 then ((c.excessGroup i).bind (fun g => c.evictStep i 0 (some g))).getD c
      else if tier = 1 || tier = 2 then
        let was := if tier = 1 then (c.inst i).overMod else (c.inst i).overExp
        let above := c.use i tier - c.leaving i tier - c.quota i tier
        if !was && !(c.inst i).evicting.contains tier then c
        else if above = 0 then c.quotaSettle i
        else match c.evictStep i tier none with
          | some c => c
          | none => if c.leaving i tier = 0 then c.overQuota i tier above else c
      else c)

/-- QUOTA_SET (R149, R161, R164). -/
def execQuotaSet (p : Icp) (s : State) : Host.Outcome State Fault Refusal :=
  icp 0x23 p s (fun c p =>
    c.needInst p (
      let i := p.who
      let t := p.par 0 1
      let n := p.par 8 8 / extentBytes
      if !(t = 1 || t = 2) then badParam 0
      else
        let others := (((List.range 16).filter (· ≠ i)).map (fun k => c.quota k t)).sum
        if c.pool t < others + n then .refuse stNoSpace t
        else
          let c := c.onInst i (fun x =>
            if t = 1 then { x with quotaMod := n * extentBytes } else { x with quotaExp := n * extentBytes })
          let c := c.quotaSettle i
          .done 0 [] (if n < c.use i t && !(c.inst i).evicting.contains t then
            c.onInst i (fun x => { x with evicting := x.evicting ++ [t] }) else c)))

/-! Guarantees (R170 to R172). -/

/-- GUARANTEE_SET (R171, R172). -/
def execGuaranteeSet (p : Icp) (s : State) : Host.Outcome State Fault Refusal :=
  icp 0x24 p s (fun c p =>
    c.needInst p (
      let i := p.who
      let t := p.par 0 1
      let v := p.par 8 8
      if 2 < t then badParam 0
      else
        let d := c.derated i t
        let others := c.otherGuar i t
        if (c.inst i).guarOf t < v && 85 * d.1 < (others + v) * 100 * d.2 then
          .refuse stGuaranteeRefused ((85 * d.1 - others * 100 * d.2) / (100 * d.2))
        else .done v [] ((c.onInst i (fun x => { x with guar := lput x.guar t v })).rescale)))

/-- A stack or a module channel becomes hot or cool (R170, R172). -/
def Chip.setHot (c : Chip) (channel hot : Bool) (idx : Nat) : Chip :=
  let put := fun {w : Nat} (v : BitVec w) => if hot then v ||| BitVec.ofNat w (2 ^ idx) else v &&& ~~~(BitVec.ofNat w (2 ^ idx))
  let c : Chip := if channel then { c with hotChannels := put c.hotChannels } else { c with hotStacks := put c.hotStacks }
  c.rescale

/-- TEMPERATURE_HOT (R170). -/
def execTemperatureHot (channel : Bool) (idx : Nat) (s : State) : Host.Outcome State Fault Refusal :=
  onChip s (fun c => c.setHot channel true idx)

/-- TEMPERATURE_COOL (R170). -/
def execTemperatureCool (channel : Bool) (idx : Nat) (s : State) : Host.Outcome State Fault Refusal :=
  onChip s (fun c => c.setHot channel false idx)

end Sys2Proof.Machine
end

