-- ==== Sys2Proof/Machine/Units.lean ====
section
/-! DEFINITION. Units: fault buckets (R381), retirement and its effects (R384, R385), disabling and enabling (R67 to R70),
poisoned reads (R382, R383), calibration windows and retunes (R175, R176). -/

namespace Sys2Proof.Machine

/-- Units of a class (R67; table "Fault buckets"). -/
def unitCount (cls : Nat) : Nat := [32, 2, 4, 1600, 1024, 96, 512, 16, 8, 64, 4, 4].getD cls 0

/-- The unit exists. -/
def unitOk (u : UnitId) : Bool := u.idx < unitCount u.cls

/-- Threshold of a class's buckets, 0 where the table gives none. -/
def threshold (cls : Nat) : Nat := [32, 0, 16, 64, 1024, 1024, 64, 32, 32, 16, 32, 256].getD cls 0

/-- The table "Fault buckets" has an event of this weight for the class. -/
def hasEvent (cls : Nat) : FaultWeight → Bool
  | .one => threshold cls ≠ 0
  | .sixteen => [0, 4, 5].contains cls
  | .atOnce => [3, 6, 10, 11].contains cls

/-- A lane control word with its CRC (R259; its content, log 26). -/
def laneWord (type content : Nat) : BitVec 80 :=
  let top := type * 2 ^ 56 + content
  BitVec.ofNat 80 (top * 2 ^ 16 + crc16 0xFFFF (beBytes 8 top))

/-! Effects of retirement (table "Effects of retirement"). -/

/-- A tile is out of service: its part of a launch is over. Signals to it are still acknowledged (DEDUCED, log 70). -/
def Chip.killTile (c : Chip) (t : Nat) : Chip :=
  let k := c.tile t
  let c := c.setTile t { k with run := .idle, launch := none, ended := false, hold := none, loops := [], units := [] }
  let c : Chip := { c with front := c.front.filter (fun f => f.tile ≠ t) }
  match c.ownerOf t, k.launch with
  | some i, some r =>
    let c := c.onLaunch i r (fun l => { l with overs := l.overs ++ [t] })
    match c.launchBy i r with
    | none => c
    | some l => if l.started then c.launchOver i l else c
  | _, _ => c

/-- The launches of an instance that hold one of these tiles stop with RETIRED, and the tiles are out of service. -/
def Chip.retireTiles (c : Chip) (i : Nat) (u : UnitId) (ts : List Nat) : Chip :=
  let ls := (c.inst i).launches.filter (fun l => l.tiles.any (fun t => ts.contains t))
  let c := ls.foldl (fun (c : Chip) l => c.stopLaunch i l stRetired (unitSubject u)) c
  ts.foldl (fun (c : Chip) t => if (c.tile t).launch.isSome then c.killTile t else c) c

/-- An extent of the instance lies on one of these places, or is moving to or from one. -/
def Chip.liesOn (c : Chip) (i : Nat) (f : Place → Bool) : Bool :=
  (c.inst i).objs.any (fun o => o.extents.any (fun e => f e.place || e.other.any f))

/-- A move whose target is out of service is given another one, and copies again; where there is none, it ends, and a
MIGRATE ends as R167 gives. -/
def Chip.retarget (c : Chip) : Chip :=
  let hit := (List.range 16).flatMap (fun i => (c.inst i).objs.flatMap (fun o =>
    (o.extents.mapIdx (fun k e => (i, o, k, e))).filter (fun x => match x.2.2.2.stage with
      | some (.copy _) | some .commit => x.2.2.2.other.any (c.deadPlace ·)
      | _ => false)))
  hit.foldl (fun (c : Chip) x =>
    let tier := (x.2.2.2.other.map (·.tier)).getD 0
    match c.placeIn x.1 tier (copiesOf x.2.1.cls) 1 with
    | some ([pl], rot) => c.startMove x.1 x.2.1.addr x.2.2.1 pl rot
    | _ =>
      let c := c.onExtent x.1 x.2.1.addr x.2.2.1 (fun e => { e with other := none, stage := none })
      match (c.objStart x.1 x.2.1.addr).bind (·.migration) with
      | some m => c.nextMove x.1 x.2.1.addr (x.2.2.1 :: m.todo)
      | none => c) c

/-- The pool of a tier has shrunk: every quota is cut by one factor, so that the sum fits (R165). -/
def Chip.cutQuotas (c : Chip) (tier : Nat) : Chip :=
  let sum := ((List.range 16).map (fun i => c.quota i tier)).sum
  let pool := c.pool tier
  if sum ≤ pool then c
  else (List.range 16).foldl (fun (c : Chip) i =>
    if c.quota i tier = 0 then c
    else
      let q := c.quota i tier * pool / sum
      let c := c.onInst i (fun x =>
        if tier = 1 then { x with quotaMod := q * extentBytes } else { x with quotaExp := q * extentBytes })
      if q < c.use i tier && !(c.inst i).evicting.contains tier then
        c.onInst i (fun x => { x with evicting := x.evicting ++ [tier] }) else c) c

/-- Jobs of the instances that a test picks end by self-declared failure (R383). -/
def Chip.failJobs (c : Chip) (f : Nat → Bool) : Chip :=
  (List.range 16).foldl (fun (c : Chip) i => if c.jobRuns i && f i then c.selfFail i else c) c

/-- The port stops sending and landing, sessions of its queues end and their partial packets are discarded (R337). -/
def Chip.shutEthernet (c : Chip) (e : Nat) : Chip :=
  let qs := (List.range 256).filter (fun q => (c.queue q).route = .udp && (c.queue q).peer.any (fun p => p.port = e))
  let c := qs.foldl (fun (c : Chip) q => match (c.queue q).session with
    | some n => c.endSession n
    | none => c) c
  qs.foldl (fun (c : Chip) q => c.dropPartials q) c

/-- EN of the feed streams of a retired port is cleared, as a write of 0 clears it (R337, R342). -/
def Chip.clearFeeds (c : Chip) (e : Nat) : Chip :=
  (List.range 16).foldl (fun (c : Chip) k =>
    let f := c.feed (16 * e + k)
    if f.en then c.setFeed (16 * e + k) { f with en := false, head := 0, tail := 0 } else c) c

/-- A unit of classes 0 to 2 is out of service: its pending enables get RETIRED (R69, R70, R384). -/
def Chip.endUnit (c : Chip) (u : UnitId) : Chip :=
  let v := c.unit u
  (c.setUnit u { v with st := .retired, enables := [], disableWaits := false }).doneAll v.enables stRetired (unitSubject u)

/-- Readings of a bus become unreadable (R343, R344, R346) (DEDUCED, log 80). -/
def Side.unreadable (x : Side) (bus : Nat) : Side :=
  if bus = 0 then { x with rails := List.replicate 24 0xFFFF, temps := lput x.temps 5 0x8000 }
  else if bus = 1 then { x with temps := lput (lput x.temps 6 0x8000) 7 0x8000 }
  else if bus = 2 then { x with temps := lput x.temps 4 0x8000 }
  else x

/-- A lane leaves its link (R262, R283): its retire word goes out on every live lane of a link that is up, and the
answer ends the retirement; a link that is not up drops the lane now. Answers whether the link must retire. The lane
counts as retired once the answer is there, the notice goes at once (DEDUCED, log 73); version 2 needs all sixteen
(DEDUCED, log 74). -/
def Chip.loseLane (c : Chip) (k lane : Nat) : Chip × Bool :=
  let l := c.link k
  let going := l.retiring.filter (l.lanesUp.contains ·)
  let left := (l.lanesUp.filter (fun n => n ≠ lane && !going.contains n)).length
  if l.st = .up && l.major = 3 && 12 ≤ left then
    (l.lanesUp.foldl (fun (c : Chip) n => c.emit (.laneWord k n (laneWord 3 lane)))
      (c.setLink k { l with retiring := l.retiring ++ [lane] }), false)
  else
    (c.setLink k { l with retiredLanes := l.retiredLanes ||| BitVec.ofNat 16 (2 ^ lane) }, left < 12 || l.major = 2)

/-- A link is out of service (R276, R284): lasers off, its packets not acknowledged go out on the other links. -/
def Chip.dropLink (c : Chip) (k : Nat) : Chip :=
  (c.onLink k (fun l => { l with st := .retired, lasers := false, lock := none, retiring := [] })).resendLink k

/-- Instances whose own resources a retirement concerns (R75; log 61). -/
def Chip.concerned (c : Chip) (u : UnitId) : List Nat :=
  let ids := c.liveInsts
  if u.cls = 2 then ids.filter (fun i => c.liesOn i (fun p => p.tier = 2 && p.unit = u.idx))
  else if u.cls = 3 then ids.filter (fun i => c.ownsTile i u.idx)
  else if u.cls = 4 then ids.filter (fun i => (c.inst i).pcGroups.getLsbD (u.idx / 16))
  else if u.cls = 5 then ids.filter (fun i => c.liesOn i (fun p => p.tier = 1 && p.unit = u.idx / 12))
  else if u.cls = 7 then ids.filter (fun i => (List.range 4).any (fun g => (c.inst i).pcGroups.getLsbD (4 * u.idx + g)))
  else if u.cls = 8 then ids.filter (fun i => c.liesOn i (fun p => p.tier = 1 && p.unit = u.idx))
  else if u.cls = 11 then ids.filter (fun i => (List.range 1600).any (fun t => c.ownsTile i t && dieOf t = u.idx))
  else []

/-- A sett or burrow engine is out of service (R384): requests inside it are lost, jobs with an extent on it fail, moves to
it are given another target. -/
def Chip.dropEngine (c : Chip) (e : Nat) (on : Place → Bool) (kids : List UnitId) : Chip :=
  let hit := (List.range 16).filter (fun i => c.liesOn i on)
  let c : Chip := { c with retired := c.retired ++ kids.filter (fun k => !c.retired.contains k) }
  let c := c.setEngine e { c.engine e with queue := [], pools := [] }
  (c.failJobs (fun i => hit.contains i)).retarget

/-- A tile die is out of service (R385): launches on it stop, its blocks leave their instances, whose jobs fail. -/
def Chip.dropDie (c : Chip) (d : Nat) : Chip :=
  let hit := c.liveInsts.filter (fun i => (List.range 1600).any (fun t => c.ownsTile i t && dieOf t = d))
  let c := hit.foldl (fun (c : Chip) i => c.retireTiles i ⟨11, d⟩ ((c.tilesOf i).filter (fun t => dieOf t = d))) c
  let c := c.failJobs (fun i => hit.contains i)
  let gone := (List.range 100).filter (fun b => dieOf (160 * (b / 10) + 4 * (b % 10)) = d)
  let mask := BitVec.ofNat 100 ((gone.map (fun b => 2 ^ b)).sum)
  hit.foldl (fun (c : Chip) i => c.onInst i (fun x => { x with blocks := x.blocks &&& ~~~mask })) c

/-- Fewer than 8 live update cores fail the running jobs that registered an object (R211). -/
def Chip.coresGone (c : Chip) : Chip :=
  c.liveInsts.foldl (fun (c : Chip) i => c.coreFail i) c

/-- Every extent of a PC group or a burrow engine is to be laid out again over what is live of it (R155, R165, R384). -/
def Chip.relayPlace (c : Chip) (pl : Place) : Chip :=
  { c with insts := c.insts.map (fun e => (e.1, { e.2 with objs := e.2.objs.map (fun o =>
      { o with extents := o.extents.map (fun x => if x.place = pl then { x with relay := true } else x) }) })) }

/-- The effect of a retirement by its class (table "Effects of retirement"; links and lanes apart). The units that
retire with an engine or a second die are told of by its one notice (DEDUCED, log 69). -/
def Chip.retireEffect (c : Chip) (u : UnitId) : Chip :=
  if u.cls = 1 then ((c.endUnit u).shutEthernet u.idx).clearFeeds u.idx
  else if u.cls = 2 then ((c.endUnit u).retarget.cutQuotas 2).rescale
  else if u.cls = 3 then
    match c.ownerOf u.idx with
    | none => c
    | some i => (c.retireTiles i u [u.idx]).failJobs (fun k => k = i)
  else if u.cls = 4 then (c.relayPlace ⟨0, u.idx / 16⟩).rescale
  else if u.cls = 5 then ((c.relayPlace ⟨1, u.idx / 12⟩).cutQuotas 1).rescale
  else if u.cls = 7 then
    (c.dropEngine u.idx (fun p => p.tier = 0 && p.unit / 4 = u.idx)
      ((List.range 64).map (fun j => ⟨4, 64 * u.idx + j⟩))).rescale
  else if u.cls = 8 then
    ((c.dropEngine (16 + u.idx) (fun p => p.tier = 1 && p.unit = u.idx)
      ((List.range 12).map (fun j => ⟨5, 12 * u.idx + j⟩))).cutQuotas 1).rescale
  else if u.cls = 9 then c.coresGone
  else if u.cls = 10 then { c with side := c.side.unreadable u.idx }
  else if u.cls = 11 then
    let c := c.dropDie u.idx
    if c.liveCount 11 4 ≤ 2 then
      let rest := (List.range 4).filter (fun d => !c.isRetired 11 d)
      rest.foldl (fun (c : Chip) d => ({ c with retired := c.retired ++ [⟨11, d⟩] } : Chip).dropDie d) c
    else c
  else c

/-- The notice of a retirement (R384). -/
def Chip.retireNotice (c : Chip) (u : UnitId) (cause : Nat) (who : List Nat) : Chip :=
  if u.cls = 10 then c.notify [] ncBusRetired u.idx 0
  else if u.cls = 11 then c.notify who ncDieRetired u.idx c.liveTiles
  else c.notify who ncChannelRetired (unitSubject u) cause

/-- The entry of the retire log, and the unit marked (R384, R391). -/
def Chip.logRetired (c : Chip) (u : UnitId) (cause : Nat) : Chip :=
  { c with
    store := if c.store.retireLog.length < 131072 then
        { c.store with retireLog := c.store.retireLog ++ [{ unit := u, cause := cause }] } else c.store
    retired := c.retired ++ [u], retiredNow := true }

/-- A link retires (R284). -/
def Chip.retireLink (c : Chip) (k cause : Nat) : Chip :=
  if c.isRetired 0 k then c
  else
    let c := ((c.logRetired ⟨0, k⟩ cause).endUnit ⟨0, k⟩).dropLink k
    c.retireNotice ⟨0, k⟩ cause []

/-- A unit retires (R384): the log, the effects, the notice. A lane that its link cannot spare takes the link with it
(R283). -/
def Chip.retire (c : Chip) (u : UnitId) (cause : Nat) : Chip :=
  if !unitOk u || c.isRetired u.cls u.idx then c
  else if u.cls = 0 then c.retireLink u.idx cause
  else
    let who := c.concerned u
    let c := c.logRetired u cause
    if u.cls = 6 then
      let r := c.loseLane (u.idx / 16) (u.idx % 16)
      let c := r.1.retireNotice u cause []
      if r.2 then c.retireLink (u.idx / 16) 0 else c
    else (c.retireEffect u).retireNotice u cause who

/-! Buckets (R381). -/

def Chip.bucket (c : Chip) (u : UnitId) : Nat := tget 0 c.buckets (unitKey u)

/-- Add a weight to a unit's bucket; at the threshold, or at once, it retires (R381). -/
def Chip.faultEvent (c : Chip) (u : UnitId) (w : FaultWeight) : Chip :=
  if !unitOk u || c.isRetired u.cls u.idx || !hasEvent u.cls w then c
  else match w with
    | .atOnce => c.retire u 0
    | _ =>
      let v := min (threshold u.cls) (c.bucket u + (if w = .one then 1 else 16))
      let c : Chip := { c with buckets := tput c.buckets (unitKey u) v }
      if v = threshold u.cls then c.retire u 0 else c

/-- One second in tc (R370). -/
def tcPerSecond : Nat := 2000000000

/-- The controller of a pseudo-channel or channel has counted this granule within the last second (R382). -/
def Chip.remembered (c : Chip) (u : UnitId) (granule : Nat) : Bool :=
  (tget [] c.corrected (unitKey u)).any (fun e => e.1 = granule && c.tc < e.2 + tcPerSecond)

/-- The controller remembers a corrected granule, the last 64 of them (R382). -/
def Chip.remember (c : Chip) (u : UnitId) (granule : Nat) : Chip :=
  let es := (tget [] c.corrected (unitKey u)).filter (fun e => e.1 ≠ granule) ++ [(granule, c.tc)]
  { c with corrected := tput c.corrected (unitKey u) (es.drop (es.length - 64)) }

/-- FAULT_EVENT (R381): an uncorrectable codeword of a lane also raises its link's UNCORR (R287). `granule` is the granule
that a memory controller corrected, none for every other event; a controller counts one at most once per second (R382). -/
def execFaultEvent (u : UnitId) (w : FaultWeight) (granule : Option Nat) (s : State) : Host.Outcome State Fault Refusal :=
  onChip s (fun c =>
    let c := if u.cls = 6 && unitOk u && w = .one then
      c.onLink (u.idx / 16) (fun l => { l with uncorr := satAdd l.uncorr 1 }) else c
    match granule with
    | none => c.faultEvent u w
    | some g =>
      if !unitOk u || c.remembered u g then c else (c.remember u g).faultEvent u w)

/-- BUCKET_LEAK (R381): at the end of a unit's leak period. -/
def execBucketLeak (u : UnitId) (s : State) : Host.Outcome State Fault Refusal :=
  onChip s (fun c => if unitOk u then { c with buckets := tput c.buckets (unitKey u) (c.bucket u - 1) } else c)

/-- UPDATE_CORE_UPSET (R215, R381): the stage in progress runs again from its first panel group not written, with the same
results, and the core's bucket counts one event. -/
def execUpdateCoreUpset (core : Nat) (s : State) : Host.Outcome State Fault Refusal :=
  onChip s (fun c => c.faultEvent ⟨9, core⟩ .one)

/-! Poison (R381 to R383). -/

/-- POISONED_READ (R382, R383): a read whose re-read fails too. The granule is poisoned from now on, the read is counted, and
a running job of the reading instance fails. The row itself stands for that read (DESIGN CHOICE, log 72); every later read
that meets the granule does so by itself (`Chip.meetPoison`). -/
def execPoisonedRead (i addr : Nat) (s : State) : Host.Outcome State Fault Refusal :=
  onChip s (fun c =>
    match c.objNear i addr with
    | none => c
    | some o =>
      let known := (List.range (copiesOf o.cls)).any (fun m => !(c.poisonedIn i m addr 1).isEmpty)
      let c : Chip := { c with poison := if known then c.poison else c.poison ++ [dramKey i 0 addr / 64]
                               poisonReads := satAdd c.poisonReads 1 }
      let c := match o.extents[(addr - o.addr) / extentBytes]? with
        | some e => if e.place.tier = 2 then c.faultEvent ⟨2, e.place.unit⟩ .one else c
        | none => c
      if c.jobRuns i then c.selfFail i else c)

/-! Calibration (R175, R176). -/

/-- New delay and voltage codes: one step of pseudo-channel or, from 1,024, channel k. -/
def Chip.stepCodes (c : Chip) (k : Nat) : Chip := { c with codes := tput c.codes k (tget 0 c.codes k + 1) }

/-- The pseudo-channel of a stack whose window comes next, in PC order; a retired one takes none (R175). -/
def Chip.nextWindow (c : Chip) (stack : Nat) : Option Nat :=
  ((List.range 64).map (fun d => 64 * stack + (tget 0 c.calNext stack + d) % 64)).find? (fun k => !c.isRetired 4 k)

/-- CALIBRATION_WINDOW_START (R175): requests to the pseudo-channel are held from now on. -/
def execCalibrationWindowStart (pc : Nat) (s : State) : Host.Outcome State Fault Refusal :=
  onChip s (fun c =>
    if 1024 ≤ pc || c.nextWindow (pc / 64) ≠ some pc || c.windows.any (fun w => w / 64 = pc / 64) then c
    else { c with windows := c.windows ++ [pc], calNext := tput c.calNext (pc / 64) ((pc + 1) % 64) })

/-- CALIBRATION_WINDOW_END (R175, R176, R381). -/
def execCalibrationWindowEnd (pc : Nat) (moved belowFloor : Bool) (s : State) : Host.Outcome State Fault Refusal :=
  onChip s (fun c =>
    if !c.windows.contains pc then c
    else
      let c : Chip := { c with windows := c.windows.filter (· ≠ pc) }
      let c := c.liveInsts.foldl (fun (c : Chip) i => c.replayHandoffs i) c
      let c := if moved then c.stepCodes pc else c
      if belowFloor then c.faultEvent ⟨4, pc⟩ .one else c)

/-- CHANNEL_RETUNE (R176, R381). -/
def execChannelRetune (ch : Nat) (moved belowFloor : Bool) (s : State) : Host.Outcome State Fault Refusal :=
  onChip s (fun c =>
    if 96 ≤ ch || c.isRetired 5 ch then c
    else
      let c := if moved then c.stepCodes (1024 + ch) else c
      if belowFloor then c.faultEvent ⟨5, ch⟩ .one else c)

/-! UNIT_DISABLE, UNIT_ENABLE, UNIT_RETIRE (R67 to R70, R285, R334, R337). -/

/-- A shutdown starts (R68). -/
def Chip.startShutdown (c : Chip) (u : UnitId) : Chip :=
  let c := c.setUnit u { c.unit u with st := .shuttingDown, disableWaits := false }
  if u.cls = 0 then c.rebuild
  else if u.cls = 1 then c.shutEthernet u.idx
  else c.rescale

/-- The unit that a command names. -/
def unitNamed (p : Icp) : UnitId := ⟨p.par 0 1, p.par 2 2⟩

/-- Fields of a unit command out of range (R67): `top` is the highest class it takes. The DETAILs are the fields' byte
offsets (DEDUCED, log 71). -/
def unitRange (p : Icp) (top : Nat) : Option Nat :=
  if top < (unitNamed p).cls then some 0 else if unitOk (unitNamed p) then none else some 2

/-- UNIT_DISABLE (R68 to R70, R285, R334, R337). A retired unit is refused with RETIRED (DEDUCED, log 71). -/
def execUnitDisable (p : Icp) (s : State) : Host.Outcome State Fault Refusal :=
  icp 0x70 p s (fun c p =>
    let u := unitNamed p
    match unitRange p 2 with
    | some k => badParam k
    | none =>
      if c.isRetired u.cls u.idx then .refuse stRetired (unitSubject u)
      else
        let v := c.unit u
        match v.st with
        | .enabled => .done 0 [] (c.startShutdown u)
        | .shuttingDown | .disabled => .done 0 [] c
        | .shutdownEnablePending =>
          .done 0 [] ((c.setUnit u { v with st := .shuttingDown, enables := [] }).doneAll v.enables stCancelled 0)
        | .enabling => .done 0 [] (c.setUnit u { v with disableWaits := true })
        | .retired => .refuse stRetired (unitSubject u))

/-- UNIT_ENABLE (R69, R70). -/
def execUnitEnable (p : Icp) (s : State) : Host.Outcome State Fault Refusal :=
  icp 0x71 p s (fun c p =>
    let u := unitNamed p
    match unitRange p 2 with
    | some k => badParam k
    | none =>
      if c.isRetired u.cls u.idx then .refuse stRetired (unitSubject u)
      else
        let v := c.unit u
        let more := fun (st : UnitSt) => Verdict.pending (c.setUnit u { v with st := st, enables := v.enables ++ [(c.refOf p)] })
        match v.st with
        | .enabled => .done 0 [] c
        | .disabled => more .enabling
        | .enabling => more .enabling
        | .shuttingDown | .shutdownEnablePending => more .shutdownEnablePending
        | .retired => .refuse stRetired (unitSubject u))

/-- UNIT_RETIRE (R384): of a unit already retired, OK and nothing is logged. -/
def execUnitRetire (p : Icp) (s : State) : Host.Outcome State Fault Refusal :=
  icp 0x72 p s (fun c p =>
    match unitRange p 5 with
    | some k => badParam k
    | none => .done 0 [] (c.retire (unitNamed p) 1))

/-- What a shutdown waits for: a link's lasers off (R285), a port without extents (R334). -/
def Chip.shutDone (c : Chip) (u : UnitId) : Bool :=
  if u.cls = 0 then !(c.link u.idx).lasers
  else if u.cls = 2 then c.usedAt 2 u.idx = 0
  else true

/-- UNIT_SHUTDOWN_COMPLETE (R69, R285, R334, R337). -/
def execUnitShutdownComplete (u : UnitId) (s : State) : Host.Outcome State Fault Refusal :=
  onChip s (fun c =>
    let v := c.unit u
    if 2 < u.cls || !unitOk u || !c.shutDone u then c
    else
      let c := if u.cls = 0 && (v.st = .shuttingDown || v.st = .shutdownEnablePending) then
        c.onLink u.idx (fun l => { l with st := .disabled }) else c
      match v.st with
        | .shuttingDown => c.setUnit u { v with st := .disabled }
        | .shutdownEnablePending => c.setUnit u { v with st := .enabling }
        | _ => c)

/-- The CXL device of a port as the enumeration finds it (R333): 0 extents where it offers less than 1 GB. -/
def cxlFound (d : CxlDevice) : Cxl :=
  { extents := if d.offered < 1000000000 then 0 else min d.offered 4000000000000 / extentBytes
    bandwidth := BitVec.ofNat 64 d.bandwidth, latency := BitVec.ofNat 64 d.latency }

/-- A link begins training step 1 (R260, R264, R269, R276): its packets not acknowledged whole go out again. -/
def Chip.trainLink (c : Chip) (k : Nat) : Chip :=
  (c.onLink k (fun (l : Link) => { Link.initial with
    st := .train53, lasers := true, retiredLanes := l.retiring.foldl (fun r n => r ||| BitVec.ofNat 16 (2 ^ n)) l.retiredLanes,
    txq := l.txq, sent := l.sent, going := l.going, classTurn := l.classTurn, turns := l.turns, excluded := l.excluded,
    uncorr := l.uncorr, replays := l.replays, relocks := l.relocks, falseLocks := l.falseLocks, retrains := l.retrains,
    dropped := l.dropped, arrived := l.arrived })).resendLink k

/-- The bring-up of a unit has started, or ended (R70). -/
def Chip.bringUp (c : Chip) (u : UnitId) (dev : CxlDevice) : Chip :=
  if u.cls = 0 then c.trainLink u.idx
  else if u.cls = 2 then c.setCxl u.idx (cxlFound dev)
  else c

/-- UNIT_ENABLING_COMPLETE (R70, R172, R333): the enables end with OK, and a disable that waits starts. -/
def execUnitEnablingComplete (u : UnitId) (dev : CxlDevice) (s : State) : Host.Outcome State Fault Refusal :=
  onChip s (fun c =>
    let v := c.unit u
    if 2 < u.cls || !unitOk u || v.st ≠ .enabling then c
    else
      let c := (c.bringUp u dev).setUnit u { v with st := .enabled, enables := [], disableWaits := false }
      let c := c.doneAll v.enables stOK 0
      let c := if u.cls = 2 then c.rescale else c
      if v.disableWaits then c.startShutdown u else c)

end Sys2Proof.Machine
end

