-- ==== Sys2Proof/Machine/Links.lean ====
section
/-! DEFINITION. Zorhoca Fabric Links from the receiver's side: training (R260, R261), flits, acknowledgements and retry
(R263 to R273), alignment (R266, R267), lane control words (R259, R281 to R283, R286), packets delivered (R274, R276,
R278, R279). -/

namespace Sys2Proof.Machine

/-! Training and retrains (R260, R261, R272). -/

/-- A search for alignment starts: an offset excluded from the next 16 searches has one less to go (R267). -/
def Link.startSearch (l : Link) : Link :=
  { l with lock := none, search := [], noMarker := 0,
           excluded := (l.excluded.map (fun e => (e.1, e.2 - 1))).filter (fun e => e.2 ≠ 0) }

/-- The 16 latency probes of step 4, on the lowest live lane; a probe's content is its number (R286; DESIGN CHOICE, log 75). -/
def Chip.sendProbes (c : Chip) (k : Nat) : Chip :=
  match (c.link k).lanesUp with
  | [] => c
  | n :: _ => (List.range 16).foldl (fun (c : Chip) j => c.emit (.laneWord k n (laneWord 5 j))) c

/-- A fast retrain, which is one event of the link; the third that fails within 1 s gives way to training from step 1, an
event of weight 16 (R260, R272, R381). Its step 4 searches for alignment and sends the probes (R267, R286). -/
def Chip.fastRetrain (c : Chip) (k : Nat) : Chip :=
  let l := c.link k
  let again := (l.failedRetrains.filter (fun t => c.tc < t + 2000000000)) ++ [c.tc]
  if l.st = .fastRetrain && 3 ≤ again.length then (c.trainLink k).faultEvent ⟨0, k⟩ .sixteen
  else if l.st = .up || l.st = .fastRetrain || l.st = .train106 || (l.st = .train53 && l.major = 2) then
    ((((c.setLink k { l.startSearch with
      st := .fastRetrain, retrains := satAdd l.retrains 1, relocks := satAdd l.relocks 1, probes := [],
      replay := l.replay.map (fun f => { f with replays := 0 }),
      failedRetrains := if l.st = .fastRetrain then again else l.failedRetrains }).rebuild).sendProbes k).faultEvent ⟨0, k⟩ .one)
  else c

/-- FAST_RETRAIN (R260). -/
def execFastRetrain (k : Nat) (s : State) : Host.Outcome State Fault Refusal := onChip s (fun c => c.fastRetrain k)

/-- ALIGNMENT_SEARCH_TIMEOUT (R267). -/
def execAlignmentSearchTimeout (k : Nat) (s : State) : Host.Outcome State Fault Refusal :=
  onChip s (fun c => if (c.link k).lock.isNone then c.fastRetrain k else c)

/-- LINK_SIGNAL_DETECT (R260). -/
def execLinkSignalDetect (k : Nat) (s : State) : Host.Outcome State Fault Refusal :=
  onChip s (fun c =>
    if k < 32 && (c.link k).st = .down && (c.unit ⟨0, k⟩).st = .enabled && !c.isRetired 0 k then c.trainLink k else c)

/-- The link is training, in plane mismatch or up. -/
def LinkSt.live (st : LinkSt) : Bool :=
  st = .train53 || st = .train106 || st = .up || st = .fastRetrain || st = .planeMismatch

/-- LINK_DOWN (R276, R285, R381): no signal on any lane; the replay buffer is discarded, which is no fault. -/
def execLinkDown (k : Nat) (s : State) : Host.Outcome State Fault Refusal :=
  onChip s (fun c =>
    if (c.link k).st.live then (c.trainLink k).onLink k (fun l => { l with st := .down, lasers := false }) else c)

/-- LINK_SHUTDOWN_COMPLETE (R276, R285): the lasers are turned off, and what is not acknowledged goes out again. -/
def execLinkShutdownComplete (k : Nat) (s : State) : Host.Outcome State Fault Refusal :=
  onChip s (fun c =>
    let st := (c.unit ⟨0, k⟩).st
    if k < 32 && (st = .shuttingDown || st = .shutdownEnablePending) then
      (c.onLink k (fun l => { l with st := .disabled, lasers := false, lock := none })).resendLink k
    else c)

/-- This side's training words (R256, R260, R261, R283): whether it asks for precoding is free, and so is its session value,
which comes with the exchange (log 75). -/
def Chip.ownWords (c : Chip) (k : Nat) (session : Half) : TrainingWords :=
  { major2 := true, major3 := true, stepping := 0xB0, devnum := c.boot.devnum, plane := BitVec.ofNat 8 k,
    retired := (c.link k).retiredLanes, precode := c.freeNow % 2 = 1, sessionHere := session, sessionThere := 0 }

/-- TRAINING_WORDS_RECEIVED (R256, R260 to R262, R264, R283): the words are exchanged; a link that goes on to steps 3 and 4
searches for alignment and sends its probes (R286). -/
def execTrainingWordsReceived (k : Nat) (tw : TrainingWords) (s : State) : Host.Outcome State Fault Refusal :=
  onChip s (fun c =>
    let l := c.link k
    if l.st ≠ .train53 || l.major ≠ 0 then c
    else
      let c := (c.emit (.training k (c.ownWords k tw.sessionHere))).drew
      let l := { l with pstep := tw.stepping, pplane := tw.plane, pdev := tw.devnum, precode := tw.precode,
                        partnerRetired := tw.retired, session := tw.sessionHere ^^^ tw.sessionThere }
      if tw.plane.toNat ≠ k then c.setLink k { l with st := .planeMismatch }
      else if tw.major3 then
        let c := c.setLink k { l.startSearch with st := .train106, major := 3 }
        if l.liveLanes < 12 then c.retireLink k 0 else c.sendProbes k
      else if tw.major2 then
        let c := c.setLink k { l.startSearch with major := 2 }
        if l.liveLanes < 16 then c.retireLink k 0 else c.sendProbes k
      else c.setLink k { l with st := .down, lasers := false })

/-- XLAT from the probes of a training (R286): half their mean, to the nearest 0.125 ns, a half up; without probes it is
a free value (DESIGN CHOICE, log 75). -/
def Chip.xlatOf (c : Chip) (l : Link) : Half :=
  if l.probes.isEmpty then BitVec.ofNat 16 c.freeNow
  else BitVec.ofNat 16 ((l.probes.sum + l.probes.length) / (2 * l.probes.length))

/-- The offset at which training ends: the one locked on, else a free one of those not excluded (R266, R267; DESIGN CHOICE,
log 75). -/
def Chip.trainedLock (c : Chip) (l : Link) : Nat :=
  let open' := (List.range 512).filter (fun o => !l.excluded.any (fun e => e.1 = o))
  l.lock.getD (open'.getD (c.freeNow % max 1 open'.length) 0)

/-- LINK_TRAINING_DONE (R260, R261, R263, R266, R270, R279, R286). The end of training implies lock, at a free offset where no
group was seen (DESIGN CHOICE, log 75); the numbering of flits and of their blocks starts again (DEDUCED, log 77). -/
def execLinkTrainingDone (k : Nat) (s : State) : Host.Outcome State Fault Refusal :=
  onChip s (fun c =>
    let l := c.link k
    let fast := l.st = .fastRetrain
    if !(fast || l.st = .train106 || (l.st = .train53 && l.major = 2)) then c
    else
      let c := c.setLink k { l with
        st := .up, xlat := c.xlatOf l, probes := [], lock := some (c.trainedLock l), lockAge := 0, noMarker := 0,
        retrying := fast, flitNo := 0 }
      let c := c.drew
      let c := if fast then c.putRetry k
        else if l.major = 2 then
          (List.range 16).foldl (fun (c : Chip) i =>
            if c.jobRuns i && (c.job i).encReq then c.notify [i] ncPartnerRefused k 1 else c) (c.notify [] ncLinkV2 k l.pstep.toNat)
        else c
      c.rebuild.pump k)

/-! Flits (R263 to R273). -/

/-- A flit passes HCRC under the session value and FCRC, and has a TYPE and CLASS in use (R263, R264). -/
def Link.flitOk (l : Link) (f : List Byte) : Bool :=
  let h := fieldAt f 0 12
  let type := bits h 31 28
  f.length = 256 && crc16 l.session.toNat (f.take 10) = bits h 95 80 && crc32c (f.take 252) = fieldAt f 252 4 &&
    (type = 0 || (type = 1 && bits h 27 26 ≠ 3) || type = 3)

/-- Ask for the expected SEQ (R270). -/
def Chip.askRetry (c : Chip) (k : Nat) : Chip := (c.onLink k (fun l => { l with retrying := true })).putRetry k

/-- What a flit acknowledges leaves the replay buffer (R271); its credits are added (R273). -/
def Link.acked (l : Link) (ack : Half) (cls credits : Nat) : Link :=
  let before := fun (q : Half) => (ack - 1 - q).toNat < 32768
  { l with replay := l.replay.filter (fun f => !before f.seq), sent := l.sent.filter (fun e => !before e.1),
           credits := lmod (· + credits) l.credits cls }

/-- A data flit is accepted (R263, R269): its packet goes on, and is whole at LAST. -/
def Link.accept (l : Link) (h : Nat) (payload : List Byte) : Link :=
  let cls := bits h 27 26
  let bs := (if bits h 25 25 = 1 then [] else l.assembly.getD cls []) ++ payload
  let l : Link := { l with rxSeq := l.rxSeq + 1, retrying := false, ackDue := true, owed := lmod (· + 1) l.owed cls }
  if bits h 24 24 = 1 then { l with assembly := lput l.assembly cls [], arrived := l.arrived ++ [(cls, bs)] }
  else { l with assembly := lput l.assembly cls bs }

/-- Send again every flit from a SEQ on; one replayed for the eighth time starts a fast retrain (R270, R272, R287). -/
def Chip.replayFrom (c : Chip) (k : Nat) (seq : Half) : Chip :=
  let l := c.link k
  let hit := fun (f : Flit) => (f.seq - seq).toNat < 32768
  let fs := l.replay.map (fun f => if hit f then { f with replays := f.replays + 1 } else f)
  let c := c.setLink k { l with replay := fs, replays := satAdd l.replays 1 }
  let c := (fs.filter hit).foldl (fun (c : Chip) f => c.putData k f) c
  if (fs.filter hit).any (fun f => 8 ≤ f.replays) then c.fastRetrain k else c

/-- A flit that the partner sent arrives (R264 to R271): `data` when it is a data flit that was lost if it fails. -/
def Chip.takeFlit (c : Chip) (k : Nat) (flit : List Byte) (data : Bool) : Chip :=
  let l := c.link k
  if l.st ≠ .up || l.lock.isNone then c
  else if !l.flitOk flit then
    let c := c.setLink k { l with dropped := satAdd l.dropped 1 }
    if data then c.askRetry k else c
  else
    let h := fieldAt flit 0 12
    let c := if bits h 5 0 = 0 then c else c.setLink k (l.acked (BitVec.ofNat 16 (bits h 79 64)) (bits h 63 62) (bits h 61 48))
    let type := bits h 31 28
    let c := if type = 3 && flit.getD 12 0 = 1 then c.replayFrom k (BitVec.ofNat 16 (fieldAt flit 14 2)) else c
    let l := c.link k
    let gap := (BitVec.ofNat 16 (bits h 47 32) - l.rxSeq).toNat
    let c := if type = 1 && gap = 0 then c.setLink k (l.accept h (cut flit 12 (bits h 23 16)))
      else if 0 < gap && gap < 32768 && l.st = .up then c.askRetry k
      else c
    c.pump k

/-- DATA_FLIT (R269, R270). -/
def execDataFlit (k : Nat) (flit : List Byte) (s : State) : Host.Outcome State Fault Refusal :=
  onChip s (fun c => c.takeFlit k flit true)

/-- IDLE_FLIT (R265, R270, R271, R273). -/
def execIdleFlit (k : Nat) (flit : List Byte) (s : State) : Host.Outcome State Fault Refusal :=
  onChip s (fun c => c.takeFlit k flit false)

/-- RETRY (R270). -/
def execRetry (k : Nat) (flit : List Byte) (s : State) : Host.Outcome State Fault Refusal :=
  onChip s (fun c => c.takeFlit k flit false)

/-- RETRY_REPEAT_TIMER (R270). A RETRY sent after a retrain is repeated too (DEDUCED, log 76). -/
def execRetryRepeatTimer (k : Nat) (s : State) : Host.Outcome State Fault Refusal :=
  onChip s (fun c =>
    let l := c.link k
    if l.st = .up && l.lock.isSome && l.retrying then c.askRetry k else c)

/-! Alignment (R266, R267). -/

/-- Lock is lost: a new search starts, and a false lock is counted and excluded (R267). -/
def Link.loseLock (l : Link) (o : Nat) : Link :=
  let l : Link := { l.startSearch with relocks := satAdd l.relocks 1 }
  if l.lockAge ≤ 1024 then { l with falseLocks := satAdd l.falseLocks 1, excluded := l.excluded ++ [(o, 16)] } else l

/-- A group at the offset a receiver is locked on ends (R267). -/
def Chip.lockedGroup (c : Chip) (k : Nat) (o valid : Nat) (marker : Bool) : Chip :=
  let l := c.link k
  let l : Link := { l with lockAge := l.lockAge + 1, noMarker := if marker then 0 else l.noMarker + 1, search := [] }
  c.setLink k (if valid < 60 || 2 ≤ l.noMarker then l.loseLock o else l)

/-- A group at an offset that is searched ends; the fourth good one in a row locks. An offset that ends its fourth in the
same group as the one just locked on takes over with more valid HCRCs, or as many and a lower offset (R266). -/
def Chip.searchGroup (c : Chip) (k : Nat) (o valid : Nat) (marker : Bool) : Chip :=
  let l := c.link k
  if l.excluded.any (fun e => e.1 = o) || 512 ≤ o then c
  else
    let e := (l.search.find? (fun e => e.1 = o)).getD (o, 0, 0)
    let e := if marker && 60 ≤ valid then (o, e.2.1 + 1, e.2.2 + valid) else (o, 0, 0)
    let l : Link := { l with search := l.search.filter (fun e => e.1 ≠ o) ++ [e] }
    let better := match l.lock with
      | none => true
      | some p =>
        let v := ((l.search.find? (fun e => e.1 = p)).map (fun e => e.2.2)).getD 0
        l.lockAge = 0 && (v < e.2.2 || (v = e.2.2 && o < p))
    if e.2.1 = 4 && better then
      let c := c.setLink k { l with lock := some o, lockAge := 0, noMarker := 0 }
      if l.lock.isNone && l.st = .up then c.askRetry k else c
    else if l.lock.isNone || (l.lockAge = 0 && !l.search.isEmpty) then c.setLink k l
    else c

/-- FLIT_GROUP_RECEIVED (R266, R267). -/
def execFlitGroupReceived (k offset valid : Nat) (marker : Bool) (s : State) : Host.Outcome State Fault Refusal :=
  onChip s (fun c =>
    let l := c.link k
    if !(l.st = .up || l.st = .fastRetrain || l.st = .train106 || l.st = .train53) then c
    else if l.lock = some offset then c.lockedGroup k offset valid marker
    else if l.lock.isSome && l.lockAge ≠ 0 then c
    else c.searchGroup k offset valid marker)

/-! Lane control words (R259, R281 to R283, R286). -/

/-- A word's type, when its CRC is right (R259). -/
def laneType (w : BitVec 80) : Option Nat :=
  if crc16 0xFFFF (beBytes 8 (w.toNat / 65536)) = w.toNat % 65536 then some (w.toNat / 2 ^ 72) else none

def wordLane (w : BitVec 80) : Nat := bits w.toNat 19 16
def wordTap (w : BitVec 80) : Nat := bits w.toNat 22 20
def wordDown (w : BitVec 80) : Bool := w.getLsbD 23

def Link.lane (l : Link) (n : Nat) : Lane := tget Lane.initial l.lanes n
def Chip.onLane (c : Chip) (k n : Nat) (f : Lane → Lane) : Chip :=
  c.onLink k (fun l => { l with lanes := tput l.lanes n (f (l.lane n)) })

/-- A lane is in use on its link. -/
def Link.laneLive (l : Link) (n : Nat) : Bool := n < 16 && !(l.retiredLanes ||| l.partnerRetired).getLsbD n

/-- The taps of a link are tuned: at version 3 on live traffic and in training, at version 2 in training only (R260, R262). -/
def Link.tunes (l : Link) : Bool :=
  (l.st = .up && l.major = 3) || l.st = .fastRetrain || l.st = .train106 || (l.st = .train53 && l.major = 2)

/-- TAP_REQUEST (R260, R262, R281): the tap steps, and the answer carries its value. -/
def execTapRequest (k : Nat) (w : BitVec 80) (s : State) : Host.Outcome State Fault Refusal :=
  onChip s (fun c =>
    let l := c.link k
    let n := wordLane w
    let t := wordTap w
    if laneType w ≠ some 1 || !l.tunes || !l.laneLive n || 4 < t then c
    else
      let v := (l.lane n).taps.getD t 0 + (if wordDown w then -1 else 1)
      (c.onLane k n (fun x => { x with taps := lput x.taps t v })).emit
        (.laneWord k n (laneWord 2 (n + t * 16 + bit (wordDown w) * 128 + (BitVec.ofInt 8 v).toNat * 256))))

/-- TAP_ANSWER (R281, R282): the step is judged after 2^16 codewords. -/
def execTapAnswer (k : Nat) (w : BitVec 80) (s : State) : Host.Outcome State Fault Refusal :=
  onChip s (fun c =>
    let n := wordLane w
    match laneType w, ((c.link k).lane n).asked with
    | some 2, some a =>
      if a.1 ≠ wordTap w then c
      else c.onLane k n (fun x =>
        { x with asked := none, judged := some a, partner := lput x.partner a.1 (BitVec.ofNat 8 (bits w.toNat 31 24)).toInt })
    | _, _ => c)

/-- Send a tap request for a lane (R281). -/
def Chip.askTap (c : Chip) (k n : Nat) (t : Nat × Bool) : Chip :=
  (c.onLane k n (fun x => { x with asked := some t })).emit (.laneWord k n (laneWord 1 (n + t.1 * 16 + bit t.2 * 128)))

/-- TAP_STEP_EVALUATE (R281, R282): a step that made the lane worse is taken back. Whether another step is tried then,
and which, the manual leaves to the receiver: it is free (log 76). -/
def execTapStepEvaluate (k lane corrected : Nat) (uncorrectable : Bool) (s : State) : Host.Outcome State Fault Refusal :=
  onChip s (fun c =>
    let l := c.link k
    let x := l.lane lane
    if !l.tunes || !l.laneLive lane || x.asked.isSome then c
    else
      let c1 := c.onLane k lane (fun x => { x with judged := none, before := corrected })
      match x.judged with
      | some (t, down) => if uncorrectable || x.before < corrected then c1.askTap k lane (t, !down) else c1
      | none =>
        let v := c.freeNow
        if v % 2 = 0 then c1.drew else c1.drew.askTap k lane (v / 2 % 5, decide (v / 10 % 2 = 1)))

/-- LANE_RETIRE (R262, R283): the lane is honoured as retired, answered on every lane left, and the link fast-retrains. -/
def execLaneRetire (k : Nat) (w : BitVec 80) (s : State) : Host.Outcome State Fault Refusal :=
  onChip s (fun c =>
    let l := c.link k
    let n := wordLane w
    if laneType w ≠ some 3 || l.st ≠ .up || !l.laneLive n then c
    else
      let l : Link := { l with partnerRetired := l.partnerRetired ||| BitVec.ofNat 16 (2 ^ n) }
      let c := ((List.range 16).filter (l.laneLive ·)).foldl (fun (c : Chip) m => c.emit (.laneWord k m (laneWord 4 n))) (c.setLink k l)
      if l.liveLanes < 12 || l.major = 2 then c.retireLink k 0 else c.fastRetrain k)

/-- RETIRE_ANSWER (R283). -/
def execRetireAnswer (k : Nat) (w : BitVec 80) (s : State) : Host.Outcome State Fault Refusal :=
  onChip s (fun c =>
    let l := c.link k
    let n := wordLane w
    if laneType w ≠ some 4 || !l.retiring.contains n then c
    else
      (c.setLink k { l with retiring := l.retiring.erase n, retiredLanes := l.retiredLanes ||| BitVec.ofNat 16 (2 ^ n) }).fastRetrain k)

/-- LANE_LOSS_OF_SIGNAL (R381). -/
def execLaneLossOfSignal (k lane : Nat) (s : State) : Host.Outcome State Fault Refusal :=
  onChip s (fun c => if lane < 16 && (c.link k).st = .up then c.faultEvent ⟨6, 16 * k + lane⟩ .atOnce else c)

/-- LATENCY_PROBE (R286): the echo states the holding time, in 0.125 ns. -/
def execLatencyProbe (k : Nat) (w : BitVec 80) (holding : Nat) (s : State) : Host.Outcome State Fault Refusal :=
  onChip s (fun c =>
    let l := c.link k
    match l.lanesUp.head? with
    | some n => if laneType w = some 5 && l.st.live then c.emit (.laneWord k n (laneWord 6 (holding % 65536))) else c
    | none => c)

/-- PROBE_ECHO (R286): of the 16 probes of a training. -/
def execProbeEcho (k : Nat) (w : BitVec 80) (roundTrip : Nat) (s : State) : Host.Outcome State Fault Refusal :=
  onChip s (fun c =>
    let l := c.link k
    if laneType w = some 6 && (l.st = .train53 || l.st = .train106 || l.st = .fastRetrain) && l.probes.length < 16 then
      c.setLink k { l with probes := l.probes ++ [roundTrip - bits w.toNat 31 16] }
    else c)

/-! Packets (R274, R276, R278, R279). -/

/-- The packet of a header and what follows it. -/
def packetOf (hdr : BitVec 192) (body : List Byte) : FabPkt :=
  { ctr := hdr.extractLsb' 128 64, dst := hdr.extractLsb' 112 16, src := hdr.extractLsb' 96 16, dunit := hdr.extractLsb' 88 8,
    sunit := hdr.extractLsb' 80 8, job := hdr.extractLsb' 64 16, jepoch := hdr.extractLsb' 56 8, opc := hdr.extractLsb' 48 8,
    sseq := hdr.extractLsb' 16 16, enc := hdr.getLsbD 0, payload := body, mark := 0 }

/-- A unit code of the table "Unit codes" (R274). -/
def unitCode (u : Nat) : Bool := u = 0 || (0x10 ≤ u && u ≤ 0x27) || u = 0x30

/-- What a received packet comes to: its payload in clear, or a packet dropped and counted (R274, R278, R279). -/
inductive Opened where
  | clear (p : FabPkt)
  /-- no unit, or no running job, is its own (R274) -/
  | stray
  /-- a packet of instance i's job, with the number of the counter that counts it (R379) -/
  | refused (i counter : Nat)
  deriving DecidableEq, Repr

/-- A received packet opened (R274, R278, R279); a body that PLEN does not describe is dropped with the stray ones (DEDUCED,
log 78). -/
def Chip.openPacket (c : Chip) (hdr : BitVec 192) (p : FabPkt) : Opened :=
  match c.jobOf p.job with
  | none => .stray
  | some i =>
    let j := c.netJob i
    let plen := (hdr.extractLsb' 32 16).toNat
    if !unitCode p.dunit.toNat || p.payload.length ≠ plen + (if p.enc then 16 else 0) then .stray
    else if !p.enc then (if j.encReq then .refused i 14 else .clear p)
    else match j.key.bind (fun key => gcmOpen (keyBytes key) p.nonce (leBytes 24 hdr.toNat) p.payload) with
      | some bs => .clear { p with payload := bs }
      | none => .refused i 13

/-- Deliver a packet and those held after it, in SSEQ order (R276). -/
def Chip.deliverStream (key : Nat) : Nat → Chip → FabPkt → Chip
  | 0, c, _ => c
  | fuel + 1, c, p =>
    let st := tget Stream.initial c.rxStreams key
    let next := p.sseq + 1
    let c : Chip := { c with
      rxStreams := tput c.rxStreams key { st with next := next, held := st.held.filter (fun h => h.sseq ≠ next) }
      delivered := c.delivered ++ [p] }
    match st.held.find? (fun h => h.sseq = next) with
    | none => c
    | some h => Chip.deliverStream key fuel c h

/-- Packets held ahead on the device (R276). -/
def Chip.heldAhead (c : Chip) : Nat := (c.rxStreams.map (fun e => e.2.held.length)).sum

/-- A packet meets its stream (R276): delivered, held ahead, or dropped. The first packet of a stream in a job is number 0
(DEDUCED, log 28). -/
def Chip.takeStream (c : Chip) (p : FabPkt) : Chip :=
  let key := streamKey p.src.toNat p.dunit.toNat p.sunit.toNat p.job.toNat
  let st := tget Stream.initial c.rxStreams key
  let ahead := (p.sseq - st.next).toNat
  if ahead = 0 then Chip.deliverStream key 17 c p
  else if ahead < 32768 && st.held.length < 16 && c.heldAhead < 4096 && st.held.all (fun h => h.sseq ≠ p.sseq) then
    { c with rxStreams := tput c.rxStreams key { st with held := st.held ++ [p] } }
  else c

/-- FABRIC_PACKET_RECEIVED (R273, R274, R276, R278, R279): the flits of a packet that came over the link are free again,
and their credits go back. -/
def execFabricPacketReceived (k : Nat) (hdr : BitVec 192) (body : List Byte) (s : State) : Host.Outcome State Fault Refusal :=
  onChip s (fun c =>
    let wire := leBytes 24 hdr.toNat ++ body
    let l := c.link k
    let c := match l.arrived.find? (fun a => a.2 = wire) with
      | none => c
      | some a =>
        let n := divUp wire.length 240
        (c.setLink k { l with
          arrived := dropFirst (fun b => b = a) l.arrived, owed := lmod (· - n) l.owed a.1, back := lmod (· + n) l.back a.1 }).pump k
    match c.openPacket hdr (packetOf hdr body) with
    | .stray => { c with fabricDrops := c.fabricDrops + 1 }
    | .refused i n => c.count i n 1
    | .clear p => c.takeStream p)

end Sys2Proof.Machine
end

