-- ==== Sys2Proof/Machine/Store.lean ====
section
/-! DEFINITION. The configuration store: its copies, edits and logs (R387 to R392, R411), CONFIG_READ, CONFIG_WRITE,
CONFIG_COMMIT, and what a boot takes from it (R364, R390, R393). -/

namespace Sys2Proof.Machine

/-- Bytes of a copy (R387). -/
def copySize : Nat := 0x800000

/-! The bytes of the store. -/

/-- A byte of the shipped copy A beyond its header: the record that R411 fixes, and what the manual leaves open (log 4). -/
def shippedAt (a : Nat) : Byte :=
  if a = 66 then 0x52
  else if a = 68 then Config.shippedByte a
  else if a < 128 || (156 ≤ a && a < 160) then 0
  else Config.shippedByte a

/-- A byte of a copy beyond its header: as written, as shipped, or erased. -/
def CopyImg.body (x : CopyImg) (a : Nat) : Byte :=
  match mfind x.cells a with
  | some b => b
  | none => if x.shipped && a < Config.shippedLength then shippedAt a else 0xFF

/-- The header with a CRC (R388). -/
def CopyImg.head (x : CopyImg) (crc : Nat) : List Byte :=
  leBytes 64 (packed [(0x46435A45, 0), (x.length, 32), (x.seq.toNat, 64), (crc, 128)])

/-- CRC of a copy: of its bytes with the field taken as 0 (R388). -/
def CopyImg.crc (x : CopyImg) : Nat :=
  crc32c (x.head 0 ++ ((List.range (x.length - 64)).map (fun k => x.body (64 + k))))

/-- Bytes of a copy; the header of a copy that no commit has closed is erased (DEDUCED from R389, log 62). -/
def CopyImg.bytes (x : CopyImg) (a n : Nat) : List Byte :=
  let h := if a < 64 && x.length ≠ 0 then x.head x.crc else List.replicate 64 0xFF
  (List.range n).map (fun k => if a + k < 64 then h.getD (a + k) 0 else x.body (a + k))

/-- The 8 bytes of a retire-log entry (R391). -/
def RetireEntry.bytes (e : RetireEntry) : List Byte :=
  let top := leBytes 4 (e.unit.idx % 65536 + e.cause * 65536 + e.unit.cls * 2 ^ 24)
  leBytes 4 (crc32c top) ++ top

/-- The 8 bytes of a boot-log entry (R392). -/
def bootEntry (boots : Nat) : List Byte := leBytes 4 (crc32c (leBytes 4 boots)) ++ leBytes 4 boots

/-- A byte of the store (R387); the reserved region holds what the manual does not say. -/
def Store.byte (st : Store) (a : Nat) : Byte :=
  if a < copySize then (st.copyA.bytes a 1).getD 0 0
  else if a < 2 * copySize then (st.copyB.bytes (a - copySize) 1).getD 0 0
  else if a < 0x1100000 then
    match st.retireLog[(a - 0x1000000) / 8]? with
    | some e => e.bytes.getD (a % 8) 0
    | none => 0xFF
  else if a < 0x1500000 then
    match st.bootLog.find? (fun e => e.1 = (a - 0x1100000) / 8) with
    | some e => (bootEntry e.2).getD (a % 8) 0
    | none => 0xFF
  else freeAt 3 0 0 a

/-- The copy that holds offset 0 of a range, read whole; ranges elsewhere byte by byte. -/
def Store.read (st : Store) (a n : Nat) : List Byte :=
  if a + n ≤ copySize then st.copyA.bytes a n
  else if copySize ≤ a && a + n ≤ 2 * copySize then st.copyB.bytes (a - copySize) n
  else (List.range n).map (fun k => st.byte (a + k))

/-! Edits (R389). -/

def Store.copy (st : Store) (b : Bool) : CopyImg := if b then st.copyB else st.copyA
def Store.setCopy (st : Store) (b : Bool) (x : CopyImg) : Store := if b then { st with copyB := x } else { st with copyA := x }

/-- The newer valid copy, B or A (R389, R390). -/
def Store.newer (st : Store) : Option Bool :=
  if st.copyA.valid && st.copyB.valid then some (decide (st.copyA.seq < st.copyB.seq))
  else if st.copyA.valid then some false
  else if st.copyB.valid then some true
  else none

/-- Open an edit: the other copy becomes what the newer valid one holds, and is invalid until a commit (R389). Without a
valid copy, copy A is erased (DESIGN CHOICE, log 62). -/
def Store.openEdit (st : Store) : Store :=
  match st.edit with
  | some _ => st
  | none =>
    match st.newer with
    | some b =>
      let x := st.copy b
      { st.setCopy (!b) { x with valid := false, length := 0, seq := 0 } with
        edit := some { copyB := !b, copied := x.length, lastEnd := 0 } }
    | none => { st with copyA := CopyImg.erased, edit := some { copyB := false, copied := 0, lastEnd := 0 } }

/-- An offset and a length of an image of the record (R388): 0 Iboon, 1 sett, 2 burrow, 3 core. -/
def CopyImg.image (x : CopyImg) (k : Nat) : Nat × Nat :=
  (leNat (x.bytes (128 + 8 * k) 4), leNat (x.bytes (132 + 8 * k) 4))

/-- The record's image fields stand as shipped; a unit ships valid (R411). -/
def CopyImg.imageAsShipped (x : CopyImg) (k : Nat) : Bool :=
  x.shipped && x.cells.all (fun e => e.1 < 128 + 8 * k || 136 + 8 * k ≤ e.1)

/-- A closed copy is valid (R388): its header is right by construction, so its LENGTH and its images decide. -/
def CopyImg.sound (x : CopyImg) : Bool :=
  256 ≤ x.length && x.length ≤ copySize && x.length % 64 = 0 &&
    (List.range 4).all (fun k => x.imageAsShipped k || (x.image k).1 + (x.image k).2 ≤ x.length)

/-- Close an edit (R389): LENGTH, SEQ, CRC. The end of the last byte written is the highest end (DEDUCED, log 79). -/
def Store.commit (st : Store) (e : Edit) : Store :=
  let seq := match st.newer with
    | some b => (st.copy b).seq + 1
    | none => 1
  let x := { st.copy e.copyB with length := roundUp (max e.copied e.lastEnd) 64, seq := seq }
  { st.setCopy e.copyB { x with valid := x.sound } with edit := none }

/-- CONFIG_READ (R50, R387). -/
def execConfigRead (p : Icp) (s : State) : Host.Outcome State Fault Refusal :=
  icp 0x90 p s (fun c p =>
    let a := p.par 0 4
    let n := p.par 4 4
    if n = 0 then badParam 4
    else if 4096 < n then .refuse stInlineTooLong n
    else if 0x4000000 ≤ a then badParam 0
    else if 0x4000000 < a + n then badParam 4
    else .done 0 (c.store.read a n ++ List.replicate (roundUp n 4 - n) 0) c)

/-- CONFIG_WRITE (R50, R389). -/
def execConfigWrite (p : Icp) (s : State) : Host.Outcome State Fault Refusal :=
  icp 0x91 p s (fun c p =>
    let a := p.par 0 4
    let n := p.par 4 4
    if n = 0 then badParam 4
    else if 4096 < n then .refuse stInlineTooLong n
    else if a < 64 || copySize ≤ a then badParam 0
    else if copySize < a + n then badParam 4
    else
      let st := c.store.openEdit
      match st.edit with
      | none => c.badState p
      | some e =>
        let x := st.copy e.copyB
        let st := st.setCopy e.copyB { x with cells := mwrite x.cells a (cut p.params 8 n) }
        .done 0 [] { c with store := { st with edit := some { e with lastEnd := max e.lastEnd (a + n) } } })

/-- CONFIG_COMMIT (R389). -/
def execConfigCommit (p : Icp) (s : State) : Host.Outcome State Fault Refusal :=
  icp 0x92 p s (fun c p =>
    match c.store.edit with
    | none => c.badState p
    | some e =>
      let st := c.store.commit e
      .done (st.copy e.copyB).seq.toNat [] { c with store := st })

/-! What a boot does with the store (R390 to R393). -/

/-- The copy that boots: B or A, and whether it is the fallback; none for the package ROM (R390). -/
def Store.pick (st : Store) (other : Bool) : Option (Bool × Bool) :=
  st.newer.map (fun b => if other && (st.copy (!b)).valid then (!b, true) else (b, false))

/-- Write the next BOOTS into the boot log; a new quarter is erased first (R392). -/
def Store.logBoot (st : Store) : Store × Nat :=
  let v := (st.bootLog.map (·.2)).foldl max 0 + 1
  let at' := st.bootNext % 524288
  let log := if at' % 131072 = 0 then st.bootLog.filter (fun e => e.1 / 131072 ≠ at' / 131072) else st.bootLog
  ({ st with bootLog := log ++ [(at', v % 2 ^ 32)], bootNext := (at' + 1) % 524288, edit := none }, v % 2 ^ 32)

/-- The firmware images stand as shipped (log 4). -/
def CopyImg.firmwareAsShipped (x : CopyImg) : Bool := x.shipped && x.cells.all (fun e => e.1 < 128)

/-- The bytes of image k of a copy. -/
def CopyImg.imageBytes (x : CopyImg) (k : Nat) : List Byte := x.bytes (x.image k).1 (x.image k).2

/-- A big-endian address of the record (R388). -/
def CopyImg.address (x : CopyImg) (off n : Nat) : Nat := beNat (x.bytes off n)

/-- What a boot reports and takes from the store (R364, R390, R393, R400). -/
def Store.bootFrom (st : Store) (cause : BitVec 4) (boots : Nat) (other : Bool) : Boot :=
  match st.pick other with
  | none =>
    { cause := cause, copyB := false, defaults := true, fallback := false, boots := BitVec.ofNat 32 boots, configSeq := 0,
      fw := (List.range 3).map (fun k => Config.firmwareVersion k (Config.romFirmware k)),
      measure := (List.range 3).map (fun k => sha384 (Config.romFirmware k)),
      devnum := 0, smbusAddr := 0x52, jumbo := 0, vlan := [0, 0], ipv4 := [0, 0], ipv6 := [0, 0], coreStarted := false }
  | some (b, fell) =>
    let x := st.copy b
    let ships := x.firmwareAsShipped
    { cause := cause, copyB := b, defaults := false, fallback := fell, boots := BitVec.ofNat 32 boots, configSeq := x.seq,
      fw := (List.range 3).map (fun k => if ships then Config.shippedVersion k else Config.firmwareVersion k (x.imageBytes k)),
      measure := (List.range 3).map (fun k => if ships then Config.shippedMeasure k else sha384 (x.imageBytes k)),
      devnum := BitVec.ofNat 16 (leNat (x.bytes 64 2)), smbusAddr := BitVec.ofNat 7 (leNat (x.bytes 66 1)),
      jumbo := BitVec.ofNat 2 (leNat (x.bytes 69 1)),
      vlan := [BitVec.ofNat 16 (leNat (x.bytes 70 2)), BitVec.ofNat 16 (leNat (x.bytes 72 2))],
      ipv4 := [BitVec.ofNat 32 (x.address 80 4), BitVec.ofNat 32 (x.address 84 4)],
      ipv6 := [BitVec.ofNat 128 (x.address 96 16), BitVec.ofNat 128 (x.address 112 16)],
      coreStarted := decide ((x.image 3).2 ≠ 0) }

/-- Route and vector of OQ under the record (R46, R388); PCIe and entry 256 from the package ROM. -/
def Store.oqRoute (st : Store) (other : Bool) : Route × Nat :=
  match st.pick other with
  | none => (.pcie, 256)
  | some (b, _) =>
    if leNat ((st.copy b).bytes 67 1) = 1 then (.onDie, leNat ((st.copy b).bytes 68 1)) else (.pcie, 256)

/-- The core image that a boot copies to 0h of the lower host region (R393 step 8). -/
def Store.coreImage (st : Store) (other : Bool) : List Byte :=
  match st.pick other with
  | none => []
  | some (b, _) => (st.copy b).imageBytes 3

/-- Units that the retire log takes out of service at a boot, those that retire with them included (R384, R385, R391). -/
def Store.retired (st : Store) : List UnitId :=
  let own := st.retireLog.map (·.unit)
  let kids := own.flatMap (fun u =>
    if u.cls = 7 then (List.range 64).map (fun j => ⟨4, 64 * u.idx + j⟩)
    else if u.cls = 8 then (List.range 12).map (fun j => ⟨5, 12 * u.idx + j⟩)
    else [])
  let dies := if 2 ≤ (own.filter (fun u => u.cls = 11)).length then (List.range 4).map (fun d => ⟨11, d⟩) else []
  (own ++ kids ++ dies).foldl (fun us u => if us.contains u then us else us ++ [u]) []

/-- A control core at step 8 of a boot (R393): C0 starts at 0h in machine mode, the others wait for an interrupt; with no
core image every core stays halted. Its registers stay as they were (log 101). -/
def Core.boot (k : Core) (n : Nat) (image : Bool) : Core :=
  { k with run := if !image then .halted else if n = 0 then .running else .waiting, mode := .machine, pc := 0, resv := none }

/-- What the boot chose is in force (R390, R393): OQ's route and vector, the core image and the start of the cores. -/
def Chip.takeBoot (c : Chip) (b : Boot) (other : Bool) : Chip :=
  let c := ({ c with boot := b } : Chip).onQueue 256 (fun u =>
    { u with route := (c.store.oqRoute other).1, vector := (c.store.oqRoute other).2 })
  let c := (List.range 16).foldl (fun (c : Chip) n => c.setCore n ((c.core n).boot n b.coreStarted)) c
  if b.coreStarted then c.hostWrite 0 (c.store.coreImage other) else c

end Sys2Proof.Machine
end

