-- ==== Sys2Proof/Machine/Supply.lean ====
section
/-! DEFINITION. Supply, boot and resets: rails and PWR_OK (R399, R402, R404 to R406), the cold boot (R390, R393), the warm
reset (R394), the thermal stop (R395), PERST# and the PCIe link (R327, R329, R402). -/

namespace Sys2Proof.Machine

/-! Cold reset. -/

/-- The chip in cold reset: everything at its cold-reset value but the store, whose open edit is lost, the units that its
retire log takes out of service (R346, R391), the sideband's last readings and JTAG instruction, and the model's own fields
(R9, R389, R393). -/
def Chip.coldReset (c : Chip) : Chip :=
  { Chip.initial with
    freeCount := c.freeCount, out := c.out, store := { c.store with edit := none }, boot := c.boot,
    retired := c.store.retired
    side := { Side.initial with temps := c.side.temps, rails := c.side.rails, ir := c.side.ir } }

/-- The module enters or stays in cold reset with its rails on, to boot with this cause. -/
def State.holdReset (s : State) (cause : BitVec 4) : State :=
  { s with chip := s.chip.coldReset
           power := { s.power with phase := .coldReset, rails := 0xFF, cause := cause, otherCopy := false } }

/-- The module enters cold reset and rails 6 to 0 go off. -/
def State.cutRails (s : State) : State :=
  { s with chip := s.chip.coldReset
           power := { s.power with phase := .off, rails := s.power.rails &&& 0x80, cause := 0, otherCopy := false } }

/-- A meaning at the pins: after logic ran outside the input range the module's behaviour is undefined (R399), until
PWR_OK falls. The model stops with a fault there (log 63). -/
def onPins (s : State) (f : State → State) : Host.Outcome State Fault Refusal :=
  if s.power.broken then .fault .supplyUndefined else .next (f s)

/-- A copy of the configuration store after logic ran outside the input range (R399): every part of it is free. -/
def CopyImg.undefinedAt (k n : Nat) : CopyImg :=
  let f := fun j => Config.storeField k n 0 j
  let body := (List.range (copySize - 64)).map (fun a => Config.storeByte k n (64 + a))
  let x : CopyImg := { valid := false, seq := BitVec.ofNat 64 (f 1), length := f 2 % 2 ^ 32, shipped := false, cells := mrun 64 body }
  if f 0 % 2 = 0 then { x with seq := 0, length := 0 } else { x with valid := x.sound }

/-- The configuration store after logic ran outside the input range (R399): every copy and every log entry is free, at
draw k (log 63). -/
def Store.undefinedAt (k : Nat) : Store :=
  let r := fun e j => Config.storeField k 2 e j
  let b := fun e j => Config.storeField k 3 e j
  { copyA := CopyImg.undefinedAt k 0, copyB := CopyImg.undefinedAt k 1
    retireLog := (List.range (r 0 0 % 131073)).map (fun e =>
      { unit := ⟨r e 1 % 12, r e 2 % unitCount (r e 1 % 12)⟩, cause := r e 3 % 2 })
    bootLog := (List.range 524288).filterMap (fun e => if b e 1 % 2 = 0 then none else some (e, b e 2 % 2 ^ 32))
    bootNext := b 0 0 % 524288
    edit := none }

/-- POWER_INPUT_IN_RANGE (R406): VAUX comes up. Logic that ran outside the range stays undefined (R399). -/
def execPowerInputInRange (s : State) : Host.Outcome State Fault Refusal :=
  .next { s with power := { s.power with inputOk := true, rails := s.power.rails ||| 0x80 } }

/-- INPUT_LEAVES_RANGE (R399, R406): VAUX stops, and logic that runs is undefined from now on. -/
def execInputLeavesRange (s : State) : Host.Outcome State Fault Refusal :=
  if s.power.broken || s.power.phase ≠ .off then
    .next { s with power := { s.power with inputOk := false, rails := s.power.rails &&& 0x7F, broken := true } }
  else
    .next { s with power := { s.power with inputOk := false, rails := 0, therm := false }
                   chip := { s.chip.coldReset with side := Side.initial } }

/-- PWR_OK_RISE (R393, R395, R406): the rails come up, and the boot is to follow with CAUSE 0; during a thermal stop
they stay off (DEDUCED, log 64). -/
def execPwrOkRise (s : State) : Host.Outcome State Fault Refusal :=
  onPins s (fun s =>
    if s.power.pwrOk then s
    else
      let s : State := { s with power := { s.power with pwrOk := true } }
      if s.power.inputOk && !s.power.therm then s.holdReset 0 else s)

/-- PWR_OK_FALL (R406): cold reset at once, and rails 6 to 0 off. It also ends the running of undefined logic (R399),
whose configuration store is a free value from then on (log 63). -/
def execPwrOkFall (s : State) : Host.Outcome State Fault Refusal :=
  if s.power.broken then
    let c := ({ s.chip.drew with store := Store.undefinedAt s.chip.freeCount } : Chip).coldReset
    .next { s with chip := { c with side := Side.initial }
                   power := { s.power with broken := false, pwrOk := false, therm := false, phase := .off, cause := 0,
                                           otherCopy := false, rails := if s.power.inputOk then 0x80 else 0 } }
  else .next { s.cutRails with power := { s.cutRails.power with pwrOk := false } }

/-- COLD_HOLD_ASSERT (R402): cold reset with the rails on. The boot that follows has CAUSE 0 (DESIGN CHOICE, log 65). -/
def execColdHoldAssert (s : State) : Host.Outcome State Fault Refusal :=
  onPins s (fun s =>
    let s : State := { s with power := { s.power with coldHold := true } }
    if s.power.phase = .running then s.holdReset 0 else s)

/-- COLD_HOLD_RELEASE (R402): the boot may start, and nothing drives the boundary any longer (R347). -/
def execColdHoldRelease (s : State) : Host.Outcome State Fault Refusal :=
  onPins s (fun s =>
    { s with power := { s.power with coldHold := false }
             chip := { s.chip with side := { s.chip.side with boundary := false } } })

/-! The thermal stop (R395). -/

/-- THERMAL_STOP (R395, R406): a die sensor at 115 °C or more, in 1/8 °C. Rails 6 to 0 go off and VAUX stays (DEDUCED,
log 18). -/
def execThermalStop (sensor : Nat) (reading : Half) (s : State) : Host.Outcome State Fault Refusal :=
  onPins s (fun s =>
    if !s.power.inputOk || reading.toInt < 920 then s
    else
      let t := s.cutRails
      { t with power := { t.power with therm := true }
               chip := { t.chip with side := { t.chip.side with temps := lput t.chip.side.temps sensor reading } } })

/-- THERMAL_RECOVER (R395): with PWR_OK high, the boot is to follow with CAUSE 3; a sensor that still read 95 °C or more
is below it now, at a temperature the manual does not give. The temperature is a free value (log 64). -/
def execThermalRecover (s : State) : Host.Outcome State Fault Refusal :=
  onPins s (fun s =>
    if !s.power.therm then s
    else
      let k := s.chip.freeCount
      let temps := s.chip.side.temps.map (fun t => if 760 ≤ t.toInt then BitVec.ofNat 16 (Config.freeNat k % 760) else t)
      let s : State := { s with power := { s.power with therm := false }
                                chip := { s.chip.drew with side := { s.chip.side with temps := temps } } }
      if s.power.pwrOk then s.holdReset 3 else s)

/-! Boots (R390, R393). -/

/-- The controls of units that the retire log takes out of service, and its lanes (R69, R283, R391). -/
def Chip.applyRetired (c : Chip) : Chip :=
  let c : Chip := { c with retired := c.store.retired }
  c.retired.foldl (fun (c : Chip) u =>
    if u.cls ≤ 2 then
      let c := c.setUnit u { UnitCtl.initial with st := .retired }
      if u.cls = 0 then c.onLink u.idx (fun l => { l with st := .retired, lasers := false }) else c
    else if u.cls = 6 then
      c.onLink (u.idx / 16) (fun l => { l with retiredLanes := l.retiredLanes ||| BitVec.ofNat 16 (2 ^ (u.idx % 16)) })
    else if u.cls = 10 then { c with side := c.side.unreadable u.idx }
    else c) c

/-- CXL ports enumerate their devices (R333, R393 step 7). -/
def Chip.enumerate (c : Chip) (devices : List CxlDevice) : Chip :=
  (List.range 4).foldl (fun (c : Chip) x =>
    if c.isRetired 2 x then c
    else match devices[x]? with
      | some d => c.setCxl x (cxlFound d)
      | none => c) c

/-- Steps 1 to 8 of the cold boot. -/
def Chip.coldBoot (c : Chip) (cause : BitVec 4) (other : Bool) (devices : List CxlDevice) : Chip :=
  let r := c.store.logBoot
  let c : Chip := { c.coldReset with store := r.1 }
  ((c.applyRetired).takeBoot (c.store.bootFrom cause r.2 other) other).enumerate devices

/-- COLD_BOOT (R390, R393, R402): out of cold reset, unless COLD_HOLD# holds the module there. The devices behind the
CXL ports are its operand (DESIGN CHOICE, log 68). -/
def execColdBoot (devices : List CxlDevice) (s : State) : Host.Outcome State Fault Refusal :=
  onPins s (fun s =>
    if s.power.phase = .coldReset && !s.power.coldHold then
      { s with chip := s.chip.coldBoot s.power.cause s.power.otherCopy devices
               power := { s.power with phase := .running, otherCopy := false } }
    else s)

/-- IBOON_READY_TIMEOUT (R390): the boot restarts once with the other copy, if that is valid. Before the boot has been
carried out the coming one takes that copy; after it, what it took from the store is taken again. BOOTS advances once
(DEDUCED, log 67). -/
def execIboonReadyTimeout (s : State) : Host.Outcome State Fault Refusal :=
  onPins s (fun s =>
    let c := s.chip
    if !(c.store.pick true).any (·.2) then s
    else match s.power.phase with
      | .off => s
      | .coldReset => { s with power := { s.power with otherCopy := true } }
      | .running =>
        if c.boot.fallback then s
        else { s with chip := c.takeBoot (c.store.bootFrom c.boot.cause c.boot.boots.toNat true) true })

/-! MODULE_RESET (R393, R394). -/

/-- A link meets a warm reset: a link that is up takes a fast retrain, without an error event (R394). What is queued for
it is dropped (DEDUCED, log 66). -/
def Link.warm (l : Link) : Link :=
  if l.st = .up || l.st = .fastRetrain then
    { l with st := .fastRetrain, retrains := satAdd l.retrains 1, lock := none, search := [], probes := [], noMarker := 0,
             txq := [], arrived := [], failedRetrains := [] }
  else { l with txq := [], arrived := [] }

/-- An instance meets a warm reset: a reset of it that is in progress ends first and is answered (R54), then it is
destroyed under R351. -/
def Chip.warmDestroy (c : Chip) (p : Icp) (i : Nat) : Chip :=
  let c := match (c.inst i).resetting with
    | some r => c.resetEnd i r
    | none => c
  if (c.inst i).live then (c.resetStart i p true).resetEnd i { cmd := p, destroy := true } else c

/-- The warm reset (R9, R392, R394): instances destroyed, sessions ended, groups cleared, steps 3 to 8 again. What it
keeps is what R9 keeps (DEDUCED, log 66): OQ with what it holds, and the commands that OQ's session had started, which run
on (R54). -/
def Chip.warmReset (c : Chip) (p : Icp) : Chip :=
  let c := c.liveInsts.foldl (fun (c : Chip) i => c.warmDestroy p i) c
  let c := c.sessions.foldl (fun (c : Chip) e => c.endSession e.1) c
  let w := c.store.logBoot
  let c : Chip := { c with
    store := w.1, groups := c.groups.map (fun e => (e.1, e.2.unset)), front := [], engines := [], sigs := [], acks := [],
    bruinTurn := none, unplaced := [], delivered := [], txStreams := [], rxStreams := [], fabricDrops := 0, buckets := [],
    eth := [], host := [], dram := [], poison := [], scaleMod := 65536, scaleExp := 65536,
    side := { c.side with debugOpen := false, debugMask := 0, i2c := [] }
    notices := (c.notices.filter (fun n => n.1 = 16))
    insts := c.insts.map (fun e => (e.1, { Inst.initial with jepoch := e.2.jepoch, snapEpoch := e.2.snapEpoch }))
    links := c.links.map (fun e => (e.1, e.2.warm)) }
  c.takeBoot (c.store.bootFrom 2 w.2 false) false

/-- MODULE_RESET by its KIND (R64): it replies before the reset begins. -/
def State.moduleReset (p : Icp) (s : State) : State :=
  let kind := p.par 0 1
  let cold := s.chip.runs 0x93 p && kind = 1
  let c := s.chip.run 0x93 p (fun c p =>
    if 1 < kind then badParam 0
    else
      let c := c.reply p.queue p.tag stOK 0 0 []
      .later (if kind = 0 then c.warmReset p else c))
  let s : State := { s with chip := c }
  if cold then s.holdReset 1 else s

/-- MODULE_RESET of a booted module. -/
def moduleResetRow (p : Icp) (s : State) : Host.Outcome State Fault Refusal :=
  onPins s (fun s => if s.power.phase = .running then s.moduleReset p else s)

/-- MODULE_RESET with KIND 0 (R394). -/
def execModuleResetWarm (p : Icp) (s : State) : Host.Outcome State Fault Refusal := moduleResetRow p s
/-- MODULE_RESET with KIND 1 (R393). -/
def execModuleResetCold (p : Icp) (s : State) : Host.Outcome State Fault Refusal := moduleResetRow p s

/-! PERST# and the PCIe link (R327 to R329, R402). -/

/-- The link goes down and the function is reset: it is in D0 with the sizes of its reset, every Mask bit is 1 and MSI-X is
off; pending bits stay (log 6). -/
def Pcie.down (x : Pcie) : Pcie :=
  { x with linkUp := false, msixEnable := false, functionMask := false, maxPayload := 0, maxRead := 2, d3hot := false
           msix := x.msix.map (fun e => (e.1, { e.2 with masked := true })) }

/-- PERST (R402): as a link-down. -/
def execPerst (s : State) : Host.Outcome State Fault Refusal := onChip s (fun c => { c with pcie := c.pcie.down })

/-- PCIE_LINK_DOWN (R329): every job runs on. -/
def execPcieLinkDown (s : State) : Host.Outcome State Fault Refusal := onChip s (fun c => { c with pcie := c.pcie.down })

/-- PCIE_LINK_RETURN (R60, R329): every PCIe-bound queue is flushed. -/
def execPcieLinkReturn (s : State) : Host.Outcome State Fault Refusal :=
  onChip s (fun c =>
    if c.pcie.linkUp then c
    else
      let c : Chip := { c with pcie := { c.pcie with linkUp := true } }
      ((List.range 257).filter (fun q => (c.queue q).route = .pcie && (c.queue q).depthLog2 ≠ 0)).foldl
        (fun (c : Chip) q => (c.flush q).1) c)

end Sys2Proof.Machine
end

