-- ==== Sys2Proof/Machine/Side.lean ====
section
/-! DEFINITION. Ethernet frames that Owl does not see (R335, R336), the SMBus target (R343), the I2C controller (R344 to
R346) and JTAG (R347). -/

namespace Sys2Proof.Machine

/-! Ethernet (R335 to R337). -/

/-- Answer a frame. -/
def Chip.sendFrame (c : Chip) (port : Nat) (o : Out) : Chip := (c.onEth port (fun e => { e with tx := satAdd e.tx 1 })).emit o

/-- ARP_REQUEST (R335): the answer tells the sender the port's MAC address. Its 28 bytes go out padded to 46. -/
def execArpRequest (port : Nat) (vlan : Option Nat) (target sender : Word) (senderMac : BitVec 48) (s : State) :
    Host.Outcome State Fault Refusal :=
  onChip s (fun c => c.frame port vlan 46 (fun c =>
    if target ≠ 0 && target = c.ipv4 port then
      c.sendFrame port (.arpReply port vlan target sender senderMac (Config.mac port))
    else c.noMatch port))

/-- NEIGHBOR_SOLICITATION (R335): 40 bytes of IPv6 header, 32 of the message with its option. -/
def execNeighborSolicitation (port : Nat) (vlan : Option Nat) (target sender : BitVec 128) (senderMac : BitVec 48)
    (s : State) : Host.Outcome State Fault Refusal :=
  onChip s (fun c => c.frame port vlan 72 (fun c =>
    if target ≠ 0 && target = c.ipv6 port then
      c.sendFrame port (.neighborAdvert port vlan target sender senderMac (Config.mac port))
    else c.noMatch port))

/-- ECHO_REQUEST (R335): ICMP to the port's IPv4 address, given as ::FFFF:a.b.c.d, or ICMPv6. `body` is what follows the
checksum of the message. -/
def execEchoRequest (port : Nat) (f : Frame) (body : List Byte) (s : State) : Host.Outcome State Fault Refusal :=
  onChip s (fun c => c.frame port f.vlan ((if isV4 f.dst then 24 else 44) + body.length) (fun c =>
    if f.mac = Config.mac port && c.ownAddr port f.dst then
      c.sendFrame port (.echoReply port f.vlan f.dst f.src body)
    else c.noMatch port))

/-- UNMATCHED_FRAME (R336, R379). -/
def execUnmatchedFrame (port : Nat) (malformed : Bool) (s : State) : Host.Outcome State Fault Refusal :=
  onChip s (fun c =>
    if 2 ≤ port || !c.ethUp port then c
    else
      let c := c.onEth port (fun e => { e with rx := satAdd e.rx 1 })
      if malformed then c.malformed port else c.noMatch port)

/-! The SMBus target (R343), which answers while VAUX runs (R406). -/

/-- Answer on the SMBus; nothing answers without VAUX. -/
def onBus (s : State) (f : State → Out) : Host.Outcome State Fault Refusal :=
  onPins s (fun s => if s.power.inputOk then { s with chip := s.chip.emit (f s) } else s)

/-- PEC of a Block Read (log 13): over the address with write, the command code, the address with read, the byte count and
the bytes. -/
def blockPec (addr : BitVec 7) (code : Nat) (bs : List Byte) : Byte :=
  let a := 2 * addr.toNat
  pec8 ([BitVec.ofNat 8 a, BitVec.ofNat 8 code, BitVec.ofNat 8 (a + 1), BitVec.ofNat 8 bs.length] ++ bs)

/-- The operator's queue holds an unacknowledged fatal notice: SMBALERT# is low (R343). -/
def Chip.smbAlert (c : Chip) : Bool := (c.noticeQ 16).entries.any (fun e => e.severity = 2)

/-- An I2C bus has retired, now or in an earlier boot (R346). -/
def Chip.busRetired (c : Chip) : Bool :=
  c.retired.any (fun u => u.cls = 10) || c.store.retireLog.any (fun e => e.unit.cls = 10)

/-- STATUS of the SMBus (R343). -/
def State.statusBits (s : State) : Nat :=
  bit (s.power.phase = .running) + 2 * bit s.chip.smbAlert + 4 * bit s.chip.retiredNow +
    8 * bit (s.chip.hotStacks ≠ 0 || s.chip.hotChannels ≠ 0) + 16 * bit s.chip.busRetired

/-- The bytes of a Block Read, by command code (table "SMBus commands"); none for every other code. `dies` are the live
readings of the first four temperatures (log 9). -/
def State.blockOf (s : State) (dies : List Half) : Nat → Option (List Byte)
  | 0 => some (leBytes 8 idReg.toNat)
  | 1 => some (leBytes 8 Config.serial.toNat)
  | 2 => some (leBytes 4 s.statusBits)
  | 3 => some ((((List.range 4).map (fun k => dies.getD k 0x8000)) ++ s.chip.side.temps.drop 4).flatMap (fun t => leBytes 2 t.toNat))
  | 4 => some (leBytes 4 (meanOf s.chip.side.pins))
  | 5 => some (s.chip.side.rails.flatMap (fun t => leBytes 2 t.toNat))
  | _ => none

/-- A Block Read of a command code: a NACK where the table has none (R343). -/
def blockRead (pec : Bool) (code : Nat) (dies : List Half) (s : State) : Host.Outcome State Fault Refusal :=
  onBus s (fun s => match s.blockOf dies code with
    | some bs => .smbus bs (if pec then some (blockPec s.chip.boot.smbusAddr code bs) else none)
    | none => .smbusNack)

/-- IDENTITY (R343). -/
def execIdentity (pec : Bool) (s : State) : Host.Outcome State Fault Refusal := blockRead pec 0 [] s
/-- SERIAL (R343). -/
def execSerial (pec : Bool) (s : State) : Host.Outcome State Fault Refusal := blockRead pec 1 [] s
/-- STATUS (R343). -/
def execStatus (pec : Bool) (s : State) : Host.Outcome State Fault Refusal := blockRead pec 2 [] s
/-- TEMPS (R343, R395). -/
def execTemps (pec : Bool) (dies : List Half) (s : State) : Host.Outcome State Fault Refusal := blockRead pec 3 dies s
/-- POWER (R343). -/
def execPower (pec : Bool) (s : State) : Host.Outcome State Fault Refusal := blockRead pec 4 [] s
/-- RAILS (R343). -/
def execRails (pec : Bool) (s : State) : Host.Outcome State Fault Refusal := blockRead pec 5 [] s

/-- ALERT_RESPONSE_ADDRESS_READ (R343): the module's address while it drives SMBALERT#, else no acknowledgement. -/
def execAlertResponseAddressRead (s : State) : Host.Outcome State Fault Refusal :=
  onBus s (fun s => if s.chip.smbAlert then .smbus [BitVec.ofNat 8 (2 * s.chip.boot.smbusAddr.toNat)] none else .smbusNack)

/-! The I2C controller (R344 to R346). -/

/-- Readings where a poll gave them, else as last read. -/
def newReadings (old new : List Half) : List Half := old.mapIdx (fun k v => new.getD k v)

/-- The polls of the last 100 ms, with one more of 10 ms (R344). -/
def lastTen (old new : List Half) : List Half := (old ++ new).drop ((old ++ new).length - 10)

/-- What a poll of a bus reads (R343, R344, R400): B0 the 24 values of RAILS, then VIN and PIN and the hottest
regulator; B1 coolant inlet and outlet; B2 the hottest optical engine. The places of the readings are the model's
(DESIGN CHOICE, log 80). -/
def Side.poll (x : Side) (bus : Nat) (r : List Half) : Side :=
  if bus = 0 then
    { x with rails := newReadings x.rails (r.take 24)
             vins := lastTen x.vins ((r.drop 24).take 1), pins := lastTen x.pins ((r.drop 25).take 1)
             temps := lput x.temps 5 (r.getD 26 (x.temps.getD 5 0x8000)) }
  else if bus = 1 then
    { x with temps := lput (lput x.temps 6 (r.getD 0 (x.temps.getD 6 0x8000))) 7 (r.getD 1 (x.temps.getD 7 0x8000)) }
  else if bus = 2 then { x with temps := lput x.temps 4 (r.getD 0 (x.temps.getD 4 0x8000)) }
  else x

/-- Raise counter k of an I2C bus (R379): 0 transactions, 1 transient events, 2 polls skipped. -/
def Chip.countBus (c : Chip) (bus k n : Nat) : Chip :=
  { c with side := { c.side with i2c := tmod 0 c.side.i2c (4 * bus + k) (fun v => satAdd v n) } }

/-- A transaction on a bus fails: a transient error event of the bus (R345, R381). A retired bus carries none. -/
def Chip.busFault (c : Chip) (bus : Nat) : Chip :=
  if c.isRetired 10 bus then c else ((c.countBus bus 0 1).countBus bus 1 1).faultEvent ⟨10, bus⟩ .one

/-- I2C_POLL_TIMER (R344, R345, R381). `faults` are the failures it meets, one after another: the transaction is tried
again up to three times, and gives the readings unless a fourth attempt fails too. -/
def execI2cPollTimer (bus : Nat) (faults : List BusFault) (readings : List Half) (s : State) :
    Host.Outcome State Fault Refusal :=
  onPins s (fun s =>
    if !s.power.inputOk || 4 ≤ bus || s.chip.isRetired 10 bus then s
    else
      let c := (faults.take 4).foldl (fun c _ => c.busFault bus) s.chip
      if 4 ≤ faults.length || c.isRetired 10 bus then { s with chip := c }
      else
        let c := c.countBus bus 0 1
        { s with chip := { c with side := c.side.poll bus readings } })

/-- I2C_BUS_RECOVERY (R346): SDA high after one of three attempts, or the bus retires. Whether a poll was due meanwhile,
and so was skipped, is free (log 80). -/
def execI2cBusRecovery (bus : Nat) (sdaHighAfter : Nat) (s : State) : Host.Outcome State Fault Refusal :=
  onPins s (fun s =>
    if !s.power.inputOk || 4 ≤ bus || s.chip.isRetired 10 bus then s
    else
      let c := (s.chip.countBus bus 2 (s.chip.freeNow % 2)).drew
      { s with chip := if 1 ≤ sdaHighAfter && sdaHighAfter ≤ 3 then c else c.faultEvent ⟨10, bus⟩ .atOnce })

/-! JTAG (R347). -/

/-- Load a JTAG instruction; the boundary is driven or not. -/
def State.jtag (s : State) (ir : JtagIr) (drive : Bool) : State :=
  { s with chip := { s.chip with side := { s.chip.side with ir := ir, boundary := drive } } }

/-- The module is held in cold reset with its rails on (R402). -/
def State.held (s : State) : Bool := s.power.phase = .coldReset && s.power.coldHold

/-- BYPASS (R347). -/
def execBypass (s : State) : Host.Outcome State Fault Refusal := onPins s (fun s => s.jtag .bypass false)
/-- IDCODE (R347). -/
def execIdcode (s : State) : Host.Outcome State Fault Refusal :=
  onPins s (fun s =>
    let s := s.jtag .idcode false
    { s with chip := s.chip.emit (.jtag (leBytes 4 0x116001EB)) })
/-- SAMPLE/PRELOAD (R347). -/
def execSamplePreload (s : State) : Host.Outcome State Fault Refusal := onPins s (fun s => s.jtag .samplePreload false)
/-- EXTEST (R347, R402): it drives the boundary only while the module is held in cold reset. Loaded outside it, it never
drives (DEDUCED, log 81). -/
def execExtest (s : State) : Host.Outcome State Fault Refusal := onPins s (fun s => s.jtag .extest s.held)
/-- CLAMP (R347, R402). -/
def execClamp (s : State) : Host.Outcome State Fault Refusal := onPins s (fun s => s.jtag .clamp s.held)

/-- An Ezfoaro debug instruction (R347): with no debug session it selects the bypass register; in one it acts, and the
manual does not say how. -/
def execJtagDebugInstruction (_code : Nat) (s : State) : Host.Outcome State Fault Refusal :=
  if s.power.broken then .fault .supplyUndefined
  else if s.chip.side.debugOpen then .refused .debugInstruction
  else .next (s.jtag .bypass false)

end Sys2Proof.Machine
end

