-- ==== Sys2Proof/Machine/Dispatch.lean ====
section
/-! DEFINITION. `exec`: one arm per command, each a direct call of its meaning. -/

namespace Sys2Proof.Machine

open Sys2Proof

-- The effect of one command on everything but the queue of commands.
def exec (i : Instr) (s : State) : Host.Outcome State Fault Refusal :=
  match i with
  | .powerInputInRange => Sys2Proof.Machine.execPowerInputInRange s
  | .pwrOkRise => Sys2Proof.Machine.execPwrOkRise s
  | .pwrOkFall => Sys2Proof.Machine.execPwrOkFall s
  | .coldHoldRelease => Sys2Proof.Machine.execColdHoldRelease s
  | .coldBoot devices => Sys2Proof.Machine.execColdBoot devices s
  | .iboonReadyTimeout => Sys2Proof.Machine.execIboonReadyTimeout s
  | .thermalStop sensor reading => Sys2Proof.Machine.execThermalStop sensor reading s
  | .thermalRecover => Sys2Proof.Machine.execThermalRecover s
  | .perst => Sys2Proof.Machine.execPerst s
  | .pcieLinkReturn => Sys2Proof.Machine.execPcieLinkReturn s
  | .moduleResetWarm c => Sys2Proof.Machine.execModuleResetWarm c s
  | .moduleResetCold c => Sys2Proof.Machine.execModuleResetCold c s
  | .slotWrite r q pos slot => Sys2Proof.Machine.execSlotWrite r q pos slot s
  | .doorbell r q v => Sys2Proof.Machine.execDoorbell r q v s
  | .doorbellFlush r q v => Sys2Proof.Machine.execDoorbellFlush r q v s
  | .completionHeadWrite r q v => Sys2Proof.Machine.execCompletionHeadWrite r q v s
  | .registerLowerHalfRead p a size => Sys2Proof.Machine.execRegisterLowerHalfRead p a size s
  | .registerUpperHalfRead p a size => Sys2Proof.Machine.execRegisterUpperHalfRead p a size s
  | .registerLowerHalfWrite p a size v => Sys2Proof.Machine.execRegisterLowerHalfWrite p a size v s
  | .registerUpperHalfWrite p a size v => Sys2Proof.Machine.execRegisterUpperHalfWrite p a size v s
  | .registerWrite p a size v => Sys2Proof.Machine.execRegisterWrite p a size v s
  | .feedStreamEnable stream v => Sys2Proof.Machine.execFeedStreamEnable stream v s
  | .feedStreamDisable stream v => Sys2Proof.Machine.execFeedStreamDisable stream v s
  | .feedTailWrite stream tail => Sys2Proof.Machine.execFeedTailWrite stream tail s
  | .feedDatagram port f sp up k payload => Sys2Proof.Machine.execFeedDatagram port f sp up k payload s
  | .feedInterruptTimer stream => Sys2Proof.Machine.execFeedInterruptTimer stream s
  | .udpSegment port f sp k hdr seg => Sys2Proof.Machine.execUdpSegment port f sp k hdr seg s
  | .udpPartialTimeout q msg => Sys2Proof.Machine.execUdpPartialTimeout q msg s
  | .udpNoticeResend q => Sys2Proof.Machine.execUdpNoticeResend q s
  | .owlItemStart q => Sys2Proof.Machine.execOwlItemStart q s
  | .noticeDeliver nq => Sys2Proof.Machine.execNoticeDeliver nq s
  | .nop c => Sys2Proof.Machine.execNop c s
  | .openSession c => Sys2Proof.Machine.execOpenSession c s
  | .closeSession c => Sys2Proof.Machine.execCloseSession c s
  | .identify c => Sys2Proof.Machine.execIdentify c s
  | .readReg c => Sys2Proof.Machine.execReadReg c s
  | .writeReg c => Sys2Proof.Machine.execWriteReg c s
  | .keyAgree c => Sys2Proof.Machine.execKeyAgree c s
  | .attest c => Sys2Proof.Machine.execAttest c s
  | .queueCreate c => Sys2Proof.Machine.execQueueCreate c s
  | .queueDelete c => Sys2Proof.Machine.execQueueDelete c s
  | .queueFlush c => Sys2Proof.Machine.execQueueFlush c s
  | .noticeAck c => Sys2Proof.Machine.execNoticeAck c s
  | .instanceCreate c => Sys2Proof.Machine.execInstanceCreate c s
  | .instanceModify c => Sys2Proof.Machine.execInstanceModify c s
  | .instanceReset c => Sys2Proof.Machine.execInstanceReset c s
  | .instanceResetDrainEnd inst => Sys2Proof.Machine.execInstanceResetDrainEnd inst s
  | .instanceDestroy c => Sys2Proof.Machine.execInstanceDestroy c s
  | .quotaSet c => Sys2Proof.Machine.execQuotaSet c s
  | .guaranteeSet c => Sys2Proof.Machine.execGuaranteeSet c s
  | .alloc c => Sys2Proof.Machine.execAlloc c s
  | .free c => Sys2Proof.Machine.execFree c s
  | .write c => Sys2Proof.Machine.execWrite c s
  | .read c => Sys2Proof.Machine.execRead c s
  | .migrate c => Sys2Proof.Machine.execMigrate c s
  | .pin c => Sys2Proof.Machine.execPin c s
  | .unpin c => Sys2Proof.Machine.execUnpin c s
  | .fence c => Sys2Proof.Machine.execFence c s
  | .tableCreate c => Sys2Proof.Machine.execTableCreate c s
  | .tableModify c => Sys2Proof.Machine.execTableModify c s
  | .tableDestroy c => Sys2Proof.Machine.execTableDestroy c s
  | .tableLoad c => Sys2Proof.Machine.execTableLoad c s
  | .hotSet c => Sys2Proof.Machine.execHotSet c s
  | .jobStart c => Sys2Proof.Machine.execJobStart c s
  | .jobEnd c => Sys2Proof.Machine.execJobEnd c s
  | .launch c => Sys2Proof.Machine.execLaunch c s
  | .launchStart inst tag q => Sys2Proof.Machine.execLaunchStart inst tag q s
  | .stepClose c => Sys2Proof.Machine.execStepClose c s
  | .stepCloseEffect inst => Sys2Proof.Machine.execStepCloseEffect inst s
  | .publish c => Sys2Proof.Machine.execPublish c s
  | .releaseSnapshot c => Sys2Proof.Machine.execReleaseSnapshot c s
  | .hostSignalTile c => Sys2Proof.Machine.execHostSignalTile c s
  | .hostSignalHub c => Sys2Proof.Machine.execHostSignalHub c s
  | .hostSignalWait c => Sys2Proof.Machine.execHostSignalWait c s
  | .hostSignalRead c => Sys2Proof.Machine.execHostSignalRead c s
  | .bruinSetJob c => Sys2Proof.Machine.execBruinSetJob c s
  | .bruinSetRegister c => Sys2Proof.Machine.execBruinSetRegister c s
  | .bruinSetChange c => Sys2Proof.Machine.execBruinSetChange c s
  | .bruinSetRemove c => Sys2Proof.Machine.execBruinSetRemove c s
  | .bruinSetStatus c => Sys2Proof.Machine.execBruinSetStatus c s
  | .groupSet c => Sys2Proof.Machine.execGroupSet c s
  | .groupClear c => Sys2Proof.Machine.execGroupClear c s
  | .unitDisable c => Sys2Proof.Machine.execUnitDisable c s
  | .unitEnable c => Sys2Proof.Machine.execUnitEnable c s
  | .unitRetire c => Sys2Proof.Machine.execUnitRetire c s
  | .unitShutdownComplete u => Sys2Proof.Machine.execUnitShutdownComplete u s
  | .unitEnablingComplete u dev => Sys2Proof.Machine.execUnitEnablingComplete u dev s
  | .countersRead c => Sys2Proof.Machine.execCountersRead c s
  | .debugOpen c => Sys2Proof.Machine.execDebugOpen c s
  | .debugClose c => Sys2Proof.Machine.execDebugClose c s
  | .configRead c => Sys2Proof.Machine.execConfigRead c s
  | .configWrite c => Sys2Proof.Machine.execConfigWrite c s
  | .configCommit c => Sys2Proof.Machine.execConfigCommit c s
  | .copy t d => Sys2Proof.Machine.execCopy t d s
  | .copy2d t d => Sys2Proof.Machine.execCopy2d t d s
  | .fill t d => Sys2Proof.Machine.execFill t d s
  | .gather t d => Sys2Proof.Machine.execGather t d s
  | .scatter t d => Sys2Proof.Machine.execScatter t d s
  | .stashPut t d => Sys2Proof.Machine.execStashPut t d s
  | .stashGet t d => Sys2Proof.Machine.execStashGet t d s
  | .matmul t d => Sys2Proof.Machine.execMatmul t d s
  | .matmulBt t d => Sys2Proof.Machine.execMatmulBt t d s
  | .matmulSplit t d => Sys2Proof.Machine.execMatmulSplit t d s
  | .vadd t d => Sys2Proof.Machine.execVadd t d s
  | .vsub t d => Sys2Proof.Machine.execVsub t d s
  | .vmul t d => Sys2Proof.Machine.execVmul t d s
  | .vfma t d => Sys2Proof.Machine.execVfma t d s
  | .vmax t d => Sys2Proof.Machine.execVmax t d s
  | .vmin t d => Sys2Proof.Machine.execVmin t d s
  | .vneg t d => Sys2Proof.Machine.execVneg t d s
  | .vabs t d => Sys2Proof.Machine.execVabs t d s
  | .vrelu t d => Sys2Proof.Machine.execVrelu t d s
  | .vclamp t d => Sys2Proof.Machine.execVclamp t d s
  | .vselect t d => Sys2Proof.Machine.execVselect t d s
  | .vrecip t d => Sys2Proof.Machine.execVrecip t d s
  | .vrsqrt t d => Sys2Proof.Machine.execVrsqrt t d s
  | .vexp t d => Sys2Proof.Machine.execVexp t d s
  | .vlog t d => Sys2Proof.Machine.execVlog t d s
  | .vtanh t d => Sys2Proof.Machine.execVtanh t d s
  | .vsigmoid t d => Sys2Proof.Machine.execVsigmoid t d s
  | .vgelu t d => Sys2Proof.Machine.execVgelu t d s
  | .vsumRow t d => Sys2Proof.Machine.execVsumRow t d s
  | .vmaxRow t d => Sys2Proof.Machine.execVmaxRow t d s
  | .vamaxRow t d => Sys2Proof.Machine.execVamaxRow t d s
  | .vrand t d => Sys2Proof.Machine.execVrand t d s
  | .vrandBits t d => Sys2Proof.Machine.execVrandBits t d s
  | .cvt t d => Sys2Proof.Machine.execCvt t d s
  | .scalePass t d => Sys2Proof.Machine.execScalePass t d s
  | .cvtGrad t d => Sys2Proof.Machine.execCvtGrad t d s
  | .lookup t d => Sys2Proof.Machine.execLookup t d s
  | .rowGrad t d => Sys2Proof.Machine.execRowGrad t d s
  | .collAllReduce t d => Sys2Proof.Machine.execCollAllReduce t d s
  | .collReduceScatter t d => Sys2Proof.Machine.execCollReduceScatter t d s
  | .collAllGather t d => Sys2Proof.Machine.execCollAllGather t d s
  | .collBroadcast t d => Sys2Proof.Machine.execCollBroadcast t d s
  | .collBarrier t d => Sys2Proof.Machine.execCollBarrier t d s
  | .collAllToAll t d => Sys2Proof.Machine.execCollAllToAll t d s
  | .collAllToAllV t d => Sys2Proof.Machine.execCollAllToAllV t d s
  | .collSplitOpen t d => Sys2Proof.Machine.execCollSplitOpen t d s
  | .nopDescriptor t d => Sys2Proof.Machine.execNopDescriptor t d s
  | .repeatSpan t d => Sys2Proof.Machine.execRepeatSpan t d s
  | .wait t d => Sys2Proof.Machine.execWait t d s
  | .signal t d => Sys2Proof.Machine.execSignal t d s
  | .branchSem t d => Sys2Proof.Machine.execBranchSem t d s
  | .jump t d => Sys2Proof.Machine.execJump t d s
  | .fenceDescriptor t d => Sys2Proof.Machine.execFenceDescriptor t d s
  | .stepCloseDescriptor t d => Sys2Proof.Machine.execStepCloseDescriptor t d s
  | .hostSignalDescriptor t d => Sys2Proof.Machine.execHostSignalDescriptor t d s
  | .endProgram t d => Sys2Proof.Machine.execEndProgram t d s
  | .descriptorComplete t u => Sys2Proof.Machine.execDescriptorComplete t u s
  | .programEnd t => Sys2Proof.Machine.execProgramEnd t s
  | .semaphoreSignalReceived t sender => Sys2Proof.Machine.execSemaphoreSignalReceived t sender s
  | .signalAckReceived t source => Sys2Proof.Machine.execSignalAckReceived t source s
  | .waitRelease t => Sys2Proof.Machine.execWaitRelease t s
  | .tileClockGate t => Sys2Proof.Machine.execTileClockGate t s
  | .engineClockGate unit => Sys2Proof.Machine.execEngineClockGate unit s
  | .randomGeneratorAdvance => Sys2Proof.Machine.execRandomGeneratorAdvance s
  | .voteComplete inst => Sys2Proof.Machine.execVoteComplete inst s
  | .rowApply inst e table => Sys2Proof.Machine.execRowApply inst e table s
  | .logEntriesFree inst e table => Sys2Proof.Machine.execLogEntriesFree inst e table s
  | .flipBarrierEnter inst => Sys2Proof.Machine.execFlipBarrierEnter inst s
  | .flip inst => Sys2Proof.Machine.execFlip inst s
  | .denseSwap inst obj => Sys2Proof.Machine.execDenseSwap inst obj s
  | .bruinProgramStart inst => Sys2Proof.Machine.execBruinProgramStart inst s
  | .bruinStageComplete inst => Sys2Proof.Machine.execBruinStageComplete inst s
  | .bruinShardCommit inst => Sys2Proof.Machine.execBruinShardCommit inst s
  | .updateCoreUpset core => Sys2Proof.Machine.execUpdateCoreUpset core s
  | .engineRequestMessage e arrived => Sys2Proof.Machine.execEngineRequestMessage e arrived s
  | .lookupResultReceived r => Sys2Proof.Machine.execLookupResultReceived r s
  | .hotRowValueReceived inst table row slot => Sys2Proof.Machine.execHotRowValueReceived inst table row slot s
  | .replicaSlotWrite inst table row slot => Sys2Proof.Machine.execReplicaSlotWrite inst table row slot s
  | .leaf p => Sys2Proof.Machine.execLeaf p s
  | .result p => Sys2Proof.Machine.execResult p s
  | .counts p => Sys2Proof.Machine.execCounts p s
  | .token p => Sys2Proof.Machine.execToken p s
  | .credit p => Sys2Proof.Machine.execCredit p s
  | .refuse p => Sys2Proof.Machine.execRefuse p s
  | .abort p => Sys2Proof.Machine.execAbort p s
  | .split p => Sys2Proof.Machine.execSplit p s
  | .handoff p => Sys2Proof.Machine.execHandoff p s
  | .collComplete g => Sys2Proof.Machine.execCollComplete g s
  | .holdTokenTimer inst => Sys2Proof.Machine.execHoldTokenTimer inst s
  | .groupTimeout g m => Sys2Proof.Machine.execGroupTimeout g m s
  | .timeProbeTimer inst => Sys2Proof.Machine.execTimeProbeTimer inst s
  | .fabricPacketReceived k hdr body => Sys2Proof.Machine.execFabricPacketReceived k hdr body s
  | .dataFlit k flit => Sys2Proof.Machine.execDataFlit k flit s
  | .idleFlit k flit => Sys2Proof.Machine.execIdleFlit k flit s
  | .retry k flit => Sys2Proof.Machine.execRetry k flit s
  | .retryRepeatTimer k => Sys2Proof.Machine.execRetryRepeatTimer k s
  | .flitGroupReceived k offset valid marker => Sys2Proof.Machine.execFlitGroupReceived k offset valid marker s
  | .alignmentSearchTimeout k => Sys2Proof.Machine.execAlignmentSearchTimeout k s
  | .tapRequest k w => Sys2Proof.Machine.execTapRequest k w s
  | .tapAnswer k w => Sys2Proof.Machine.execTapAnswer k w s
  | .tapStepEvaluate k lane corrected uncorrectable => Sys2Proof.Machine.execTapStepEvaluate k lane corrected uncorrectable s
  | .laneRetire k w => Sys2Proof.Machine.execLaneRetire k w s
  | .retireAnswer k w => Sys2Proof.Machine.execRetireAnswer k w s
  | .latencyProbe k w holding => Sys2Proof.Machine.execLatencyProbe k w holding s
  | .probeEcho k w roundTrip => Sys2Proof.Machine.execProbeEcho k w roundTrip s
  | .trainingWordsReceived k tw => Sys2Proof.Machine.execTrainingWordsReceived k tw s
  | .linkTrainingDone k => Sys2Proof.Machine.execLinkTrainingDone k s
  | .fastRetrain k => Sys2Proof.Machine.execFastRetrain k s
  | .laneLossOfSignal k lane => Sys2Proof.Machine.execLaneLossOfSignal k lane s
  | .linkShutdownComplete k => Sys2Proof.Machine.execLinkShutdownComplete k s
  | .faultEvent u w granule => Sys2Proof.Machine.execFaultEvent u w granule s
  | .bucketLeak u => Sys2Proof.Machine.execBucketLeak u s
  | .poisonedRead inst addr => Sys2Proof.Machine.execPoisonedRead inst addr s
  | .extentAgeTick => Sys2Proof.Machine.execExtentAgeTick s
  | .quotaEvictionTick inst tier => Sys2Proof.Machine.execQuotaEvictionTick inst tier s
  | .migrationPanelCopyDone inst obj ext => Sys2Proof.Machine.execMigrationPanelCopyDone inst obj ext s
  | .migrationCommit inst obj ext => Sys2Proof.Machine.execMigrationCommit inst obj ext s
  | .migrationRelease inst obj ext => Sys2Proof.Machine.execMigrationRelease inst obj ext s
  | .calibrationWindowStart pc => Sys2Proof.Machine.execCalibrationWindowStart pc s
  | .calibrationWindowEnd pc moved belowFloor => Sys2Proof.Machine.execCalibrationWindowEnd pc moved belowFloor s
  | .channelRetune ch moved belowFloor => Sys2Proof.Machine.execChannelRetune ch moved belowFloor s
  | .temperatureHot channel idx => Sys2Proof.Machine.execTemperatureHot channel idx s
  | .temperatureCool channel idx => Sys2Proof.Machine.execTemperatureCool channel idx s
  | .i2cPollTimer bus faults readings => Sys2Proof.Machine.execI2cPollTimer bus faults readings s
  | .i2cBusRecovery bus sdaHighAfter => Sys2Proof.Machine.execI2cBusRecovery bus sdaHighAfter s
  | .identity pec => Sys2Proof.Machine.execIdentity pec s
  | .serial pec => Sys2Proof.Machine.execSerial pec s
  | .status pec => Sys2Proof.Machine.execStatus pec s
  | .temps pec dies => Sys2Proof.Machine.execTemps pec dies s
  | .power pec => Sys2Proof.Machine.execPower pec s
  | .rails pec => Sys2Proof.Machine.execRails pec s
  | .alertResponseAddressRead => Sys2Proof.Machine.execAlertResponseAddressRead s
  | .bypass => Sys2Proof.Machine.execBypass s
  | .idcode => Sys2Proof.Machine.execIdcode s
  | .samplePreload => Sys2Proof.Machine.execSamplePreload s
  | .extest => Sys2Proof.Machine.execExtest s
  | .clamp => Sys2Proof.Machine.execClamp s
  | .jtagDebugInstruction code => Sys2Proof.Machine.execJtagDebugInstruction code s
  | .msixPendingSend entry => Sys2Proof.Machine.execMsixPendingSend entry s
  | .flushingReadComplete q tag => Sys2Proof.Machine.execFlushingReadComplete q tag s
  | .linkDown k => Sys2Proof.Machine.execLinkDown k s
  | .linkSignalDetect k => Sys2Proof.Machine.execLinkSignalDetect k s
  | .pcieLinkDown => Sys2Proof.Machine.execPcieLinkDown s
  | .coldHoldAssert => Sys2Proof.Machine.execColdHoldAssert s
  | .inputLeavesRange => Sys2Proof.Machine.execInputLeavesRange s
  | .dataMoveComplete q tag data => Sys2Proof.Machine.execDataMoveComplete q tag data s
  | .pcieRequestFailure q tag => Sys2Proof.Machine.execPcieRequestFailure q tag s
  | .arpRequest port vlan target sender mac => Sys2Proof.Machine.execArpRequest port vlan target sender mac s
  | .neighborSolicitation port vlan target sender mac => Sys2Proof.Machine.execNeighborSolicitation port vlan target sender mac s
  | .echoRequest port f body => Sys2Proof.Machine.execEchoRequest port f body s
  | .unmatchedFrame port malformed => Sys2Proof.Machine.execUnmatchedFrame port malformed s

end Sys2Proof.Machine
end

