-- ==== Sys2Proof/WellFormed.lean ====
section
/-! DEFINITION. Well-formed commands: every operand lies in the range that its kind has, and a command that shares its
opcode with others carries the KIND of its own row. -/

namespace Sys2Proof

open Sys2Proof.Machine

/-- The queue that carries a command exists in numbering: 0 to 255, or 256 for OQ (R45). -/
def icpOk (c : Icp) : Bool := decide (c.queue ≤ 256)

/-- A parameter byte has a value. -/
def byteIs (c : Icp) (off v : Nat) : Bool := decide ((c.params.getD off 0).toNat = v)

/-- Bit 0 of a parameter byte has a value (MODIFY, R350). -/
def bit0Is (c : Icp) (off : Nat) (v : Bool) : Bool := (c.params.getD off 0).getLsbD 0 == v

/-- OP of a descriptor (R97). -/
def opIs (d : Desc) (op : Nat) : Bool := decide (dOp d = op)

/-- KIND of a COLL descriptor (R294). -/
def collIs (d : Desc) (kind : Nat) : Bool := decide (dbits d 411 408 = kind)

/-- A unit of the table "Fault buckets" or of R67. -/
def unitExists (u : UnitId) : Bool :=
  decide (u.idx < [32, 2, 4, 1600, 1024, 96, 512, 16, 8, 64, 4, 4].getD u.cls 0)

/-- A path of loads and stores exists (R318, R326). -/
def pathOk : Path → Bool
  | .core k => decide (k < 16)
  | _ => true

/-- An access of `size` bytes is to the upper half of a double (R78, R79). -/
def upperHalf (addr size : Nat) : Bool := decide (size = 4) && decide (addr % 8 = 4)

/-- A load or store of a lower half, or of any other bytes than an upper half. -/
def lowerAccess (p : Path) (addr size most : Nat) : Bool :=
  pathOk p && decide (1 ≤ size) && decide (size ≤ most) && !upperHalf addr size

/-- A frame that reaches a port (R335, R336): its VLAN ID has 12 bits. -/
def frameOk (port : Nat) (vlan : Option Nat) : Bool := decide (port < 2) && vlan.all (fun v => decide (v < 4096))

/-- A request message and the link that it arrived on (R193): at most 28 index records or 14 weighted ones. -/
def requestOk (a : Nat × ReqMsg) : Bool :=
  decide (a.1 < 32) && decide (a.2.inst < 16) && decide (a.2.records.length ≤ if a.2.weighted then 14 else 28)

/-- The command is well formed. -/
def Instr.wf (i : Instr) : Bool :=
  match i with
  | .powerInputInRange => true
  | .pwrOkRise => true
  | .pwrOkFall => true
  | .coldHoldRelease => true
  | .coldBoot _ => true
  | .iboonReadyTimeout => true
  | .thermalStop _ _ => true
  | .thermalRecover => true
  | .perst => true
  | .pcieLinkReturn => true
  | .moduleResetWarm c => icpOk c && byteIs c 0 0
  | .moduleResetCold c => icpOk c && byteIs c 0 1
  | .slotWrite _ q _ _ => decide (q ≤ 256)
  | .doorbell _ q _ => decide (q ≤ 256)
  | .doorbellFlush _ q _ => decide (q ≤ 256)
  | .completionHeadWrite _ q _ => decide (q ≤ 256)
  | .registerLowerHalfRead p a size => lowerAccess p a size 8
  | .registerUpperHalfRead p a size => pathOk p && upperHalf a size
  | .registerLowerHalfWrite p a size _ => lowerAccess p a size 4
  | .registerUpperHalfWrite p a size _ => pathOk p && upperHalf a size
  | .registerWrite p _ size _ => pathOk p && decide (1 ≤ size) && decide (size ≤ 8)
  | .feedStreamEnable stream _ => decide (stream < 32)
  | .feedStreamDisable stream _ => decide (stream < 32)
  | .feedTailWrite stream _ => decide (stream < 32)
  | .feedDatagram port f _ _ _ _ => frameOk port f.vlan
  | .feedInterruptTimer stream => decide (stream < 32)
  | .udpSegment port f _ _ _ _ => frameOk port f.vlan
  | .udpPartialTimeout q _ => decide (q ≤ 256)
  | .udpNoticeResend q => decide (q ≤ 256)
  | .owlItemStart q => decide (q ≤ 256)
  | .noticeDeliver nq => decide (nq ≤ 16)
  | .nop c => icpOk c
  | .openSession c => icpOk c
  | .closeSession c => icpOk c
  | .identify c => icpOk c
  | .readReg c => icpOk c
  | .writeReg c => icpOk c
  | .keyAgree c => icpOk c
  | .attest c => icpOk c
  | .queueCreate c => icpOk c
  | .queueDelete c => icpOk c
  | .queueFlush c => icpOk c
  | .noticeAck c => icpOk c
  | .instanceCreate c => icpOk c && bit0Is c 0 false
  | .instanceModify c => icpOk c && bit0Is c 0 true
  | .instanceReset c => icpOk c
  | .instanceResetDrainEnd n => decide (n < 16)
  | .instanceDestroy c => icpOk c
  | .quotaSet c => icpOk c
  | .guaranteeSet c => icpOk c
  | .alloc c => icpOk c
  | .free c => icpOk c
  | .write c => icpOk c
  | .read c => icpOk c
  | .migrate c => icpOk c
  | .pin c => icpOk c && byteIs c 16 1
  | .unpin c => icpOk c && byteIs c 16 0
  | .fence c => icpOk c
  | .tableCreate c => icpOk c
  | .tableModify c => icpOk c
  | .tableDestroy c => icpOk c
  | .tableLoad c => icpOk c
  | .hotSet c => icpOk c
  | .jobStart c => icpOk c
  | .jobEnd c => icpOk c
  | .launch c => icpOk c
  | .launchStart n _ q => decide (n < 16) && decide (q ≤ 256)
  | .stepClose c => icpOk c
  | .stepCloseEffect n => decide (n < 16)
  | .publish c => icpOk c
  | .releaseSnapshot c => icpOk c
  | .hostSignalTile c => icpOk c && byteIs c 0 0
  | .hostSignalHub c => icpOk c && byteIs c 0 1
  | .hostSignalWait c => icpOk c && byteIs c 0 2
  | .hostSignalRead c => icpOk c && byteIs c 0 3
  | .bruinSetJob c => icpOk c && byteIs c 0 0
  | .bruinSetRegister c => icpOk c && byteIs c 0 1
  | .bruinSetChange c => icpOk c && byteIs c 0 2
  | .bruinSetRemove c => icpOk c && byteIs c 0 3
  | .bruinSetStatus c => icpOk c && byteIs c 0 4
  | .groupSet c => icpOk c
  | .groupClear c => icpOk c
  | .unitDisable c => icpOk c
  | .unitEnable c => icpOk c
  | .unitRetire c => icpOk c
  | .unitShutdownComplete u => unitExists u
  | .unitEnablingComplete u _ => unitExists u
  | .countersRead c => icpOk c
  | .debugOpen c => icpOk c
  | .debugClose c => icpOk c
  | .configRead c => icpOk c
  | .configWrite c => icpOk c
  | .configCommit c => icpOk c
  | .copy t d => decide (t < 1600) && opIs d 0x00
  | .copy2d t d => decide (t < 1600) && opIs d 0x01
  | .fill t d => decide (t < 1600) && opIs d 0x02
  | .gather t d => decide (t < 1600) && opIs d 0x03
  | .scatter t d => decide (t < 1600) && opIs d 0x04
  | .stashPut t d => decide (t < 1600) && opIs d 0x05
  | .stashGet t d => decide (t < 1600) && opIs d 0x06
  | .matmul t d => decide (t < 1600) && opIs d 0x10
  | .matmulBt t d => decide (t < 1600) && opIs d 0x11
  | .matmulSplit t d => decide (t < 1600) && opIs d 0x12
  | .vadd t d => decide (t < 1600) && opIs d 0x20
  | .vsub t d => decide (t < 1600) && opIs d 0x21
  | .vmul t d => decide (t < 1600) && opIs d 0x22
  | .vfma t d => decide (t < 1600) && opIs d 0x23
  | .vmax t d => decide (t < 1600) && opIs d 0x24
  | .vmin t d => decide (t < 1600) && opIs d 0x25
  | .vneg t d => decide (t < 1600) && opIs d 0x26
  | .vabs t d => decide (t < 1600) && opIs d 0x27
  | .vrelu t d => decide (t < 1600) && opIs d 0x28
  | .vclamp t d => decide (t < 1600) && opIs d 0x29
  | .vselect t d => decide (t < 1600) && opIs d 0x2A
  | .vrecip t d => decide (t < 1600) && opIs d 0x2B
  | .vrsqrt t d => decide (t < 1600) && opIs d 0x2C
  | .vexp t d => decide (t < 1600) && opIs d 0x2D
  | .vlog t d => decide (t < 1600) && opIs d 0x2E
  | .vtanh t d => decide (t < 1600) && opIs d 0x2F
  | .vsigmoid t d => decide (t < 1600) && opIs d 0x30
  | .vgelu t d => decide (t < 1600) && opIs d 0x31
  | .vsumRow t d => decide (t < 1600) && opIs d 0x32
  | .vmaxRow t d => decide (t < 1600) && opIs d 0x33
  | .vamaxRow t d => decide (t < 1600) && opIs d 0x34
  | .vrand t d => decide (t < 1600) && opIs d 0x35
  | .vrandBits t d => decide (t < 1600) && opIs d 0x36
  | .cvt t d => decide (t < 1600) && opIs d 0x40
  | .scalePass t d => decide (t < 1600) && opIs d 0x41
  | .cvtGrad t d => decide (t < 1600) && opIs d 0x42
  | .lookup t d => decide (t < 1600) && opIs d 0x50
  | .rowGrad t d => decide (t < 1600) && opIs d 0x51
  | .collAllReduce t d => decide (t < 1600) && opIs d 0x52 && collIs d 0
  | .collReduceScatter t d => decide (t < 1600) && opIs d 0x52 && collIs d 1
  | .collAllGather t d => decide (t < 1600) && opIs d 0x52 && collIs d 2
  | .collBroadcast t d => decide (t < 1600) && opIs d 0x52 && collIs d 3
  | .collBarrier t d => decide (t < 1600) && opIs d 0x52 && collIs d 4
  | .collAllToAll t d => decide (t < 1600) && opIs d 0x52 && collIs d 5
  | .collAllToAllV t d => decide (t < 1600) && opIs d 0x52 && collIs d 6
  | .collSplitOpen t d => decide (t < 1600) && opIs d 0x52 && collIs d 7
  | .nopDescriptor t d => decide (t < 1600) && opIs d 0x70
  | .repeatSpan t d => decide (t < 1600) && opIs d 0x71
  | .wait t d => decide (t < 1600) && opIs d 0x72
  | .signal t d => decide (t < 1600) && opIs d 0x73
  | .branchSem t d => decide (t < 1600) && opIs d 0x74
  | .jump t d => decide (t < 1600) && opIs d 0x75
  | .fenceDescriptor t d => decide (t < 1600) && opIs d 0x76
  | .stepCloseDescriptor t d => decide (t < 1600) && opIs d 0x77
  | .hostSignalDescriptor t d => decide (t < 1600) && opIs d 0x78
  | .endProgram t d => decide (t < 1600) && opIs d 0x7F
  | .descriptorComplete t u => decide (t < 1600) && decide (u < 4)
  | .programEnd t => decide (t < 1600)
  | .semaphoreSignalReceived t sender => decide (t < 1600) && decide (sender ≤ 1600)
  | .signalAckReceived t source => decide (t < 1600) && decide (source ≤ 1600)
  | .waitRelease t => decide (t < 1600)
  | .tileClockGate t => decide (t < 1600)
  | .engineClockGate unit => decide (unit < 29)
  | .randomGeneratorAdvance => true
  | .voteComplete n => decide (n < 16)
  | .rowApply n e _ => decide (n < 16) && decide (e < 24)
  | .logEntriesFree n e _ => decide (n < 16) && decide (e < 24)
  | .flipBarrierEnter n => decide (n < 16)
  | .flip n => decide (n < 16)
  | .denseSwap n _ => decide (n < 16)
  | .bruinProgramStart n => decide (n < 16)
  | .bruinStageComplete n => decide (n < 16)
  | .bruinShardCommit n => decide (n < 16)
  | .updateCoreUpset core => decide (core < 64)
  | .engineRequestMessage e arrived => decide (e < 24) && arrived.all requestOk
  | .lookupResultReceived r => decide (r.inst < 16) && decide (r.engine < 24)
  | .hotRowValueReceived n _ _ _ => decide (n < 16)
  | .replicaSlotWrite n _ _ _ => decide (n < 16)
  | .leaf _ => true
  | .result _ => true
  | .counts _ => true
  | .token _ => true
  | .credit _ => true
  | .refuse _ => true
  | .abort _ => true
  | .split _ => true
  | .handoff _ => true
  | .collComplete g => decide (g < 1024)
  | .holdTokenTimer n => decide (n < 16)
  | .groupTimeout g _ => decide (g < 1024)
  | .timeProbeTimer n => decide (n < 16)
  | .fabricPacketReceived k _ _ => decide (k < 32)
  | .dataFlit k flit => decide (k < 32) && decide (flit.length = 256)
  | .idleFlit k flit => decide (k < 32) && decide (flit.length = 256)
  | .retry k flit => decide (k < 32) && decide (flit.length = 256)
  | .retryRepeatTimer k => decide (k < 32)
  | .flitGroupReceived k offset valid _ => decide (k < 32) && decide (offset < 512) && decide (valid ≤ 64)
  | .alignmentSearchTimeout k => decide (k < 32)
  | .tapRequest k _ => decide (k < 32)
  | .tapAnswer k _ => decide (k < 32)
  | .tapStepEvaluate k lane _ _ => decide (k < 32) && decide (lane < 16)
  | .laneRetire k _ => decide (k < 32)
  | .retireAnswer k _ => decide (k < 32)
  | .latencyProbe k _ _ => decide (k < 32)
  | .probeEcho k _ _ => decide (k < 32)
  | .trainingWordsReceived k _ => decide (k < 32)
  | .linkTrainingDone k => decide (k < 32)
  | .fastRetrain k => decide (k < 32)
  | .laneLossOfSignal k lane => decide (k < 32) && decide (lane < 16)
  | .linkShutdownComplete k => decide (k < 32)
  | .faultEvent u _ _ => unitExists u
  | .bucketLeak u => unitExists u
  | .poisonedRead n _ => decide (n < 16)
  | .extentAgeTick => true
  | .quotaEvictionTick n tier => decide (n < 16) && decide (tier < 3)
  | .migrationPanelCopyDone n _ _ => decide (n < 16)
  | .migrationCommit n _ _ => decide (n < 16)
  | .migrationRelease n _ _ => decide (n < 16)
  | .calibrationWindowStart pc => decide (pc < 1024)
  | .calibrationWindowEnd pc _ _ => decide (pc < 1024)
  | .channelRetune ch _ _ => decide (ch < 96)
  | .temperatureHot _ _ => true
  | .temperatureCool _ _ => true
  | .i2cPollTimer bus _ _ => decide (bus < 4)
  | .i2cBusRecovery bus _ => decide (bus < 4)
  | .identity _ => true
  | .serial _ => true
  | .status _ => true
  | .temps _ _ => true
  | .power _ => true
  | .rails _ => true
  | .alertResponseAddressRead => true
  | .bypass => true
  | .idcode => true
  | .samplePreload => true
  | .extest => true
  | .clamp => true
  | .jtagDebugInstruction _ => true
  | .msixPendingSend entry => decide (entry < 257)
  | .flushingReadComplete q _ => decide (q ≤ 256)
  | .linkDown k => decide (k < 32)
  | .linkSignalDetect k => decide (k < 32)
  | .pcieLinkDown => true
  | .coldHoldAssert => true
  | .inputLeavesRange => true
  | .dataMoveComplete q _ _ => decide (q ≤ 256)
  | .pcieRequestFailure q _ => decide (q ≤ 256)
  | .arpRequest port vlan _ _ _ => frameOk port vlan
  | .neighborSolicitation port vlan _ _ _ => frameOk port vlan
  | .echoRequest port f _ => frameOk port f.vlan
  | .unmatchedFrame port _ => decide (port < 2)

end Sys2Proof
end

