-- ==== Sys2Proof/Safety.lean ====
section
/-! DEFINITION. What claims call a sound supply and a safe run; the shapes of next state they name. -/

namespace Sys2Proof

/-- The commands that act on the supply, on the resets and on the boot. -/
def Instr.movesSupply : Instr → Bool
  | .powerInputInRange => true
  | .inputLeavesRange => true
  | .pwrOkRise => true
  | .pwrOkFall => true
  | .coldHoldAssert => true
  | .coldHoldRelease => true
  | .thermalStop _ _ => true
  | .thermalRecover => true
  | .coldBoot _ => true
  | .iboonReadyTimeout => true
  | .moduleResetWarm _ => true
  | .moduleResetCold _ => true
  | _ => false

end Sys2Proof

namespace Sys2Proof.Machine

/-- The supply as R395, R399, R402 and R406 allow it: VAUX runs exactly while the input lies in its range; rails 0 to 6 all
run outside the off phase and none runs in it; logic runs only with PWR_OK high, the input in range and no thermal stop;
and the module is booted only while COLD_HOLD# is high. A supply already lost under running logic is R399's undefined
module. -/
abbrev Power.Sound (p : Power) : Prop :=
  p.broken = true ∨
    (p.rails.getLsbD 7 = p.inputOk ∧
     (p.phase = .off → p.rails &&& 0x7F = 0) ∧
     (p.phase ≠ .off → p.rails &&& 0x7F = 0x7F ∧ p.pwrOk = true ∧ p.inputOk = true ∧ p.therm = false) ∧
     (p.phase = .running → p.coldHold = false) ∧
     (p.therm = true → p.inputOk = true))

/-- The module carries commands out: booted, inside its supply range. -/
abbrev State.Live (s : State) : Prop := s.power.broken = false ∧ s.power.phase = .running

/-- The module carries commands out, and this ICP command runs now. -/
abbrev State.Takes (s : State) (op : Byte) (p : Icp) : Prop := s.Live ∧ s.chip.runs op p = true

/-- The chip as the command begins, changed by `f`, and the one reply written: a status with its DETAIL, RESULT, data. -/
def State.replied (s : State) (op : Byte) (p : Icp) (f : Chip → Chip) (status detail result : Nat) (data : List Byte) : State :=
  { s with chip := (f (s.chip.begun op p)).reply p.queue p.tag status detail result data }

/-- The command's effect `f` and its reply OK. -/
def State.oked (s : State) (op : Byte) (p : Icp) (f : Chip → Chip) (result : Nat) (data : List Byte) : State :=
  s.replied op p f stOK 0 result data

/-- The command's effect `f` and its reply PENDING. -/
def State.pended (s : State) (op : Byte) (p : Icp) (f : Chip → Chip) : State := s.replied op p f stPending 0 0 []

/-- Refused: no effect beyond the reply (R63). -/
def State.refusedWith (s : State) (op : Byte) (p : Icp) (status detail : Nat) : State := s.replied op p id status detail 0 []

/-- The command's effect `f`, its reply not yet due. -/
def State.went (s : State) (op : Byte) (p : Icp) (f : Chip → Chip) : State := { s with chip := f (s.chip.begun op p) }

/-- The command waits with no effect: it has started, and its row is to come again. -/
def State.waiting (s : State) (op : Byte) (p : Icp) : State :=
  s.went op p (fun c =>
    { c with
      started := modFirst (fun st => st.cmd = p && st.taken && !st.pending) (fun st => { st with taken := false }) c.started })

/-- A port takes a frame of n bytes above its Ethernet header: it is up, the frame is not oversize and carries the port's
VLAN (R335, R336). -/
abbrev Chip.TakesFrame (c : Chip) (port : Nat) (vlan : Option Nat) (n : Nat) : Prop :=
  port < 2 ∧ c.ethUp port = true ∧ 18 + (if vlan.isSome then 4 else 0) + n ≤ 9216 ∧ vlan = c.vlan port

/-- A port takes a UDP datagram: its own MAC and IP address, and a checksum that holds or an IPv4 datagram without one
(R335, R336). -/
abbrev Chip.TakesUdp (c : Chip) (port : Nat) (f : Frame) (sport dport checksum : Half) (payload : List Byte) : Prop :=
  c.TakesFrame port f.vlan ((if isV4 f.dst then 28 else 48) + payload.length) ∧ f.mac = Config.mac port ∧
    c.ownAddr port f.dst = true ∧
    (checksum = udpSum f.src f.dst sport dport payload ∨ (isV4 f.dst = true ∧ checksum = 0))

/-- A frame counts as received at its port (R379). -/
def Chip.heardFrame (c : Chip) (port : Nat) : Chip := c.onEth port (fun e => { e with rx := satAdd e.rx 1 })

/-- Tile t of instance i takes this descriptor now: the descriptor stands at its offset of the store, the tile runs, nothing
holds it, no REPEAT is open, no fault shows before the descriptor issues, and the next one lies in the store. -/
abbrev State.Fetches (s : State) (i t : Nat) (d : Desc) : Prop :=
  s.Live ∧ s.chip.ownerOf t = some i ∧ (s.chip.tile t).run = .running ∧ (s.chip.tile t).ended = false ∧
    (s.chip.tile t).hold = none ∧ (s.chip.tile t).loops = [] ∧ (s.chip.tile t).pc + 64 < storeBytes ∧
    s.chip.stands t (s.chip.tile t).pc d = true ∧
    s.chip.fetchFault i (s.chip.tile t).pc [] d = none ∧ (s.chip.tile t).stalls d = false ∧ dWait d = false

/-- The descriptor goes to an empty unit u, which runs it at once. -/
abbrev State.Issues (s : State) (i t u : Nat) (d : Desc) : Prop :=
  s.Fetches i t d ∧ unitOf d = some u ∧ (s.chip.tile t).unitQ u = []

/-- The descriptor stands at the head of its unit, not yet run, with the loss-scale exponent of its issue, and the sequencer
is past it and past its fence (R85, R138). -/
def Chip.past (c : Chip) (i t u : Nat) (d : Desc) : Chip :=
  let c := c.passFence t d
  let k := c.tile t
  c.setTile t { k with
    units := tput k.units u [{ slot := k.pc, desc := d, ran := false, awaits := false, lexp := (c.job i).lexp }]
    pc := k.pc + 64 }

/-- The descriptor at the head of a unit has run; `w`: it waits for another unit. -/
def Chip.marked (c : Chip) (t u : Nat) (w : Bool) : Chip :=
  c.onTile t (fun k => { k with units :=
    (tmod [] k.units u (fun q => q.mapIdx (fun n x => if n = 0 then { x with ran := true, awaits := w } else x))) })

/-- The effect `f` that a unit has on the stores as it sees them, landed (R84). -/
def Chip.doing (c : Chip) (t u : Nat) (f : Chip → Chip) : Chip := c.landed c.view (f c.view) t u

/-- The descriptor issued to unit u, and its effect `f` on the stores as the unit sees them. -/
def State.ran (s : State) (i t u : Nat) (d : Desc) (f : Chip → Chip) (w : Bool) : State :=
  { s with chip := ((s.chip.past i t u d).doing t u f).marked t u w }

/-- The chip as the unit sees it that runs the descriptor at once (R84). -/
def State.seen (s : State) (i t u : Nat) (d : Desc) : Chip := (s.chip.past i t u d).view

/-- The descriptor issued to unit u, which it has left again with a fault once the effect `f` had taken place (R96). -/
def State.left (s : State) (i t u : Nat) (d : Desc) (f : Chip → Chip) : State :=
  { s with chip := ((s.chip.past i t u d).doing t u f).settleWrites t u }

/-- The input of a vector descriptor at a reference of tile t, decoded to F32 (R107). -/
def Chip.vecIn (c : Chip) (t : Nat) (d : Desc) (r : RefBits) : List Word :=
  toWords (fmtOf (vIn d)) (vCount d) (c.storeRead t (refOff r) ((fmtOf (vIn d)).lineBytes (vCount d)))

/-- B of a vector descriptor: the reference, or COUNT times the immediate (R107). -/
def Chip.vecB (c : Chip) (t : Nat) (d : Desc) : List Word :=
  if vBimm d then List.replicate (vCount d) (vImm d) else c.vecIn t d (vB d)

/-- A vector descriptor's values, each with whether it saturated, rounded to the output format, written at D and counted
(R97, R107, R121, R122). -/
def Chip.vecOut (c : Chip) (i t : Nat) (d : Desc) (xs : List (Num × Bool)) : Chip :=
  c.vWrite i t d (vOutOf (fmtOf (vOut d)) (xs.map (fun x => (x.1, bit x.2))))

/-- Member (k − j) mod n of a group of n (R305). -/
def memberBack (n k j : Nat) : Nat := (((k : Int) - (j : Int)) % (n : Int)).toNat

/-- The OR of the flag words of member k of n and of the 2^r − 1 members before it: what k has received, and its own, when
it enters round r of a barrier (R305). -/
def heard (n : Nat) (flags : Nat → Double) (k r : Nat) : Double :=
  (List.range (2 ^ r)).foldl (fun a j => a ||| flags (memberBack n k j)) 0

/-- One F32 addition of R300 on values that carry the counts behind them: its NaN and its saturation count too (R122). -/
def packAdd (a b : Counted) : Counted :=
  let r := (a.1.add b.1).rndC
  (r.1, a.2.1 + b.2.1 + r.2.1, a.2.2 + b.2.2 + r.2.2)

/-- The pass of R300's loop at width w: v[k] + v[k + w] into v[k], for each k below p in steps of 2w. -/
def packPass (p w : Nat) (v : List Counted) : List Counted :=
  (List.range (p / (2 * w))).foldl (fun v j =>
    v.set (2 * w * j) (packAdd (v.getD (2 * w * j) (plainC Num.zero)) (v.getD (2 * w * j + w) (plainC Num.zero)))) v

/-- R300's loop over the values c[0 .. n−1], in place, p = 2^m the largest power of two not above n. -/
def packLoop (m : Nat) (c : List Num) : Counted :=
  let p := 2 ^ m
  let at' := fun k => plainC (c.getD k Num.zero)
  let v := (List.range p).map (fun k => if p + k < c.length then packAdd (at' k) (at' (p + k)) else at' k)
  ((List.range m).foldl (fun v r => packPass p (2 ^ r) v) v).getD 0 (plainC Num.zero)

/-- A run of k steps from s neither faults nor is refused. -/
def SafeRun (s : State) (k : Nat) : Prop := ∃ t, Host.Core.run Sys2Proof.core k s = .next t

end Sys2Proof.Machine
end

