-- ==== Sys2Proof/Certificates/Slice0/Obligations.lean ====
section
/-! DEFINITION. The statements for the provers: what the commands do and what the machine keeps. -/

open Sys2Proof Sys2Proof.Machine

/-- A step takes the command at the front of the queue and carries it out with the queue's rest. -/
def Obligations.FrontCommandIsExecuted : Prop :=
  ∀ (c : Instr) (rest : List Instr) (s : State),
    step { s with pending := c :: rest } = exec c { s with pending := rest }

/-- With no command waiting a step changes nothing: the model's choice (DESIGN CHOICE, log 12). -/
def Obligations.EmptyQueueIdles : Prop := ∀ s : State, s.pending = [] → step s = .next s

/-- What the commands of the supply, of COLD_HOLD# and of the thermal stop do, on every state the 54 V input has not left
undefined (R395, R399, R402, R406). That a rise of PWR_OK in a thermal stop waits for the recovery, and the temperatures
that a recovery leaves, are the model's (log 9 and the log of the thermal stop). -/
def Obligations.SupplyCommandsComplete : Prop :=
  ∀ s : State, s.power.broken = false →
    exec .powerInputInRange s =
      .next { s with power := { s.power with inputOk := true, rails := s.power.rails ||| 0x80 } } ∧
    (s.power.phase = .off → exec .inputLeavesRange s =
      .next { s with power := { s.power with inputOk := false, rails := 0, therm := false }
                     chip := { s.chip.coldReset with side := Side.initial } }) ∧
    (s.power.phase ≠ .off → exec .inputLeavesRange s =
      .next { s with power := { s.power with inputOk := false, rails := s.power.rails &&& 0x7F, broken := true } }) ∧
    (s.power.pwrOk = true → exec .pwrOkRise s = .next s) ∧
    (s.power.pwrOk = false → s.power.inputOk = true → s.power.therm = false → exec .pwrOkRise s =
      .next { s with chip := s.chip.coldReset
                     power := { s.power with pwrOk := true, phase := .coldReset, rails := 0xFF, cause := 0, otherCopy := false } }) ∧
    (s.power.pwrOk = false → (s.power.inputOk = false ∨ s.power.therm = true) → exec .pwrOkRise s =
      .next { s with power := { s.power with pwrOk := true } }) ∧
    exec .pwrOkFall s =
      .next { s with chip := s.chip.coldReset
                     power := { s.power with pwrOk := false, phase := .off, rails := s.power.rails &&& 0x80, cause := 0, otherCopy := false } } ∧
    (s.power.phase = .running → exec .coldHoldAssert s =
      .next { s with chip := s.chip.coldReset
                     power := { s.power with coldHold := true, phase := .coldReset, rails := 0xFF, cause := 0, otherCopy := false } }) ∧
    (s.power.phase ≠ .running → exec .coldHoldAssert s = .next { s with power := { s.power with coldHold := true } }) ∧
    exec .coldHoldRelease s =
      .next { s with power := { s.power with coldHold := false }
                     chip := { s.chip with side := { s.chip.side with boundary := false } } } ∧
    (∀ (k : Nat) (r : Half), s.power.inputOk = true → 920 ≤ r.toInt → exec (.thermalStop k r) s =
      .next { s with chip := { s.chip.coldReset with side := { s.chip.coldReset.side with temps := lput s.chip.side.temps k r } }
                     power := { s.power with therm := true, phase := .off, rails := s.power.rails &&& 0x80, cause := 0,
                                             otherCopy := false } }) ∧
    (∀ (k : Nat) (r : Half), (s.power.inputOk = false ∨ r.toInt < 920) → exec (.thermalStop k r) s = .next s) ∧
    (s.power.therm = false → exec .thermalRecover s = .next s) ∧
    (s.power.therm = true → ∃ temps : List Half,
      (∀ (k : Nat) (r : Half), s.chip.side.temps[k]? = some r →
        ∃ v : Half, temps[k]? = some v ∧ v.toInt < 760 ∧ (r.toInt < 760 → v = r)) ∧
      let c : Chip := { s.chip with freeCount := s.chip.freeCount + 1, side := { s.chip.side with temps := temps } }
      (s.power.pwrOk = false → exec .thermalRecover s =
        .next { s with power := { s.power with therm := false }, chip := c }) ∧
      (s.power.pwrOk = true → exec .thermalRecover s =
        .next { s with power := { s.power with therm := false, phase := .coldReset, rails := 0xFF, cause := 3,
                                               otherCopy := false }
                       chip := c.coldReset }))

/-- The boots, MODULE_RESET, PERST# and the PCIe link (R329, R390, R393, R394, R402). A COLD_BOOT runs where cold reset is
not held; a MODULE_RESET replies before the reset begins. -/
def Obligations.BootAndResetComplete : Prop :=
  ∀ s : State, s.power.broken = false →
    (∀ ds : List CxlDevice, s.power.phase = .coldReset → s.power.coldHold = false → exec (.coldBoot ds) s =
      .next { s with chip := s.chip.coldBoot s.power.cause s.power.otherCopy ds
                     power := { s.power with phase := .running, otherCopy := false } }) ∧
    (∀ ds : List CxlDevice, (s.power.phase ≠ .coldReset ∨ s.power.coldHold = true) → exec (.coldBoot ds) s = .next s) ∧
    ((s.chip.store.pick true).any (·.2) = true → s.power.phase = .coldReset → exec .iboonReadyTimeout s =
      .next { s with power := { s.power with otherCopy := true } }) ∧
    ((s.chip.store.pick true).any (·.2) = true → s.power.phase = .running → s.chip.boot.fallback = false →
      exec .iboonReadyTimeout s =
        .next { s with chip := s.chip.takeBoot (s.chip.store.bootFrom s.chip.boot.cause s.chip.boot.boots.toNat true) true }) ∧
    ((s.chip.store.pick true).any (·.2) = false → exec .iboonReadyTimeout s = .next s) ∧
    (s.power.phase = .running →
      let off := s.chip.pcie.msix.map (fun e => (e.1, { e.2 with masked := true }))
      let down : State :=
        { s with chip := { s.chip with pcie :=
          { s.chip.pcie with linkUp := false, msixEnable := false, functionMask := false, maxPayload := 0, maxRead := 2,
                             d3hot := false, msix := off } } }
      exec .perst s = .next down ∧ exec .pcieLinkDown s = .next down) ∧
    (s.power.phase = .running → s.chip.pcie.linkUp = true → exec .pcieLinkReturn s = .next s) ∧
    (s.power.phase = .running → s.chip.pcie.linkUp = false →
      let c : Chip := { s.chip with pcie := { s.chip.pcie with linkUp := true } }
      exec .pcieLinkReturn s =
        .next { s with chip := (
          ((List.range 257).filter (fun q => (c.queue q).route = .pcie && (c.queue q).depthLog2 ≠ 0)).foldl
            (fun (c : Chip) q => (c.flush q).1) c) }) ∧
    (∀ p : Icp, s.power.phase = .running → s.chip.runs 0x93 p = true →
      let c := (s.chip.begun 0x93 p).reply p.queue p.tag stOK 0 0 []
      (p.par 0 1 = 0 → exec (.moduleResetWarm p) s = .next { s with chip := c.warmReset p }) ∧
      (p.par 0 1 = 1 → exec (.moduleResetCold p) s =
        .next { s with chip := c.coldReset
                       power := { s.power with phase := .coldReset, rails := 0xFF, cause := 1, otherCopy := false } }))

/-- A slot written to a submission ring (R56, R57), a doorbell (R58), a flush by doorbell (R60) and a completion head
(R324), on a queue that exists and is not fenced; writes that the queue does not take count as stale. A host's write does
not reach a function that is in D3hot (log 6). -/
def Obligations.SlotAndDoorbellWritesComplete : Prop :=
  ∀ (s : State) (r : Route) (q : Nat), s.Live → q ≤ 256 → (s.chip.queue q).depthLog2 ≠ 0 →
    (s.chip.queue q).fenced = false →
    let u := s.chip.queue q
    let stale : State := { s with chip := s.chip.setQueue q { u with stale := satAdd u.stale 1 } }
    (s.chip.reaches r = false →
      (∀ (pos : Nat) (x : BitVec 512), exec (.slotWrite r q pos x) s = .next s) ∧
      (∀ v : Double, exec (.doorbell r q v) s = .next s ∧ exec (.doorbellFlush r q v) s = .next s ∧
        exec (.completionHeadWrite r q v) s = .next s)) ∧
    (s.chip.reaches r = true →
    (∀ (pos : Nat) (x : BitVec 512), r ≠ .udp → u.route ≠ r → exec (.slotWrite r q pos x) s = .next stale) ∧
    (∀ (pos : Nat) (x : BitVec 512), r ≠ .udp → u.route = r → pos < u.depth →
      let c := if r = .onDie then s.chip.hostWrite (u.ring + 64 * pos) (leBytes 64 x.toNat) else s.chip
      let slots := tput u.slots pos x
      let landed := if u.landed.contains pos then u.landed else u.landed ++ [pos]
      (slotEpoch x ≠ u.wepoch.toNat → exec (.slotWrite r q pos x) s =
        .next { s with chip := c.setQueue q { u with stale := satAdd u.stale 1 } }) ∧
      (slotEpoch x = u.wepoch.toNat → u.inItem pos = true → exec (.slotWrite r q pos x) s =
        .next { s with chip := c.setQueue q { u with slots := slots } }) ∧
      (slotEpoch x = u.wepoch.toNat → u.inItem pos = false → slotEnd x = false → exec (.slotWrite r q pos x) s =
        .next { s with chip := c.setQueue q { u with slots := slots, landed := landed } }) ∧
      (slotEpoch x = u.wepoch.toNat → u.inItem pos = false → slotEnd x = true →
        let n := (pos + u.depth - u.committed) % u.depth + 1
        (∀ k < n, landed.contains ((u.committed + k) % u.depth) = true ∧
          slotIndex (tget 0 slots ((u.committed + k) % u.depth)) = k ∧
          slotEpoch (tget 0 slots ((u.committed + k) % u.depth)) = u.wepoch.toNat) →
        exec (.slotWrite r q pos x) s =
          .next { s with chip := c.setQueue q (
            { u with slots := slots, landed := landed.filter (fun p => !(u.span u.committed n).contains p),
                     committed := (pos + 1) % u.depth, items := u.items ++ [{ start := u.committed, count := n, udp := none }] }) })) ∧
    (∀ v : Double, (u.route ≠ r ∨ v.extractLsb' 48 16 ≠ u.wepoch) → exec (.doorbell r q v) s = .next stale) ∧
    (∀ v : Double, u.route = r → v.extractLsb' 48 16 = u.wepoch → v.getLsbD 47 = false →
      (bits v.toNat 11 0 < u.depth → exec (.doorbell r q v) s =
        .next { s with chip := s.chip.setQueue q { u with tail := bits v.toNat 11 0 } }) ∧
      (u.depth ≤ bits v.toNat 11 0 → exec (.doorbell r q v) s = .next stale)) ∧
    (∀ v : Double, u.route = r → v.extractLsb' 48 16 = u.wepoch →
      exec (.doorbellFlush r q v) s = .next { s with chip := (s.chip.flush q).1 }) ∧
    (∀ v : Double, r ≠ .udp → u.route = r → bits v.toNat 11 0 < u.depth → u.owed = [] →
      exec (.completionHeadWrite r q v) s =
        .next { s with chip := s.chip.setQueue q { u with cHead := bits v.toNat 11 0 } }))

/-- Owl's own rows: the first item of the queue whose turn it is starts or is refused (R59), a notice goes to its session
(R72). -/
def Obligations.OwlStartsItemsInTurn : Prop :=
  ∀ s : State, s.Live →
    (∀ q, s.chip.turn ≠ some q → exec (.owlItemStart q) s = .next s) ∧
    (∀ (q : Nat) (i : Item) (rest : List Item), s.chip.turn = some q → (s.chip.queue q).items = i :: rest →
      let c : Chip := { s.chip.setQueue q { s.chip.queue q with items := rest } with lastStarted := q }
      let j := s.chip.judge q i
      (j.2.2 = none → exec (.owlItemStart q) s =
        .next { s with chip := (c.noteSec j.2.1).enter j.1 j.2.1 i.msg false }) ∧
      (∀ r, j.2.2 = some r → r.1 ≠ stBadLength → r.1 ≠ stCrcError → exec (.owlItemStart q) s =
        .next { s with chip := (c.noteSec j.2.1).answer j.2.1 j.1 i.msg (s.chip.sessionOf j.2.1) r.1 r.2 0 [] }) ∧
      (∀ r, j.2.2 = some r → (r.1 = stBadLength ∨ r.1 = stCrcError) → exec (.owlItemStart q) s =
        .next { s with chip := c.answer j.2.1 j.1 i.msg (s.chip.sessionOf j.2.1) r.1 r.2 0 [] })) ∧
    (∀ (nq q : Nat) (ses : Session) (e : NEntry), nq ≤ 16 →
      let n := s.chip.noticeQ nq
      n.receiver.bind s.chip.session = some ses → ses.noticeQueue = some q → s.chip.canDeliver q ses = true →
      n.entries.find? (fun e => e.sent.any (fun p => !n.deliveredNow.contains p.1)) = none →
      n.entries.find? (·.sent.isNone) = some e → exec (.noticeDeliver nq) s =
        .next { s with chip := (
          (s.chip.setNoticeQ nq
            { n with entries := modFirst (·.sent.isNone) (fun e => { e with sent := some (n.nextSeq, n.droppedSince) }) n.entries
                     nextSeq := n.nextSeq + 1, droppedSince := 0
                     deliveredNow := n.deliveredNow ++ [n.nextSeq] }).deliver q 3 n.nextSeq (some ses)
            (e.packet nq ses n.nextSeq n.droppedSince)) })

/-- ICP over UDP (R338 to R341): a well-formed segment for a queue that takes it is held with its packet, a malformed one is
dropped and counted (the count DEDUCED, log 23), a partial packet that waits too long is discarded with TORN_ITEM, and the
notices sent are sent again. -/
def Obligations.UdpRowsComplete : Prop :=
  ∀ s : State, s.Live →
    (∀ (port : Nat) (f : Frame) (sp sum : Half) (hdr : BitVec 128) (seg : List Byte),
      s.chip.TakesUdp port f sp icpPort sum (leBytes 16 hdr.toNat ++ seg) →
      let rx := s.chip.heardFrame port
      let q := bits hdr.toNat 95 80
      let peer : UdpPeer := { port := port, addr := f.src, uport := sp }
      (segmentOk hdr.toNat seg.length = false → exec (.udpSegment port f sp sum hdr seg) s =
        .next { s with chip := rx.onEth port (fun e => { e with malformed := satAdd e.malformed 1 }) }) ∧
      (segmentOk hdr.toNat seg.length = true → q < 256 → (s.chip.queue q).depthLog2 ≠ 0 →
        (s.chip.queue q).fenced = false → (s.chip.queue q).route = .udp →
        ((s.chip.queue q).peer = none ∨ (s.chip.queue q).peer = some peer) →
        hdr.extractLsb' 64 16 = (s.chip.queue q).wepoch → exec (.udpSegment port f sp sum hdr seg) s =
          .next { s with chip := (
            (rx.onEth port (fun e => { e with icp := satAdd e.icp 1 })).holdSegment q peer (hdr.extractLsb' 96 32)
              (bits hdr.toNat 63 56) (bits hdr.toNat 39 32) (bits hdr.toNat 55 48) (s.chip.queue q).wepoch seg) })) ∧
    (∀ (q : Nat) (msg : Word) (p : Partial), (s.chip.queue q).partials.find? (·.msg = msg) = some p →
      exec (.udpPartialTimeout q msg) s =
        .next { s with chip := (
          (s.chip.setQueue q { s.chip.queue q with partials := (s.chip.queue q).partials.filter (·.msg ≠ msg) }).torn q
            p.held.length ((p.held.find? (·.1 = 0)).map (fun h => tagAt h.2))) }) ∧
    (∀ (q : Nat) (msg : Word), (s.chip.queue q).partials.find? (·.msg = msg) = none →
      exec (.udpPartialTimeout q msg) s = .next s) ∧
    (∀ (q : Nat) (ses : Session), (s.chip.queue q).route = .udp →
      let n := s.chip.noticeQ (if q < 256 then q / 16 else 16)
      n.receiver.bind s.chip.session = some ses → ses.noticeQueue = some q → s.chip.canDeliver q ses = true →
      (∀ e ∈ n.entries, ∀ sd, e.sent = some sd → n.deliveredNow.contains sd.1 = true) →
      exec (.udpNoticeResend q) s =
        .next { s with chip := (n.entries.foldl (fun (c : Chip) e => match e.sent with
          | none => c
          | some sd => c.deliver q 3 sd.1 (some ses) (e.packet (if q < 256 then q / 16 else 16) ses sd.1 sd.2)) s.chip) })

/-- Loads and half stores (R76, R78, R79, R319 to R322): a 4-byte read of the lower half of a window register latches the
upper half, which a read of the upper half returns; a lower half write is staged for a W1C register or a doorbell, and an
upper half write carries the staged half with it. Elsewhere a load returns what stands there, and an access that no I/O
range admits is the core's access fault. The window lies at offset 0 of BAR0 and at 10_0000_0000h of the cores. -/
def Obligations.RegisterHalvesComplete : Prop :=
  ∀ (s : State) (p : Path) (a : Nat), s.Live →
    (∀ off, off < 0x10000 → off % 4 = 0 →
      (s.chip.pcie.d3hot = false → s.chip.locate .bar0 off 4 = .window (off / 8 * 8)) ∧
      (∀ k, k < 16 → s.chip.locate (.core k) (0x1000000000 + off) 4 = .window (off / 8 * 8))) ∧
    (∀ off, s.chip.locate p a 8 = .window off → exec (.registerLowerHalfRead p a 8) s =
      .next { s with chip := { s.chip with readData := s.chip.reg false off } }) ∧
    (∀ off, s.chip.locate p a 4 = .window off → a % 8 = 0 →
      exec (.registerLowerHalfRead p a 4) s =
        .next { s with chip := { s.chip.setLatch p off ((s.chip.reg false off).extractLsb' 32 32) with
                                 readData := ((s.chip.reg false off).extractLsb' 0 32).zeroExtend 64 } } ∧
      (∀ v : Word, stages off = true → exec (.registerLowerHalfWrite p a 4 v) s =
        .next { s with chip := s.chip.setStage p off (some v) }) ∧
      (∀ v : Word, stages off = false → exec (.registerLowerHalfWrite p a 4 v) s = .next s)) ∧
    (∀ off, s.chip.locate p a 4 = .window off → a % 8 = 4 →
      exec (.registerUpperHalfRead p a 4) s =
        .next { s with chip := { s.chip with readData := (s.chip.latch p off).zeroExtend 64 } } ∧
      (∀ v : Word, stages off = false → exec (.registerUpperHalfWrite p a 4 v) s = .next s) ∧
      (∀ v lo : Word, stages off = true → s.chip.stage p off = some lo → exec (.registerUpperHalfWrite p a 4 v) s =
        .next { s with chip := (s.chip.setStage p off none).regWrite (pathRoute p) off (BitVec.allOnes 64) (v ++ lo) }) ∧
      (∀ v : Word, stages off = true → s.chip.stage p off = none → exec (.registerUpperHalfWrite p a 4 v) s =
        .next { s with chip := s.chip.regWrite (pathRoute p) off 0xFFFFFFFF00000000 (v ++ (0 : Word)) })) ∧
    (∀ (n b : Nat), s.chip.locate p a n = .memory b → exec (.registerLowerHalfRead p a n) s =
      .next { s with chip := { s.chip with readData := BitVec.ofNat 64 (leNat (s.chip.hostRead b n)) } }) ∧
    (∀ (n : Nat) (l : Loc), s.chip.locate p a n = l → l ≠ .absent → (∀ off, l ≠ .window off) → (∀ b, l ≠ .memory b) →
      exec (.registerLowerHalfRead p a n) s = .next { s with chip := { s.chip with readData := partOf a n (s.chip.loadAt l) } }) ∧
    (∀ (n : Nat) (v : Word), s.chip.locate p a n = .absent →
      (∀ k, p = .core k → k < 16 →
        exec (.registerLowerHalfRead p a n) s = .next { s with chip := s.chip.accessFault k a false } ∧
        exec (.registerUpperHalfRead p a n) s = .next { s with chip := s.chip.accessFault k a false } ∧
        exec (.registerLowerHalfWrite p a n v) s = .next { s with chip := s.chip.accessFault k a true } ∧
        exec (.registerUpperHalfWrite p a n v) s = .next { s with chip := s.chip.accessFault k a true }) ∧
      (isCore p = false →
        exec (.registerLowerHalfRead p a n) s = .next s ∧ exec (.registerUpperHalfRead p a n) s = .next s ∧
        exec (.registerLowerHalfWrite p a n v) s = .next s ∧ exec (.registerUpperHalfWrite p a n v) s = .next s))

/-- Register writes (R76, R322, R326, R327, R342, R410): each register's block takes the bytes written, W1C bits clear where
1 is written, read-only places ignore the write. -/
def Obligations.RegisterWritesComplete : Prop :=
  ∀ (s : State) (p : Path) (a : Nat) (v : Double), s.Live →
    (∀ q, q ≤ 256 → s.chip.locate p a 8 = .window (0x4008 + 16 * q) → exec (.registerWrite p a 8 v) s =
      .next { s with chip := s.chip.setQueue q (
        { s.chip.queue q with stale := (s.chip.queue q).stale &&& ~~~(v.extractLsb' 32 32)
                              torn := (s.chip.queue q).torn &&& ~~~(v.extractLsb' 16 16)
                              flushes := (s.chip.queue q).flushes &&& ~~~(v.extractLsb' 0 16) }) }) ∧
    (∀ i, i < 16 → s.chip.locate p a 8 = .window (0x1010 + 256 * i) → exec (.registerWrite p a 8 v) s =
      .next { s with chip := s.chip.setNoticeQ i (
        { s.chip.noticeQ i with dropped := (s.chip.noticeQ i).dropped &&& ~~~(v.extractLsb' 0 16) }) }) ∧
    (s.chip.locate p a 8 = .window 0x5010 → exec (.registerWrite p a 8 v) s =
      .next { s with chip := s.chip.setNoticeQ 16 (
        { s.chip.noticeQ 16 with dropped := (s.chip.noticeQ 16).dropped &&& ~~~(v.extractLsb' 0 16) }) }) ∧
    (∀ q, q ≤ 256 → s.chip.locate p a 8 = .window (0x8000 + 8 * q) → exec (.registerWrite p a 8 v) s =
      .next { s with chip := s.chip.ringDoorbell (pathRoute p) q v }) ∧
    (∀ off, off % 8 = 0 → stages off = false → s.chip.locate p a 8 = .window off →
      exec (.registerWrite p a 8 v) s = .next s) ∧
    (∀ k, s.chip.locate p a 8 = .coreLocal k 0 → exec (.registerWrite p a 8 v) s =
      .next { s with chip := s.chip.setCore k (
        { s.chip.core k with enable := v.extractLsb' 32 16
                             pending := (s.chip.core k).pending &&& ~~~(v.extractLsb' 0 16) } : Core).meet }) ∧
    (∀ k off, off ≠ 0 → s.chip.locate p a 8 = .coreLocal k off → exec (.registerWrite p a 8 v) s = .next s) ∧
    (∀ k, k < 32 → s.chip.locate p a 8 = .feed k 8 → (s.chip.feed k).en = false → exec (.registerWrite p a 8 v) s =
      .next { s with chip := s.chip.setFeed k { s.chip.feed k with base := v } }) ∧
    (∀ k, k < 32 → s.chip.locate p a 8 = .feed k 24 → exec (.registerWrite p a 8 v) s =
      .next { s with chip := (s.chip.setFeed k
        { s.chip.feed k with dropped := (s.chip.feed k).dropped &&& ~~~(v.extractLsb' 0 32) }) }) ∧
    (∀ e, e < 257 → s.chip.locate p a 8 = .msix e 0 → exec (.registerWrite p a 8 v) s =
      .next { s with chip := s.chip.setMsix e { s.chip.msixEntry e with addr := v } }) ∧
    (∀ e, e < 257 → s.chip.locate p a 8 = .msix e 8 → exec (.registerWrite p a 8 v) s =
      .next { s with chip := s.chip.setMsix e (
        { s.chip.msixEntry e with data := v.extractLsb' 0 32, masked := v.getLsbD 32 }) }) ∧
    (s.chip.locate p a 8 = .config 0xB0 → exec (.registerWrite p a 8 v) s =
      .next { s with chip := { s.chip with pcie := { s.chip.pcie with msixEnable := v.getLsbD 31, functionMask := v.getLsbD 30 } } }) ∧
    (∀ (n : Nat) (r : Route) (q : Nat), s.chip.locate p a n = .head r q → upper a n = false →
      exec (.registerWrite p a n v) s = .next { s with chip := s.chip.writeHead r q (bits v.toNat 11 0) }) ∧
    (∀ (n q pos off : Nat), s.chip.locate p a n = .slot q pos off → exec (.registerWrite p a n v) s =
      .next { s with chip := s.chip.slotStore q pos (off + a % 8) n v.toNat }) ∧
    (∀ (n b : Nat), s.chip.locate p a n = .memory b → exec (.registerWrite p a n v) s =
      .next { s with chip := s.chip.hostStore b n v.toNat }) ∧
    (∀ n : Nat, (s.chip.locate p a n = .nothing ∨ ∃ b, s.chip.locate p a n = .pba b) →
      exec (.registerWrite p a n v) s = .next s) ∧
    (∀ n : Nat, s.chip.locate p a n = .absent →
      (∀ k, p = .core k → k < 16 → exec (.registerWrite p a n v) s = .next { s with chip := s.chip.accessFault k a true }) ∧
      (isCore p = false → exec (.registerWrite p a n v) s = .next s)) ∧
    (∀ e, e < 257 → (s.chip.msixEntry e).pba = true → s.chip.msixOpen e = true → exec (.msixPendingSend e) s =
      .next { s with chip := (
        (s.chip.setMsix e { s.chip.msixEntry e with pba := false }).emit
          (.msix e (s.chip.msixEntry e).addr (s.chip.msixEntry e).data)) }) ∧
    (∀ e, ((s.chip.msixEntry e).pba = false ∨ s.chip.msixOpen e = false) → exec (.msixPendingSend e) s = .next s)

/-- Feed streams (R336, R337, R342): enabling, disabling, the tail, a datagram that lands, one dropped on a full ring, one
that matches no stream, the interrupt timer. -/
def Obligations.FeedStreamsComplete : Prop :=
  ∀ (s : State), s.Live →
    (∀ (k : Nat) (v : Double), k < 32 →
      let f := s.chip.feed k
      let g : Feed := { f with vector := v.extractLsb' 48 8, udpPort := v.extractLsb' 32 16
                               log2Slots := if f.en then f.log2Slots else v.extractLsb' 16 5
                               coalesce := v.extractLsb' 0 16 }
      (s.chip.feedMay k g = true → exec (.feedStreamEnable k v) s =
        .next { s with chip := s.chip.setFeed k { g with en := true } }) ∧
      exec (.feedStreamDisable k v) s =
        .next { s with chip := s.chip.setFeed k { g with en := false, head := 0, tail := 0 } }) ∧
    (∀ (k : Nat) (t : Word), k < 32 → exec (.feedTailWrite k t) s =
      .next { s with chip := s.chip.setFeed k { s.chip.feed k with tail := t } }) ∧
    (∀ (port : Nat) (fr : Frame) (sp up sum : Half) (data : List Byte), s.chip.TakesUdp port fr sp up sum data →
      let c := s.chip.heardFrame port
      let hit := (List.range 32).find? (fun k => k / 16 = port && (s.chip.feed k).en && (s.chip.feed k).udpPort = up)
      (hit = none → exec (.feedDatagram port fr sp up sum data) s = .next { s with chip := c.noMatch port }) ∧
      (∀ k, hit = some k →
        let f := s.chip.feed k
        let n := 2 ^ f.log2Slots.toNat
        ((f.head.toNat + 1) % n = f.tail.toNat → exec (.feedDatagram port fr sp up sum data) s =
          .next { s with chip := c.setFeed k { f with dropped := satAdd f.dropped 1 } }) ∧
        ((f.head.toNat + 1) % n ≠ f.tail.toNat →
          let landed := (c.hostWrite (f.base.toNat + 16384 * f.head.toNat) (feedHeader fr.src s.chip.sc sp data.length ++ data)).setFeed k
            { f with head := BitVec.ofNat 32 ((f.head.toNat + 1) % n), received := f.received + 1
                     unsignalled := if f.coalesce.toNat ≤ f.unsignalled + 1 then 0 else f.unsignalled + 1 }
          exec (.feedDatagram port fr sp up sum data) s =
            .next { s with chip := (
              if f.coalesce.toNat ≤ f.unsignalled + 1 then landed.raiseVector f.vector.toNat else landed) }))) ∧
    (∀ k : Nat, (s.chip.feed k).unsignalled ≠ 0 → exec (.feedInterruptTimer k) s =
      .next { s with chip := (s.chip.setFeed k { s.chip.feed k with unsignalled := 0 }).raiseVector (s.chip.feed k).vector.toNat }) ∧
    (∀ k : Nat, (s.chip.feed k).unsignalled = 0 → exec (.feedInterruptTimer k) s = .next s)

/-- NOP, FENCE (R41, R64), IDENTIFY, READ_REG, WRITE_REG (R410) and COUNTERS_READ (R379) of a command that runs now: what
each replies and changes, and every refusal of its own. A FENCE replies once every earlier command of its instance has
replied, and waits until then with no effect. The order among several refusals is the model's (log 98). -/
def Obligations.PlainCommandsComplete : Prop :=
  ∀ (s : State) (p : Icp),
    (s.Takes 0x00 p → exec (.nop p) s = .next (s.oked 0x00 p id 0 [])) ∧
    (s.Takes 0x36 p →
      let earlier := (s.chip.begun 0x36 p).started.takeWhile (fun st => !(st.op = 0x36 && st.cmd = p))
      ((∀ st ∈ earlier, st.cmd.who = p.who → st.pending = true) → exec (.fence p) s = .next (s.oked 0x36 p id 0 [])) ∧
      (∀ st ∈ earlier, st.cmd.who = p.who → st.pending = false → exec (.fence p) s = .next (s.waiting 0x36 p))) ∧
    (s.Takes 0x03 p → exec (.identify p) s =
      .next (s.oked 0x03 p id 0 ((s.chip.begun 0x03 p).regs (p.queue < 256) 0 32))) ∧
    (s.Takes 0x04 p →
      let off := p.par 0 4
      let n := p.par 4 4
      let may := 256 ≤ p.queue ∨ ∀ k < n, tenantMay (p.queue / 16) (off + 8 * k) = true
      (off % 8 ≠ 0 → exec (.readReg p) s = .next (s.refusedWith 0x04 p stBadParam 0)) ∧
      (off % 8 = 0 → (n = 0 ∨ 512 < n ∨ 0x10000 < off + 8 * n) →
        exec (.readReg p) s = .next (s.refusedWith 0x04 p stBadParam 4)) ∧
      (off % 8 = 0 → 0 < n → n ≤ 512 → off + 8 * n ≤ 0x10000 → ¬ may →
        exec (.readReg p) s = .next (s.refusedWith 0x04 p stNotPermitted 0)) ∧
      (off % 8 = 0 → 0 < n → n ≤ 512 → off + 8 * n ≤ 0x10000 → may →
        exec (.readReg p) s = .next (s.oked 0x04 p id 0 ((s.chip.begun 0x04 p).regs (p.queue < 256) off n)))) ∧
    (s.Takes 0x05 p →
      let c := s.chip.begun 0x05 p
      let off := p.par 0 4
      ((off % 8 ≠ 0 ∨ 0x10000 ≤ off) → exec (.writeReg p) s = .next (s.refusedWith 0x05 p stBadParam 0)) ∧
      (off < 0x10000 → off % 8 = 0 → p.queue < 256 → tenantMay (p.queue / 16) off = false →
        exec (.writeReg p) s = .next (s.refusedWith 0x05 p stNotPermitted 0)) ∧
      (off < 0x10000 → off % 8 = 0 → (256 ≤ p.queue ∨ tenantMay (p.queue / 16) off = true) →
        exec (.writeReg p) s = .next (s.oked 0x05 p
          (fun c => c.regWrite (c.queue p.queue).route off (BitVec.ofNat 64 (p.par 8 8)) (BitVec.ofNat 64 (p.par 16 8)))
          (c.reg (p.queue < 256) off).toNat []))) ∧
    (s.Takes 0x80 p →
      let c := s.chip.begun 0x80 p
      let n := p.par 2 2
      let value := fun k => c.counterValue (if p.queue < 256 then some (p.queue / 16) else none) (p.par 0 2 + k)
      ((n = 0 ∨ 512 < n) → exec (.countersRead p) s = .next (s.refusedWith 0x80 p stBadParam 2)) ∧
      (∀ k < n, n ≤ 512 → value k = none → exec (.countersRead p) s = .next (s.refusedWith 0x80 p stNotPermitted 0)) ∧
      (0 < n → n ≤ 512 → (∀ k < n, (value k).isSome = true) → exec (.countersRead p) s =
        .next (s.oked 0x80 p id 0 ((List.range n).flatMap (fun k => leBytes 8 ((value k).getD 0).toNat)))))

/-- OPEN_SESSION (R52, R53, R72), CLOSE_SESSION (R54), KEY_AGREE (R361, R362) and ATTEST (R364). The identifier and the random
numbers are free values (log 1). -/
def Obligations.SessionCommandsComplete : Prop :=
  ∀ (s : State) (p : Icp),
    (s.Takes 0x01 p → chooseVersion p = none → exec (.openSession p) s = .next (s.refusedWith 0x01 p stNoVersion 0)) ∧
    (∀ v, s.Takes 0x01 p → chooseVersion p = some v →
      let c := s.chip.begun 0x01 p
      let qs := sessionQueues p
      (c.queue p.queue).session = none → (∀ q ∈ qs, (c.queue q).session = none) → qs ≠ [] →
      (∀ q ∈ qs, (c.queue q).depthLog2 ≠ 0) →
      let n := c.nextSession
      let nq := if p.queue = 256 then 16 else p.queue / 16
      let ident := BitVec.ofNat 32 (Config.freeNat c.freeCount)
      let ses : Session := { inst := nq, version := v, ident := ident, secRequired := bitOf (p.bits 1 1) 0, key := none, queues := qs }
      exec (.openSession p) s = .next (s.oked 0x01 p (fun c =>
        let d : Chip := { c with freeCount := c.freeCount + 1, sessions := tput c.sessions n ses, nextSession := n + 1 }
        let d := qs.foldl (fun d q => d.joinQueue n (c.queue p.queue).peer q) d
        if bitOf (p.bits 0 0) 0 then d.onNoticeQ nq (fun q => { q with receiver := some n, deliveredNow := [] }) else d)
        (ident.toNat * 2 ^ 32 + v.toNat) [])) ∧
    (s.Takes 0x02 p → ∀ n, ((s.chip.begun 0x02 p).queue p.queue).session = some n → exec (.closeSession p) s =
      .next (s.went 0x02 p (fun c => (c.reply p.queue p.tag stOK 0 0 []).endSession n))) ∧
    (s.Takes 0x06 p → ∀ n ses, ((s.chip.begun 0x06 p).queue p.queue).session = some n →
      (s.chip.begun 0x06 p).session n = some ses →
      let hx := beNat (cut p.params 0 48)
      let hy := beNat (cut p.params 48 48)
      (onCurve hx hy = false → exec (.keyAgree p) s = .next (s.refusedWith 0x06 p stBadParam 0)) ∧
      (onCurve hx hy = true →
        let k := ecScalar (Config.freeNat s.chip.freeCount)
        let m := ecPublic k
        let salt := cut p.params 0 96 ++ beBytes 48 m.1 ++ beBytes 48 m.2
        let digest := sha384 (salt ++ leBytes 4 ses.ident.toNat ++ leBytes 8 Config.serial.toNat)
        let key := sessionKey (ecMul k hx hy).1 salt ses.ident
        exec (.keyAgree p) s = .next (s.went 0x06 p (fun c =>
          let d : Chip := { c with freeCount := c.freeCount + 2 }
          let d := d.reply p.queue p.tag stOK 0 0
            (beBytes 48 m.1 ++ beBytes 48 m.2 ++ identitySign (Config.freeNat (s.chip.freeCount + 1)) digest)
          let d : Chip := { d with sessions := tput d.sessions n { ses with key := some key } }
          ses.queues.foldl (fun (d : Chip) q => d.onQueue q (fun u => { u with secTag := none })) d)))) ∧
    (s.Takes 0x07 p →
      (p.who = 255 ∨ ((s.chip.inst p.who).live = true ∧ (s.chip.inst p.who).resetting = none)) →
      let c := s.chip.begun 0x07 p
      let r := c.report p.who (if p.queue < 256 then c.instTime p.who else c.sc) (cut p.params 0 48)
      exec (.attest p) s = .next (s.oked 0x07 p (fun c => { c with freeCount := c.freeCount + 1 }) 0
        (r ++ identitySign (Config.freeNat s.chip.freeCount) (sha384 r))))

/-- QUEUE_CREATE, QUEUE_DELETE, QUEUE_FLUSH (R60, R66, R323) and NOTICE_ACK (R72). -/
def Obligations.QueueCommandsComplete : Prop :=
  ∀ (s : State) (p : Icp),
    let q := p.par 0 2
    (s.Takes 0x10 p →
      let c := s.chip.begun 0x10 p
      let old := c.queue q
      c.queueCheck p q = none →
      queueFault (p.par 4 1) (p.par 2 2) (p.par 8 8) (p.par 16 8) (p.par 24 4) = none →
      (old.depthLog2 ≠ 0 → exec (.queueCreate p) s = .next (s.refusedWith 0x10 p stBadState (c.phaseDetail p))) ∧
      (old.depthLog2 = 0 → exec (.queueCreate p) s = .next (s.oked 0x10 p (fun c => c.setQueue q { Queue.initial q with
        depthLog2 := log2 (p.par 2 2), route := routeOf (p.par 4 1), wepoch := old.wepoch + 1, ring := p.par 8 8,
        cring := p.par 16 8, vector := p.par 24 4, stale := old.stale, torn := old.torn, flushes := old.flushes }) 0 []))) ∧
    (s.Takes 0x11 p →
      let c := s.chip.begun 0x11 p
      let old := c.queue q
      c.queueCheck p q = none → old.depthLog2 ≠ 0 →
      ((q % 16 = 0 ∨ old.session.isSome = true ∨ c.queueBusy q = true) →
        exec (.queueDelete p) s = .next (s.refusedWith 0x11 p stBadState (c.phaseDetail p))) ∧
      (q % 16 ≠ 0 → old.session = none → c.queueBusy q = false → exec (.queueDelete p) s =
        .next (s.oked 0x11 p (fun c => c.setQueue q { Queue.initial q with
          wepoch := old.wepoch, stale := old.stale, torn := old.torn, flushes := old.flushes }) 0 []))) ∧
    (s.Takes 0x12 p →
      let c := s.chip.begun 0x12 p
      c.queueCheck p q = none → (c.queue q).depthLog2 ≠ 0 → q ≠ p.queue →
      exec (.queueFlush p) s = .next (s.oked 0x12 p (fun c => (c.flush q).1)
        (((c.flush q).1.queue q).wepoch.toNat * 2 ^ 32 + (c.flush q).2) [])) ∧
    (s.Takes 0x13 p →
      let nq := if p.queue < 256 then p.queue / 16 else 16
      let n := (s.chip.begun 0x13 p).noticeQ nq
      let kept := n.entries.filter (fun e => !e.covered (BitVec.ofNat 32 (p.par 0 4)))
      exec (.noticeAck p) s = .next (s.oked 0x13 p (fun c => c.setNoticeQ nq { n with entries := kept })
        (n.entries.length - kept.length) []))

/-- INSTANCE_CREATE with and without MODIFY (R348 to R350), INSTANCE_RESET and INSTANCE_DESTROY with the end of their drain
(R80, R351, R369), QUOTA_SET (R149, R161, R164), GUARANTEE_SET (R171, R172). -/
def Obligations.InstanceCommandsComplete : Prop :=
  ∀ (s : State) (p : Icp),
    let i := p.who
    let b := leNat p.params
    let x := s.chip.inst i
    (s.Takes 0x20 p → p.who ≠ 255 → p.bits 0 0 = 0 →
      (x.live = true → exec (.instanceCreate p) s =
        .next (s.refusedWith 0x20 p stBadState ((s.chip.begun 0x20 p).phaseDetail p))) ∧
      (x.live = false → zeroWeight (blockWeights b) = none → bits b 163 64 ≠ 0 → bits b 255 192 ≠ 0 →
        (∀ k < 16, k ≠ i → (s.chip.inst k).live = true →
          bits b 163 64 &&& (s.chip.inst k).blocks.toNat = 0 ∧ bits b 255 192 &&& (s.chip.inst k).pcGroups.toNat = 0) →
        blockQueueFault b = none → s.chip.blockRetired b = none →
        exec (.instanceCreate p) s = .next (s.oked 0x20 p (fun c =>
          (c.setInst i { x with
            live := true, blocks := BitVec.ofNat 100 (bits b 163 64), pcGroups := BitVec.ofNat 64 (bits b 255 192)
            weights := blockWeights b, quotaMod := 0, quotaExp := 0, guar := [0, 0, 0] }).makeQueue (16 * i)
              (bits b 351 344) (bits b 367 352) (bits b 447 384) (bits b 511 448) (bits b 383 368)) 0 []))) ∧
    (s.Takes 0x20 p → p.who ≠ 255 → p.bits 0 0 = 1 → x.live = true → zeroWeight (blockWeights b) = none →
      (∀ k < 64, k ≠ 0 → (k < 37 ∨ 39 < k) → p.params.getD k 0 = 0) →
      exec (.instanceModify p) s = .next (s.oked 0x20 p (fun c => c.setInst i { x with weights := blockWeights b }) 0 [])) ∧
    (s.Takes 0x21 p → p.who ≠ 255 → x.live = true → x.resetting = none → x.resets ≠ 0xFFFF →
      exec (.instanceReset p) s = .next (s.went 0x21 p (fun c => c.resetStart i p false))) ∧
    (s.Takes 0x22 p → p.who ≠ 255 → x.live = true → x.resetting = none → x.resets ≠ 0xFFFF →
      exec (.instanceDestroy p) s = .next (s.went 0x22 p (fun c => c.resetStart i p true))) ∧
    (∀ k, s.Live → (s.chip.inst k).resetting = none → exec (.instanceResetDrainEnd k) s = .next s) ∧
    (∀ k r, s.Live → (s.chip.inst k).resetting = some r → exec (.instanceResetDrainEnd k) s =
      .next { s with chip := s.chip.resetEnd k r }) ∧
    (s.Takes 0x23 p → p.who ≠ 255 → x.live = true → (p.par 0 1 = 1 ∨ p.par 0 1 = 2) →
      let t := p.par 0 1
      let n := p.par 8 8 / extentBytes
      let others := (((List.range 16).filter (· ≠ i)).map (fun k => s.chip.quota k t)).sum
      (s.chip.pool t < others + n → exec (.quotaSet p) s = .next (s.refusedWith 0x23 p stNoSpace t)) ∧
      (others + n ≤ s.chip.pool t → exec (.quotaSet p) s = .next (s.oked 0x23 p (fun c =>
        let d := (c.setInst i (if t = 1 then { x with quotaMod := n * extentBytes }
          else { x with quotaExp := n * extentBytes })).quotaSettle i
        if n < d.use i t && !(d.inst i).evicting.contains t then
          d.onInst i (fun y => { y with evicting := y.evicting ++ [t] }) else d) 0 []))) ∧
    (s.Takes 0x24 p → p.who ≠ 255 → x.live = true → p.par 0 1 ≤ 2 →
      let t := p.par 0 1
      let v := p.par 8 8
      let d := s.chip.derated i t
      let others := s.chip.otherGuar i t
      (x.guarOf t < v → 85 * d.1 < (others + v) * 100 * d.2 → exec (.guaranteeSet p) s =
        .next (s.refusedWith 0x24 p stGuaranteeRefused ((85 * d.1 - others * 100 * d.2) / (100 * d.2)))) ∧
      ((v ≤ x.guarOf t ∨ (others + v) * 100 * d.2 ≤ 85 * d.1) → exec (.guaranteeSet p) s =
        .next (s.oked 0x24 p (fun c => (c.setInst i { x with guar := lput x.guar t v }).rescale) v [])))

/-- ALLOC, FREE, WRITE, READ, MIGRATE, PIN with both values (R152 to R168, R177, R412) of a command that runs now: the
object made, freed, written, read, moved or pinned, and the reply. -/
def Obligations.MemoryCommandsComplete : Prop :=
  ∀ (s : State) (p : Icp),
    let c := s.chip
    let i := p.who
    let a := p.par 0 8
    let n := p.par 8 4
    (s.Takes 0x30 p → allocField p = none → p.bits 23 20 ≠ 4 →
      ∀ addr, c.freeAddr i (divUp (p.par 8 8) extentBytes) = some addr →
      let r := ((c.begun 0x30 p).wakeHub 3).obtain i (copiesOf (p.bits 23 20)) (divUp (p.par 8 8) extentBytes)
        (allocTiers p).1 (allocTiers p).2
      (∀ ps rots, r.2 = .inl (ps, rots) → exec (.alloc p) s = .next (s.oked 0x30 p (fun _ =>
        (r.1.onInst i (fun x =>
          { x with objs := x.objs ++ [r.1.newObj addr (p.par 8 8) (p.bits 23 20) 0 (p.bits 0 0 = 1) ps], rot := rots })).drew)
        addr [])) ∧
      (∀ st t, r.2 = .inr (st, t) → exec (.alloc p) s = .next (s.replied 0x30 p (fun _ => r.1) st t 0 []))) ∧
    (s.Takes 0x30 p → allocField p = none → p.bits 23 20 = 4 →
      ∀ addr ps rot, c.freeAddr i (divUp (p.par 8 8) extentBytes) = some addr →
      c.stashUsed + p.par 8 8 ≤ 32000000000 → c.placeIn i 0 1 (p.par 16 8 / extentBytes) = some (ps, rot) →
      exec (.alloc p) s = .next (s.oked 0x30 p (fun c =>
        let d := c.wakeHub 3
        ((d.setRot i 0 rot).onInst i (fun x =>
          { x with objs := x.objs ++ [d.newObj addr (p.par 8 8) 4 (p.par 16 8) true ps] })).drew) addr [])) ∧
    (∀ o, s.Takes 0x31 p → c.objStart i a = some o → o.table = none →
      (o.moving = false → (o.cls = 0 ∨ o.cls = 4 ∨ c.jobRuns i = false) →
        exec (.free p) s = .next (s.oked 0x31 p (fun c => (c.wakeHub 3).unmap i o) 0 [])) ∧
      ((o.moving = true ∨ ((o.cls = 1 ∨ o.cls = 2 ∨ o.cls = 3) ∧ c.jobRuns i = true)) →
        exec (.free p) s = .next (s.refusedWith 0x31 p stBadState ((s.chip.begun 0x31 p).phaseDetail p)))) ∧
    (∀ o, s.Takes 0x32 p → 0 < n → p.par 12 4 = 0 → n ≤ 4096 → c.check i a n = .ok o →
      (o.dense = true → c.jobRuns i = true →
        exec (.write p) s = .next (s.refusedWith 0x32 p stWriteProtected 0)) ∧
      (o.dense = false ∨ c.jobRuns i = false → ∀ o', c.objAt i a = some o' → c.cmdHeld i o' a n true = false →
        exec (.write p) s = .next (s.oked 0x32 p (fun c => c.landModel i a (cut p.params 16 n)) 0 [])) ∧
      (o.dense = false ∨ c.jobRuns i = false → ∀ o', c.objAt i a = some o' → c.cmdHeld i o' a n true = true →
        exec (.write p) s = .next (s.waiting 0x32 p))) ∧
    (∀ o o', s.Takes 0x32 p → 0 < n → (p.par 12 4 = 1 ∧ p.par 16 8 + n ≤ hostTop ∨ p.par 12 4 = 2) → c.check i a n = .ok o →
      c.objAt i a = some o' → (o.dense = false ∨ c.jobRuns i = false) →
      exec (.write p) s = .next (s.went 0x32 p (fun c =>
        { c with moves := c.moves ++ [{ cmd := c.refOf p, flushing := false }] }))) ∧
    (∀ o o', s.Takes 0x33 p → 0 < n → c.check i a n = .ok o → c.objAt i a = some o' →
      (p.par 12 4 = 0 → n ≤ 4096 → c.cmdHeld i o' a n false = false →
        exec (.read p) s = .next (s.oked 0x33 p (fun c => c.readMarks i o' a n) 0
          (c.frontRead i o' a n ++ List.replicate (roundUp n 4 - n) 0))) ∧
      (p.par 12 4 = 0 → n ≤ 4096 → c.cmdHeld i o' a n false = true → exec (.read p) s = .next (s.waiting 0x33 p)) ∧
      ((p.par 12 4 = 1 ∧ p.par 16 8 + n ≤ hostTop ∨ p.par 12 4 = 2) →
        exec (.read p) s = .next (s.went 0x33 p (fun c =>
          { c with moves := c.moves ++ [{ cmd := c.refOf p, flushing := false }] })))) ∧
    (∀ off, s.Takes 0x33 p → 0 < n → p.par 12 4 = 0 → n ≤ 4096 → c.check i a n = .fault off →
      exec (.read p) s = .next (s.refusedWith 0x33 p stAddrFault off)) ∧
    (∀ o, s.Takes 0x34 p → a % extentBytes = 0 → p.par 8 8 ≠ 0 → p.par 8 8 % extentBytes = 0 → p.par 16 1 ≤ 2 →
      c.inExtents i a (p.par 8 8) = .inl o → o.cls ≠ 4 → (o.table = none ∨ p.par 16 1 < 2) → o.moving = false →
      let ks := (List.range (p.par 8 8 / extentBytes)).map ((a - o.addr) / extentBytes + ·)
      exec (.migrate p) s = .next (s.went 0x34 p (fun c =>
        ((c.onObj i o.addr (fun o =>
          { o with migration := some { target := p.par 16 1, todo := ks, cmd := some (c.refOf p) } })).reply
          p.queue p.tag stPending 0 0 []).nextMove i o.addr ks))) ∧
    (∀ o, s.Takes 0x35 p → c.inExtents i a (p.par 8 8) = .inl o →
      let pins := fun (v : Bool) (c : Chip) => if o.cls = 4 then c else
        c.onObj i o.addr (fun o => { o with extents := o.extents.mapIdx (fun k e =>
          if meets a (p.par 8 8) (o.addr + k * extentBytes) extentBytes then { e with pinned := v } else e) })
      (p.par 16 1 = 1 → exec (.pin p) s = .next (s.oked 0x35 p (pins true) 0 [])) ∧
      (p.par 16 1 = 0 → exec (.unpin p) s = .next (s.oked 0x35 p (pins false) 0 [])))

/-- What the rows of Owl's data mover do (R154, R328, R330, R409): the last byte of a WRITE or READ that moves between model
space and the lower host region or PCIe, one whose object a FREE has unmapped meanwhile, the flushing read behind a READ to
PCIe, a PCIe request that fails. -/
def Obligations.MoverRowsComplete : Prop :=
  ∀ (s : State) (q : Nat) (tag : Word) (data : List Byte) (m : Move) (st : Started),
    let c := s.chip
    let r := m.cmd
    let p := st.cmd
    let i := p.who
    let a := p.par 0 8
    let n := p.par 8 4
    s.Live → c.moved r = some st →
    ((c.moves.take 8).find? (fun m => m.cmd.is q tag) = some m → m.flushing = false →
      (p.par 12 4 = 1 ∨ (p.par 12 4 = 2 ∧ c.pcie.linkUp = true)) →
      (∀ bs, c.freedFor i r = some bs →
        (st.op = 0x32 → exec (.dataMoveComplete q tag data) s = .next { s with chip := c.endMove r stOK 0 }) ∧
        (st.op = 0x33 → exec (.dataMoveComplete q tag data) s = .next { s with chip := c.readLands r p bs })) ∧
      (c.freedFor i r = none →
        (∀ k, c.check i a n = .fault k → (st.op = 0x32 ∨ st.op = 0x33) →
          exec (.dataMoveComplete q tag data) s = .next { s with chip := c.endMove r stAddrFault k }) ∧
        (∀ o, c.check i a n = .ok o →
          (st.op = 0x32 → (o.dense = false ∨ c.jobRuns i = false) → c.cmdHeld i o a n true = false →
            (p.par 12 4 = 1 → exec (.dataMoveComplete q tag data) s =
              .next { s with chip := (c.landModel i a (c.hostRead (p.par 16 8) n)).endMove r stOK 0 }) ∧
            (p.par 12 4 = 2 → data.length = n → exec (.dataMoveComplete q tag data) s =
              .next { s with chip := (c.landModel i a data).endMove r stOK 0 })) ∧
          (st.op = 0x33 → c.cmdHeld i o a n false = false →
            let d := c.readMarks i o a n
            (p.par 12 4 = 1 → exec (.dataMoveComplete q tag data) s =
              .next { s with chip := (d.hostWrite (p.par 16 8) (c.frontRead i o a n)).endMove r stOK 0 }) ∧
            (p.par 12 4 = 2 → exec (.dataMoveComplete q tag data) s = .next { s with chip :=
              let e := (d.emit (.pcieWrite (p.par 16 8) (c.frontRead i o a n))).emit (.flushingRead (p.par 16 8 + n - 4));
              { e with moves := modFirst (fun m => decide (m.cmd = r)) (fun m => { m with flushing := true }) e.moves } }))))) ∧
    (c.pcie.linkUp = true → c.moves.find? (fun m => m.cmd.is q tag && m.flushing) = some m →
      exec (.flushingReadComplete q tag) s = .next { s with chip := c.endMove r stOK 0 }) ∧
    (c.moves.find? (fun m => m.cmd.is q tag) = some m → p.par 12 4 = 2 → st.op ≠ 0x42 →
      exec (.pcieRequestFailure q tag) s = .next { s with chip :=
        (Chip.endMove { c with pcie := { c.pcie with aer := c.pcie.aer ++ [r] } } r stHostFault 16) })

/-- TABLE_CREATE with and without MODIFY, TABLE_DESTROY, TABLE_LOAD, HOT_SET (R25, R184 to R191, R207, R208) of a command
that runs now. -/
def Obligations.TableCommandsComplete : Prop :=
  ∀ (s : State) (p : Icp),
    let c := s.chip
    let i := p.who
    let b := BitVec.ofNat 512 (leNat p.params)
    let num := tf b 15 0
    let es := c.group (tGroup b)
    let held := heldRows b (max 1 es.members.length) (c.selfOf (tGroup b))
    (s.Takes 0x40 p → p.bits 18 18 = 0 → tableParamFault b = none → c.tableOf i num = none → es.owner = some i →
      (c.selfIn es.members).isSome = true →
      ((s.chip.begun 0x40 p).placeShare i b held = none →
        exec (.tableCreate p) s = .next (s.refusedWith 0x40 p stBadParam 32)) ∧
      (∀ d st t, (s.chip.begun 0x40 p).placeShare i b held = some (d, .inr (st, t)) →
        exec (.tableCreate p) s = .next (s.replied 0x40 p (fun _ => d) st t 0 [])) ∧
      (∀ d ps rots, (s.chip.begun 0x40 p).placeShare i b held = some (d, .inl (ps, rots)) →
        exec (.tableCreate p) s = .next (s.oked 0x40 p (fun _ =>
          let o : Obj :=
            { addr := windowBase + num * 2 ^ 37, length := slotExtents b held * extentBytes, cls := 0, table := some num, stage := 0
              serial := d.freeCount, extents := ps.map (Extent.new false), migration := none, shardsDone := []
              landed := [], due := [], serveDue := false, panels := [] }
          let t : Table := { num := num, block := b, digest := tableDigest b, inForce := b, engs := [] }
          (d.onInst i (fun x => { x with objs := x.objs ++ [o], tables := x.tables ++ [t], rot := rots })).drew) 0 []))) ∧
    (∀ t, s.Takes 0x40 p → p.bits 18 18 = 1 → c.tableOf i num = some t →
      (∀ k < 52, (b.toNat % 2 ^ 416 - 2 ^ 18 * tf b 18 18) / 256 ^ k % 256 = t.block.toNat % 2 ^ 416 / 256 ^ k % 256) →
      exec (.tableModify p) s = .next (s.oked 0x40 p (fun c =>
        c.onTable i t.num (fun t => { t with block := BitVec.ofNat 512 (b.toNat - 2 ^ 18 * tf b 18 18) })) 0 [])) ∧
    (∀ t o, s.Takes 0x41 p → c.tableOf i (p.par 0 2) = some t → c.shareOf i (p.par 0 2) = some o →
      let keep := fun (h : HotSet) =>
        ({ h with active := h.active.filter (fun r => r.table ≠ p.par 0 2)
                  inactive := h.inactive.filter (fun r => r.table ≠ p.par 0 2)
                  rows := h.rows.filter (fun r => r.1 ≠ p.par 0 2) } : HotSet)
      (c.jobRuns i = true → exec (.tableDestroy p) s =
        .next (s.refusedWith 0x41 p stBadState ((s.chip.begun 0x41 p).phaseDetail p))) ∧
      (c.jobRuns i = false → exec (.tableDestroy p) s = .next (s.oked 0x41 p (fun c => (c.unmap i o).onInst i (fun x =>
        { x with tables := x.tables.filter (fun t => t.num ≠ p.par 0 2), hot := x.hot.map keep })) 0 []))) ∧
    (∀ t, s.Takes 0x42 p → c.tableOf i (p.par 0 2) = some t → c.jobRuns i = false → p.par 16 8 ≠ 0 →
      p.par 8 8 + p.par 16 8 ≤ tRows t.block → p.par 24 1 / 16 ≤ 1 →
      let n := p.par 16 8 * tDim t.block * (if p.par 24 1 / 16 = 0 then 4 else 2)
      (p.par 24 1 % 16 = 1 ∨ (p.par 24 1 % 16 = 0 ∧ p.par 32 8 + n ≤ hostTop) ∨
        (p.par 24 1 % 16 = 2 ∧ ∃ o, c.check i (p.par 32 8) n = .ok o)) →
      exec (.tableLoad p) s =
        .next (s.went 0x42 p (fun c => { c with moves := c.moves ++ [{ cmd := c.refOf p, flushing := false }] }))) ∧
    (let g := p.bits 9 0
     let f := p.bits 63 16
     let n := p.bits 148 128
     let a := p.bits 127 64
     s.Takes 0x43 p → (c.group g).owner = some i → n ≤ 1048576 →
      ((c.job i).epoch + 1 < f ∨ ((c.job i).epoch < f ∧ (c.job i).close ≠ .closed)) →
      ((c.inst i).hot.any (fun h => h.group = g) = true ∨ (c.inst i).hot.length < 4) →
      ((c.inst i).hot.find? (fun h => h.group = g)).bind (·.next) = none →
      (n = 0 → exec (.hotSet p) s = .next (s.pended 0x43 p (fun c => c.onInst i (fun x =>
        { x with hot := withNext x.hot g [] f (c.refOf p) })))) ∧
      (∀ o rows, 0 < n → c.check i a (8 * n) = .ok o → c.cmdHeld i o a (8 * n) false = false →
        (List.range n).map (fun k => hotEntry (fieldAt (c.frontRead i o a (8 * n)) (8 * k) 8)) = rows.map some →
        (∀ r ∈ rows, ∃ t, c.tableOf i r.1 = some t ∧ tGroup t.block = g ∧ r.2 < tRows t.block) → rows.eraseDups.length = n →
        let d := fun (c : Chip) => (c.touchAt i a (8 * n)).onInst i (fun x => { x with hot := withNext x.hot g rows f (c.refOf p) })
        ((d (s.chip.begun 0x43 p)).hotMisfit i = none → exec (.hotSet p) s = .next (s.pended 0x43 p d)) ∧
        (∀ tier, (d (s.chip.begun 0x43 p)).hotMisfit i = some tier →
          exec (.hotSet p) s = .next (s.refusedWith 0x43 p stNoSpace tier))))

/-- JOB_START, JOB_END, STEP_CLOSE and its effect, PUBLISH, RELEASE_SNAPSHOT (R10 to R18, R38, R39, R65, R143, R211, R224,
R278). A second JOB_END while the first waits for the flip is refused with BAD_STATE: the model's choice (log 29). -/
def Obligations.JobCommandsComplete : Prop :=
  ∀ (s : State) (p : Icp),
    let c := s.chip
    let i := p.who
    let j := c.job i
    let g := p.par 16 2
    (s.Takes 0x50 p → c.jobRuns i = false → (c.inst i).ended = none → 0 < p.par 8 8 → p.par 8 8 ≤ 0xFFFFFFFFFFFE → g ≤ 1023 →
      p.par 18 1 ≤ 24 → (∀ k < 16, c.jobRuns k = true → (c.job k).ident.toNat % 65536 ≠ p.par 0 8 % 65536) →
      (c.group g).owner = some i → (c.selfIn (c.group g).members).isSome = true →
      exec (.jobStart p) s = .next (s.oked 0x50 p (fun c =>
        let d := (c.clearStreams (BitVec.ofNat 64 (p.par 0 8)).toNat).onJob i (fun j => { Job.initial with
          phase := .compute, skipped := j.skipped, epoch := p.par 8 8, ident := BitVec.ofNat 64 (p.par 0 8), group := g
          encReq := p.par 19 1 % 2 = 1, key := some (jobKey (BitVec.ofNat 64 (p.par 0 8))), lexp := p.par 18 1 })
        let old := (List.range 32).filter (fun k => d.linkUp k && (d.link k).major = 2)
        let d := if p.par 19 1 % 2 = 1 then old.foldl (fun (d : Chip) k => d.notify [i] ncPartnerRefused k 1) d else d
        ((d.sendProbe i).coreFail i).ctrLimit i) 0 [])) ∧
    (s.Takes 0x51 p →
      (j.phase = .noJob → exec (.jobEnd p) s =
        .next (s.refusedWith 0x51 p stBadState ((s.chip.begun 0x51 p).phaseDetail p))) ∧
      (j.phase = .compute → ((c.inst i).launches ≠ [] ∨ c.collOpen i = true) → exec (.jobEnd p) s =
        .next (s.refusedWith 0x51 p stBadState ((s.chip.begun 0x51 p).phaseDetail p))) ∧
      (j.phase = .compute → (c.inst i).launches = [] → c.collOpen i = false →
        exec (.jobEnd p) s = .next (s.went 0x51 p (fun c => c.endJob i (c.refOf p) false))) ∧
      ((j.phase = .vote ∨ j.phase = .apply ∨ j.phase = .flip) →
        (j.ending = none →
          exec (.jobEnd p) s = .next (s.pended 0x51 p (fun c => c.onJob i (fun j => { j with ending := some (c.refOf p) })))) ∧
        (j.ending ≠ none → exec (.jobEnd p) s =
          .next (s.refusedWith 0x51 p stBadState ((s.chip.begun 0x51 p).phaseDetail p))))) ∧
    (s.Takes 0x53 p →
      (c.jobRuns i = false → exec (.stepClose p) s =
        .next (s.refusedWith 0x53 p stBadState ((s.chip.begun 0x53 p).phaseDetail p))) ∧
      (c.jobRuns i = true → p.par 0 8 ≠ j.epoch → exec (.stepClose p) s = .next (s.refusedWith 0x53 p stBadParam 0)) ∧
      (c.jobRuns i = true → p.par 0 8 = j.epoch → j.close = .closed →
        exec (.stepClose p) s = .next (s.oked 0x53 p id 0 [])) ∧
      (c.jobRuns i = true → p.par 0 8 = j.epoch → j.close = .none → c.closeReady i = true →
        exec (.stepClose p) s = .next (s.oked 0x53 p (fun c => c.closeStep i) 0 [])) ∧
      (c.jobRuns i = true → p.par 0 8 = j.epoch → (j.close = .pending ∨ j.close = .none ∧ c.closeReady i = false) →
        exec (.stepClose p) s = .next (s.pended 0x53 p (fun c =>
          c.onJob i (fun j => { j with close := .pending, closers := j.closers ++ [c.refOf p] }))))) ∧
    (∀ k, s.Live → c.jobRuns k = true → (c.job k).phase = .compute → (c.job k).close = .pending →
      exec (.stepCloseEffect k) s = .next { s with chip := if c.closeReady k then c.closeStep k else c }) ∧
    (s.Takes 0x54 p →
      ((c.jobRuns i = false ∨ p.par 0 8 ≤ j.epoch ∨ (p.par 0 8 = j.epoch + 1 ∧ j.close = .closed)) → exec (.publish p) s =
        .next (s.refusedWith 0x54 p stBadState ((s.chip.begun 0x54 p).phaseDetail p))) ∧
      (c.jobRuns i = true → (j.epoch + 1 < p.par 0 8 ∨ (j.epoch + 1 = p.par 0 8 ∧ j.close ≠ .closed)) →
        p.par 0 8 ≤ 0xFFFFFFFFFFFF →
        (j.publish = none → exec (.publish p) s = .next (s.pended 0x54 p (fun c =>
          c.onJob i (fun j => { j with publish := some (p.par 0 8, c.refOf p) })))) ∧
        (∀ e r, j.publish = some (e, r) → exec (.publish p) s = .next (s.pended 0x54 p (fun c =>
          let d := c.commandDone r stCancelled 0
          d.onJob i (fun j => { j with publish := some (p.par 0 8, d.refOf p) })))))) ∧
    (s.Takes 0x55 p → exec (.releaseSnapshot p) s = .next (s.oked 0x55 p (fun c =>
      (c.onObjs i (fun o => { o with serveDue := false })).onInst i (fun x => { x with
        snapValid := false, snapEpoch := 0
        oldSnaps := if x.snapValid then x.oldSnaps.filter (· ≠ x.snapEpoch) ++ [x.snapEpoch] else x.oldSnaps })) 0 []))

/-- HOST_SIGNAL with each OP (R247 to R254) of a command that runs now: a tile signal with its payload, an update and a
read of a hub semaphore, a wait on one. -/
def Obligations.HostSignalsComplete : Prop :=
  ∀ (s : State) (p : Icp),
    let c := s.chip
    let i := p.who
    let tile := p.bits 26 16
    let sem := p.bits 45 40
    let count := toSigned 32 (p.par 8 4)
    let v := (tget 0 (c.inst i).hubSems sem).toNat
    s.Takes 0x56 p →
      (p.par 0 1 = 0 → p.par 16 4 ≤ 4096 → p.par 16 4 % 64 = 0 → c.ownsTile i tile = true → count ≠ 0 → -65535 ≤ count →
        count ≤ 65535 → p.par 12 4 % 64 = 0 → p.par 12 4 < 1048576 → p.par 12 4 + p.par 16 4 ≤ 1048576 →
        exec (.hostSignalTile p) s = .next (s.went 0x56 p (fun c =>
          let d := c.storeWrite tile (p.par 12 4) (cut p.params 32 (p.par 16 4))
          { d with sigs := d.sigs ++ [{ target := tile, sem := sem, count := count, sender := .host (d.refOf p) }] }))) ∧
      (p.par 0 1 = 1 → p.par 16 4 = 0 → count ≠ 0 →
        ((v : Int) + count < 0 → exec (.hostSignalHub p) s =
          .next (s.refusedWith 0x56 p stDescriptorError (errorWord 0 0x7FF caSemUnderflow).toNat)) ∧
        (4294967295 < (v : Int) + count → exec (.hostSignalHub p) s =
          .next (s.refusedWith 0x56 p stDescriptorError (errorWord 0 0x7FF caSemOverflow).toNat)) ∧
        (0 ≤ (v : Int) + count → (v : Int) + count ≤ 4294967295 → (c.inst i).waits = [] →
          exec (.hostSignalHub p) s = .next (s.oked 0x56 p (fun c => c.onInst i (fun x => { x with
            hubSems := tput x.hubSems sem (BitVec.ofNat 32 ((v : Int) + count).toNat) })) ((v : Int) + count).toNat []))) ∧
      (p.par 0 1 = 2 → p.par 16 4 = 0 → 0 < count → (c.inst i).waits.length < 256 →
        (count ≤ (v : Int) → (∀ w ∈ (c.inst i).waits, w.sem ≠ sem) → exec (.hostSignalWait p) s =
          .next (s.oked 0x56 p (fun c => c.onInst i (fun x => { x with
            hubSems := tput x.hubSems sem (BitVec.ofNat 32 (v - count.toNat)) })) (v - count.toNat) [])) ∧
        ((v : Int) < count ∨ (∃ w ∈ (c.inst i).waits, w.sem = sem) → exec (.hostSignalWait p) s = .next (s.pended 0x56 p (fun c => c.onInst i (fun x =>
          { x with waits := x.waits ++ [{ sem := sem, count := count.toNat, cmd := c.refOf p }] }))))) ∧
      (p.par 0 1 = 3 → p.par 16 4 = 0 → exec (.hostSignalRead p) s = .next (s.oked 0x56 p id v []))

/-- BRUIN_SET with each KIND (R147, R211, R216 to R219, R230) of a command that runs now. -/
def Obligations.BruinCommandsComplete : Prop :=
  ∀ (s : State) (p : Icp),
    let c := s.chip
    let i := p.who
    let b := leNat p.params
    s.Takes 0x58 p →
      (p.par 0 1 = 0 → exec (.bruinSetJob p) s = .next (s.oked 0x58 p (fun c =>
        c.onJob i (fun j => { j with ufLimit := BitVec.ofNat 16 (p.par 6 2) })) 0 [])) ∧
      (p.par 0 1 = 1 → 8 ≤ c.liveCores →
        let new : BObj :=
          { addr := bits b 511 448, block := BitVec.ofNat 1024 b, updates := 0, lastEpoch := 0, clamped := 0, infs := 0
            nans := 0, owned := 0, p1 := 0x3F800000, p2 := 0x3F800000 }
        let owned := (c.ownedShards new).length
        ((c.jobRuns i = true ∨ (c.inst i).ended.isSome = true ∨ (c.bobj i (bits b 511 448)).isSome = true) →
          exec (.bruinSetRegister p) s =
            .next (s.refusedWith 0x58 p stBadState ((s.chip.begun 0x58 p).phaseDetail p))) ∧
        (c.jobRuns i = false → (c.inst i).ended = none → c.bobj i (bits b 511 448) = none → bits b 330 330 = 1 →
          c.bruinField i b (c.groupSize (bits b 329 320)) owned = none →
          exec (.bruinSetRegister p) s = .next (s.oked 0x58 p (fun c =>
            ((List.range owned).foldl (fun (c : Chip) k =>
              c.landModel i (bits b 639 576 + stateBytes b * k) (stateInit b)) c).onInst i
                (fun x => { x with bobjs := x.bobjs ++ [{ new with owned := BitVec.ofNat 16 owned }] })) 0 []))) ∧
      (∀ o, p.par 0 1 = 2 → 8 ≤ c.liveCores → c.bobj i (bits b 511 448) = some o → bits o.block.toNat 799 8 = bits b 799 8 →
        0 < bits b 831 800 → bits b 831 800 < 0x7F800000 →
        exec (.bruinSetChange p) s = .next (s.oked 0x58 p (fun c =>
          c.onBObj i o.addr (fun o => { o with block := BitVec.ofNat 1024 (b / 256 * 256 + 1) })) 0 [])) ∧
      (∀ o, p.par 0 1 = 3 → c.jobRuns i = false → (c.inst i).ended = none → c.bobj i (p.par 8 8) = some o →
        exec (.bruinSetRemove p) s = .next (s.oked 0x58 p (fun c =>
          c.onInst i (fun x => { x with bobjs := x.bobjs.filter (fun b => b.addr ≠ o.addr) })) 0 [])) ∧
      (∀ o, p.par 0 1 = 4 → c.bobj i (p.par 8 8) = some o →
        exec (.bruinSetStatus p) s = .next (s.oked 0x58 p id 0 (leBytes 32 (packed
          [(c.bstate i o.addr, 0), (o.updates.toNat, 16), (o.lastEpoch.toNat, 80), (o.owned.toNat, 144), (o.nans.toNat, 160),
            (o.infs.toNat, 192), (o.clamped.toNat, 224)]))))

/-- GROUP_SET and GROUP_CLEAR (R289 to R291); UNIT_DISABLE, UNIT_ENABLE, UNIT_RETIRE with the end of a shutdown and of an
enabling (R67 to R70, R285, R334, R384). -/
def Obligations.GroupAndUnitCommandsComplete : Prop :=
  ∀ (s : State) (p : Icp),
    let c := s.chip
    let i := p.who
    let g := p.bits 9 0
    let n := p.bits 144 128
    let u := unitNamed p
    let v := c.unit u
    (∀ o, s.Takes 0x60 p → 0 < n → n ≤ 65536 → (p.bits 16 16 = 0 ∨ n ≤ 8) → c.check i (p.bits 255 192) (2 * n) = .ok o →
      c.cmdHeld i o (p.bits 255 192) (2 * n) false = false →
      let bs := c.frontRead i o (p.bits 255 192) (2 * n)
      let ms := (List.range n).map (fun k => BitVec.ofNat 16 (fieldAt bs (2 * k) 2))
      n ≤ ms.eraseDups.length →
      (∀ k, (c.group g).owner = some k → k ≠ i →
        exec (.groupSet p) s = .next (s.refusedWith 0x60 p stNotPermitted 0)) ∧
      ((c.group g).owner = none → c.listUsed - (c.group g).members.length + n ≤ 4194304 →
        exec (.groupSet p) s = .next (s.oked 0x60 p (fun c => (c.readMarks i o (p.bits 255 192) (2 * n)).setGroup g
          { Group.initial with
            owner := some i, members := ms, digest := groupDigest p bs
            timeout := if p.bits 175 160 = 0 then 2000 else p.bits 175 160, split := p.bits 16 16 = 1 }) 0 []))) ∧
    (s.Takes 0x61 p →
      ((c.group (p.par 0 2)).owner ≠ some i → exec (.groupClear p) s = .next (s.refusedWith 0x61 p stNoObject 0)) ∧
      ((c.group (p.par 0 2)).owner = some i → c.groupInUse i (p.par 0 2) = false →
        exec (.groupClear p) s = .next (s.oked 0x61 p (fun c => c.setGroup (p.par 0 2) (c.group (p.par 0 2)).unset) 0 []))) ∧
    (s.Takes 0x70 p → u.cls ≤ 2 → unitOk u = true → c.isRetired u.cls u.idx = false →
      (v.st = .enabled → exec (.unitDisable p) s = .next (s.oked 0x70 p (fun c => c.startShutdown u) 0 [])) ∧
      ((v.st = .shuttingDown ∨ v.st = .disabled) → exec (.unitDisable p) s = .next (s.oked 0x70 p id 0 [])) ∧
      (v.st = .shutdownEnablePending → exec (.unitDisable p) s = .next (s.oked 0x70 p (fun c =>
        (c.setUnit u { v with st := .shuttingDown, enables := [] }).doneAll v.enables stCancelled 0) 0 [])) ∧
      (v.st = .enabling → exec (.unitDisable p) s =
        .next (s.oked 0x70 p (fun c => c.setUnit u { v with disableWaits := true }) 0 []))) ∧
    (s.Takes 0x71 p → u.cls ≤ 2 → unitOk u = true → c.isRetired u.cls u.idx = false →
      (v.st = .enabled → exec (.unitEnable p) s = .next (s.oked 0x71 p id 0 [])) ∧
      ((v.st = .disabled ∨ v.st = .enabling) → exec (.unitEnable p) s = .next (s.pended 0x71 p (fun c =>
        c.setUnit u { v with st := .enabling, enables := v.enables ++ [c.refOf p] }))) ∧
      ((v.st = .shuttingDown ∨ v.st = .shutdownEnablePending) → exec (.unitEnable p) s = .next (s.pended 0x71 p (fun c =>
        c.setUnit u { v with st := .shutdownEnablePending, enables := v.enables ++ [c.refOf p] })))) ∧
    (s.Takes 0x72 p → u.cls ≤ 5 → unitOk u = true →
      exec (.unitRetire p) s = .next (s.oked 0x72 p (fun c => c.retire u 1) 0 [])) ∧
    (∀ e, s.Live → e < 2 →
      exec (.unitShutdownComplete ⟨1, e⟩) s = .next { s with chip := match (c.unit ⟨1, e⟩).st with
        | .shuttingDown => c.setUnit ⟨1, e⟩ { c.unit ⟨1, e⟩ with st := .disabled }
        | .shutdownEnablePending => c.setUnit ⟨1, e⟩ { c.unit ⟨1, e⟩ with st := .enabling }
        | _ => c }) ∧
    (∀ x, s.Live → x < 4 → c.usedAt 2 x ≠ 0 → exec (.unitShutdownComplete ⟨2, x⟩) s = .next s) ∧
    (∀ e dev, s.Live → e < 2 → (c.unit ⟨1, e⟩).st = .enabling → (c.unit ⟨1, e⟩).disableWaits = false →
      exec (.unitEnablingComplete ⟨1, e⟩ dev) s = .next { s with chip :=
        ((c.setUnit ⟨1, e⟩ { c.unit ⟨1, e⟩ with st := .enabled, enables := [], disableWaits := false }).doneAll
          (c.unit ⟨1, e⟩).enables stOK 0) })

/-- DEBUG_OPEN and DEBUG_CLOSE (R365, R366), CONFIG_READ, CONFIG_WRITE and CONFIG_COMMIT (R50, R387 to R389). -/
def Obligations.DebugAndStoreCommandsComplete : Prop :=
  ∀ (s : State) (p : Icp),
    let c := s.chip
    let a := p.par 0 4
    let n := p.par 4 4
    (s.Takes 0x81 p →
      (c.side.debugOpen = true → exec (.debugOpen p) s =
        .next (s.refusedWith 0x81 p stBadState ((s.chip.begun 0x81 p).phaseDetail p))) ∧
      (c.side.debugOpen = false → exec (.debugOpen p) s = .next (s.oked 0x81 p (fun c =>
        Chip.notify { c with side := { c.side with debugOpen := true, debugMask := BitVec.ofNat 16 (p.par 0 2)
                                                   debugCount := satAdd c.side.debugCount 1 } }
          s.chip.liveInsts ncDebugOpened (satAdd s.chip.side.debugCount 1).toNat 0)
        (satAdd s.chip.side.debugCount 1).toNat []))) ∧
    (s.Takes 0x82 p →
      (c.side.debugOpen = true → exec (.debugClose p) s = .next (s.oked 0x82 p (fun c =>
        { c with side := { c.side with debugOpen := false, debugMask := 0 } }) 0 []))) ∧
    (s.Takes 0x90 p →
      (4096 < n → exec (.configRead p) s = .next (s.refusedWith 0x90 p stInlineTooLong n)) ∧
      (0 < n → n ≤ 4096 → a + n ≤ 0x4000000 → exec (.configRead p) s =
        .next (s.oked 0x90 p id 0 (c.store.read a n ++ List.replicate (roundUp n 4 - n) 0)))) ∧
    (s.Takes 0x91 p → 0 < n → n ≤ 4096 →
      ((a < 64 ∨ 0x800000 ≤ a) → exec (.configWrite p) s = .next (s.refusedWith 0x91 p stBadParam 0)) ∧
      (∀ e, 64 ≤ a → a < 0x800000 → a + n ≤ 0x800000 → c.store.openEdit.edit = some e →
        exec (.configWrite p) s = .next (s.oked 0x91 p (fun c =>
          let st := c.store.openEdit
          let x := st.copy e.copyB
          { c with store := { st.setCopy e.copyB { x with cells := mwrite x.cells a (cut p.params 8 n) } with
                              edit := some { e with lastEnd := max e.lastEnd (a + n) } } }) 0 []))) ∧
    (s.Takes 0x92 p →
      (c.store.edit = none → exec (.configCommit p) s =
        .next (s.refusedWith 0x92 p stBadState ((s.chip.begun 0x92 p).phaseDetail p))) ∧
      (∀ e, c.store.edit = some e → exec (.configCommit p) s = .next (s.oked 0x92 p (fun c =>
        { c with store := c.store.commit e }) ((c.store.commit e).copy e.copyB).seq.toNat [])))

/-- LAUNCH, LAUNCH_START and the end of a tile's program (R94, R95, R125, R233, R238, R244, R245); the clocks of tiles and
engines (R242, R397); one tc of the generators and of what else passes with it (R123, R240). The order of LAUNCH's refusals
and what passes with the tc are the model's (logs 59 and 95). -/
def Obligations.LaunchRowsComplete : Prop :=
  ∀ (s : State),
    let c := s.chip
    (∀ p r, s.Takes 0x52 p → c.launchFault p = some r → exec (.launch p) s = .next (s.refusedWith 0x52 p r.1 r.2)) ∧
    (∀ p o, s.Takes 0x52 p → c.launchFault p = none → c.objAt p.who (p.par 0 8) = some o →
      let i := p.who
      let ts := launchTiles p
      let image := c.frontRead i o (p.par 0 8) (launchBytes p)
      (c.cmdHeld i o (p.par 0 8) (launchBytes p) false = true → exec (.launch p) s = .next (s.waiting 0x52 p)) ∧
      (c.cmdHeld i o (p.par 0 8) (launchBytes p) false = false → exec (.launch p) s = .next (s.went 0x52 p (fun c =>
        let d := (ts.zip (List.range ts.length)).foldl (fun (d : Chip) tk =>
          (d.storeWrite tk.1 (p.par 12 4) (cut image (if p.bits 193 193 = 1 then tk.2 * p.par 8 4 else 0) (p.par 8 4))).onTile
            tk.1 (fun k => { k with
              run := .loaded, launch := some (d.refOf p), ended := false, sems := [], unacked := 0, hold := none, loops := []
              units := [], gated := false, due := [], stopTc := none, before := [] }))
          ((c.readMarks i o (p.par 0 8) (launchBytes p)).forget ts)
        let e := if p.bits 192 192 = 1 then (d.tilesOf i).foldl (fun (d : Chip) t => d.onTile t (fun k =>
          { k with seed := BitVec.ofNat 64 (p.par 32 8), seededAt := d.tc, drawnTo := d.tc })) d else d
        (e.onJob i (fun j => { j with launched := true })).onInst i (fun x => { x with launches := x.launches ++
          [{ cmd := e.refOf p, tiles := ts, entry := p.par 16 4, epoch := 0, started := false, overs := [], fault := none
             final := none }] }))))) ∧
    (∀ i tag q, s.Live →
      ((c.inst i).launches.find? (fun l => l.cmd.is q tag && !l.started) = none → exec (.launchStart i tag q) s = .next s) ∧
      (∀ l, (c.inst i).launches.find? (fun l => l.cmd.is q tag && !l.started) = some l →
        exec (.launchStart i tag q) s = .next { s with chip :=
          let d := l.tiles.foldl (fun (d : Chip) t =>
            d.onTile t (fun k => { k with run := .running, pc := l.entry, ranStep := true })) c;
          (d.onLaunch i l.cmd (fun l => { l with started := true, epoch := (d.job i).epoch })).reply q tag stPending 0 0 [] })) ∧
    (∀ t i r, s.Live → c.ownerOf t = some i → (c.tile t).launch = some r →
      let k := c.tile t
      let finished := fun (d : Chip) =>
        let d := (d.onTile t (fun k => { k with
          run := .idle, launch := none, sems := [], hold := none, loops := [], before := [], stopTc := none })).onLaunch
            i r (fun l => { l with overs := l.overs ++ [t] })
        match d.launchBy i r with
        | none => d
        | some l => d.launchOver i l
      (k.unitsEmpty = true → k.unacked = 0 → k.due = [] →
        (k.run = .stopping ∨ (k.run = .running ∧ k.ended = true ∧ ∀ e ∈ k.sems, e.2 = 0) →
          exec (.programEnd t) s = .next { s with chip := finished c }) ∧
        (k.run = .running → k.ended = true → (∃ e ∈ k.sems, e.2 ≠ 0) →
          exec (.programEnd t) s = .next { s with chip := finished (c.fault t k.pc caSemResidue) })) ∧
      (k.unitsEmpty = false ∨ k.unacked ≠ 0 ∨ k.due ≠ [] ∨ (k.run = .running ∧ k.ended = false) →
        exec (.programEnd t) s = .next s)) ∧
    (∀ t, s.Live → t < 1600 →
      let k := c.tile t
      (k.unitsEmpty = true → ((k.run = .idle ∧ k.hold = none) ∨ ∃ h, k.hold = some h ∧ h.satisfied = false) →
        exec (.tileClockGate t) s = .next { s with chip := c.setTile t { k with gated := true } }) ∧
      (k.unitsEmpty = false ∨ (k.run ≠ .idle ∧ k.hold = none) ∨ (∃ h, k.hold = some h ∧ h.satisfied = true) →
        exec (.tileClockGate t) s = .next s)) ∧
    (∀ e, s.Live → e < 24 →
      ((c.engine e).queue = [] → exec (.engineClockGate e) s =
        .next { s with chip := c.setEngine e { c.engine e with gated := true } }) ∧
      ((c.engine e).queue ≠ [] → exec (.engineClockGate e) s = .next s)) ∧
    (∀ k, s.Live → k < 5 →
      (c.hubIdle k = true → c.gatedHub.contains k = false → exec (.engineClockGate (24 + k)) s =
        .next { s with chip := { c with gatedHub := c.gatedHub ++ [k] } }) ∧
      ((c.hubIdle k = false ∨ c.gatedHub.contains k = true) → exec (.engineClockGate (24 + k)) s = .next s)) ∧
    (s.Live →
      let d : Chip := { c.tickTiles with tc := c.tc + 1 }
      let e := (d.tiles.map (·.1)).foldl (fun (d : Chip) t => d.semBlock t) d
      let f := e.liveInsts.foldl (fun (d : Chip) i => d.tickTc i) e
      let g := ((f.liveInsts.foldl (fun (d : Chip) i => d.tickEc i) f).tickGroups).packTurn
      exec .randomGeneratorAdvance s = .next { s with chip :=
        (if f.tc % 2 = 1 then f else g.liveInsts.foldl (fun (d : Chip) i => (d.poisonFail i).ctrLimit i) g) } ∧
      ∀ t l, (c.tile t).seededAt ≤ c.tc → d.rngAt t l d.tc = rngNext (c.rngAt t l c.tc))

/-- A semaphore signal and its acknowledgement received, a wait released, a descriptor completed (R86, R87, R235, R237 to
R241, R253). -/
def Obligations.SequencerEventsComplete : Prop :=
  ∀ (s : State) (t : Nat), s.Live →
    let c := s.chip
    let k := c.tile t
    (∀ n,
      let mine := fun (y : Sig) => y.target = t && y.sender.origin = n
      (c.sigs.find? mine = none → exec (.semaphoreSignalReceived t n) s = .next s) ∧
      (∀ x, c.sigs.find? mine = some x →
        let rest := dropFirst mine c.sigs
        (k.due.any (fun u => u.rank = 5) = true → exec (.semaphoreSignalReceived t n) s = .next s) ∧
        (k.due.any (fun u => u.rank = 5) = false → k.run ≠ .running →
          (∀ u slot, x.sender = .tile u slot → u ≠ t → exec (.semaphoreSignalReceived t n) s = .next { s with chip := { c with
            sigs := rest, acks := c.acks ++ [{ target := u, source := t, slot := slot, cause := caSemResidue }] } }) ∧
          (∀ r, x.sender = .host r → exec (.semaphoreSignalReceived t n) s = .next { s with chip :=
            (Chip.reply { c with sigs := rest } r.queue r.tag stDescriptorError (errorWord 0 0x7FF caSemResidue).toNat 0 []) })) ∧
        (k.due.any (fun u => u.rank = 5) = false → k.run = .running →
          exec (.semaphoreSignalReceived t n) s = .next { s with chip :=
            { (c.setTile t { k with due := k.due ++ [{ rank := 5, sem := x.sem, count := x.count, sender := x.sender }] }) with
              sigs := rest } }))) ∧
    (∀ n,
      let mine := fun (y : Ack) => y.target = t && y.source = n
      (c.acks.find? mine = none → exec (.signalAckReceived t n) s = .next s) ∧
      (∀ x, c.acks.find? mine = some x →
        let d : Chip := { c with acks := dropFirst mine c.acks }
        (x.cause = 0 → exec (.signalAckReceived t n) s = .next { s with chip := d.setTile t { k with unacked := k.unacked - 1 } }) ∧
        (x.cause ≠ 0 → exec (.signalAckReceived t n) s = .next { s with chip :=
          ((d.fault t x.slot x.cause).onTile t (fun k => { k with unacked := k.unacked - 1 })) }))) ∧
    (∀ h i, k.hold = some h → c.ownerOf t = some i →
      (h.satisfied = false → exec (.waitRelease t) s = .next s) ∧
      (h.satisfied = true → h.header = false → dSig h.desc = false → k.loops = [] → k.pc + 64 < storeBytes →
        exec (.waitRelease t) s = .next { s with chip := c.setTile t { k with hold := none, pc := k.pc + 64 } }) ∧
      (h.satisfied = true → h.header = true →
        exec (.waitRelease t) s = .next { s with chip := ((c.setTile t { k with hold := none }).start i t h.desc) })) ∧
    (∀ u e i, c.ownerOf t = some i → k.unitQ u = [e] → e.ran = true → e.awaits = false →
      (dOp e.desc ≠ 0x12 ∨ c.splitPending i e.desc = false) →
      exec (.descriptorComplete t u) s = .next { s with chip :=
        (Chip.runHead i t u 1 (((c.settleWrites t u).popUnit t u).headSig t e.slot (u + 1) e.desc)) })

/-- The elementwise vector operations VADD to VGELU (R107 to R109) on an empty vector unit: each element of A, with B and
C, becomes the value the table "Operations" gives, computed in F32, rounded to the output format and written at D. -/
def Obligations.ElementwiseComplete : Prop :=
  ∀ (s : State) (i t : Nat) (d : Desc), s.Issues i t 1 d →
    let one := fun (g : Word → Machine.Num × Bool) => s.ran i t 1 d (fun c => c.vecOut i t d ((c.vecIn t d (vA d)).map g)) false
    let two := fun (g : Word → Word → Machine.Num × Bool) =>
      s.ran i t 1 d (fun c => c.vecOut i t d (List.zipWith g (c.vecIn t d (vA d)) (c.vecB t d))) false
    let three := fun (g : Word → Word → Word → Machine.Num × Bool) => s.ran i t 1 d (fun c => c.vecOut i t d
      (List.zipWith (fun a b => g a b.1 b.2) (c.vecIn t d (vA d)) (List.zip (c.vecB t d) (c.vecIn t d (vC d))))) false
    let kept := fun (x : Machine.Num) => (x, false)
    (dOp d = 0x20 → exec (.vadd t d) s = .next (two (fun a b => ((f32 a).add (f32 b)).toF32))) ∧
    (dOp d = 0x21 → exec (.vsub t d) s = .next (two (fun a b => ((f32 a).sub (f32 b)).toF32))) ∧
    (dOp d = 0x22 → exec (.vmul t d) s = .next (two (fun a b => ((f32 a).mul (f32 b)).toF32))) ∧
    (dOp d = 0x23 → exec (.vfma t d) s = .next (three (fun a b c => (((f32 a).mul (f32 b)).add (f32 c)).toF32))) ∧
    (dOp d = 0x24 → exec (.vmax t d) s = .next (two (fun a b => kept ((f32 a).max (f32 b))))) ∧
    (dOp d = 0x25 → exec (.vmin t d) s = .next (two (fun a b => kept ((f32 a).min (f32 b))))) ∧
    (dOp d = 0x26 → exec (.vneg t d) s = .next (one (fun a => kept (f32 a).neg))) ∧
    (dOp d = 0x27 → exec (.vabs t d) s = .next (one (fun a => kept (f32 a).abs))) ∧
    (dOp d = 0x28 → exec (.vrelu t d) s = .next (one (fun a => kept ((f32 a).max Machine.Num.zero)))) ∧
    (dOp d = 0x29 → exec (.vclamp t d) s =
      .next (one (fun a => kept (((f32 a).max (f32 (vImm d)).neg).min (f32 (vImm d)))))) ∧
    (dOp d = 0x2A → exec (.vselect t d) s =
      .next (three (fun a b c => kept (if (f32 c).isNan || (f32 c).signed then f32 b else f32 a)))) ∧
    (dOp d = 0x2B → exec (.vrecip t d) s = .next (one (quarterOp 0x2B))) ∧
    (dOp d = 0x2C → exec (.vrsqrt t d) s = .next (one (quarterOp 0x2C))) ∧
    (dOp d = 0x2D → exec (.vexp t d) s = .next (one (quarterOp 0x2D))) ∧
    (dOp d = 0x2E → exec (.vlog t d) s = .next (one (quarterOp 0x2E))) ∧
    (dOp d = 0x2F → exec (.vtanh t d) s = .next (one (quarterOp 0x2F))) ∧
    (dOp d = 0x30 → exec (.vsigmoid t d) s = .next (one (quarterOp 0x30))) ∧
    (dOp d = 0x31 → exec (.vgelu t d) s = .next (one (quarterOp 0x31)))

/-- COPY, COPY2D, FILL, GATHER, SCATTER (R100, R102, R160) and STASH_PUT, STASH_GET without compression (R179 to R181) on an
empty DMA channel, their ranges free of faults and not held: the index list is read first, and every source before the first
byte is written. -/
def Obligations.MovesComplete : Prop :=
  ∀ (s : State) (i t : Nat) (d : Desc),
    let u := 2 + dCh d
    let z := s.seen i t u d
    let n := vLength d
    let index := unpackWide 4 (vRows d) (z.refRead i t (vIndex d) (4 * vRows d))
    let free := fun (c : Chip) (rows : List (Nat × Nat)) => c.rowsFault i d n rows = none ∧ c.rowsHeld i d n rows = false
    let move := fun (rows : List (Nat × Nat)) (c : Chip) =>
      (rows.map (fun r => (r.2, c.refRead i t (refPlus (vSrc d) r.1) n))).foldl
        (fun (e : Chip) r => e.refWrite i t (refPlus (vDst d) r.1) r.2)
        (rows.foldl (fun (e : Chip) r => e.refTouch i (refPlus (vSrc d) r.1) n) c)
    let listed := fun (c : Chip) => c.refTouch i (vIndex d) (4 * vRows d)
    s.Issues i t u d →
      (dOp d = 0x00 → free z [(0, 0)] → exec (.copy t d) s = .next (s.ran i t u d (fun c =>
        (c.refTouch i (vSrc d) n).refWrite i t (vDst d) (c.refRead i t (vSrc d) n)) false)) ∧
      (dOp d = 0x01 → free z ((List.range (vRows d)).map (fun r => (r * vSstride d, r * vDstride d))) →
        exec (.copy2d t d) s =
          .next (s.ran i t u d (move ((List.range (vRows d)).map (fun r => (r * vSstride d, r * vDstride d)))) false)) ∧
      (dOp d = 0x02 → z.refFault i (vDst d) n true = none → z.refHeld i (vDst d) n true = false →
        exec (.fill t d) s = .next (s.ran i t u d (fun c => c.refWrite i t (vDst d)
          ((List.range (n / 4)).flatMap (fun _ => leBytes 4 (bits (vSrc d) 31 0)))) false)) ∧
      (z.rowFault i (vIndex d) 0 (4 * vRows d) false = none → z.refHeld i (vIndex d) (4 * vRows d) false = false →
        (dOp d = 0x03 → free (listed z) (index.mapIdx (fun r k => (k * vSstride d, r * vDstride d))) →
          exec (.gather t d) s = .next (s.ran i t u d
            (fun c => move (index.mapIdx (fun r k => (k * vSstride d, r * vDstride d))) (listed c)) false)) ∧
        (dOp d = 0x04 → free (listed z) (index.mapIdx (fun r k => (r * vSstride d, k * vDstride d))) →
          exec (.scatter t d) s = .next (s.ran i t u d
            (fun c => move (index.mapIdx (fun r k => (r * vSstride d, k * vDstride d))) (listed c)) false))) ∧
      (dOp d = 0x05 → swCmp d = false → (s.chip.inst i).stash.length < 4096 →
        exec (.stashPut t d) s = .next (s.ran i t u d (fun c =>
          ((c.copyWrite i 0 (refAddr (vDst d)) ((List.range (vRows d)).flatMap (fun r =>
            c.storeRead t (refOff (vSrc d) + r * vSstride d) n))).wakeHub 1).onInst i (fun x => { x with stash := x.stash ++
              [{ addr := refAddr (vDst d), bytes := vRows d * n, layer := swLayer d, staged := false }] })) false)) ∧
      (∀ o, dOp d = 0x06 → swCmp d = false → swDist d = 0 → vRows d ≠ 0 →
        z.stashAt i (refAddr (vSrc d)) (vRows d * n) = some o →
        exec (.stashGet t d) s = .next (s.ran i t u d (fun c =>
          ((c.wakeHub 1).unstage i (refAddr (vSrc d)) (vRows d * n)).storeWrite t (refOff (vDst d))
            (c.copyRead i o 0 (refAddr (vSrc d)) (vRows d * n))) false))

/-- MATMUL, MATMUL_BT and MATMUL_SPLIT (R102 to R106, R310, R311) on an empty matrix unit: the result of R103 to R105 is
written at C row by row, or its block rows join the stream's partials, its conversions counted, and GRAD's vote flag set
where it is not finite. A MATMUL_SPLIT that repeats a block row of the stream faults, the repeated ones dropped. -/
def Obligations.MatrixComplete : Prop :=
  ∀ (s : State) (i t : Nat) (d : Desc) (a b : Fmt), s.Issues i t 0 d → mFormats d = some (a, b) →
    let full := fun (c : Chip) =>
      let r := c.matResult t d a b
      let e := if mFmtC d = 10 then c.count i 7 r.2.2 else c.countConv i r.2.1 r.2.2
      let rows := r.1.map (fun ws => ws.flatMap (fun w => leBytes 4 w.toNat))
      let e := (List.range rows.length).foldl (fun (e : Chip) k =>
        e.storeWrite t (refOff (mC d) + k * mLdc d) (rows.getD k [])) e
      if dGrad d && mFmtC d = 0 && r.1.any (·.any wordNonFinite) then e.setVote i else e
    (dOp d = 0x10 → exec (.matmul t d) s = .next (s.ran i t 0 d full false)) ∧
    (dOp d = 0x11 → exec (.matmulBt t d) s = .next (s.ran i t 0 d full false)) ∧
    (∀ g x, dOp d = 0x12 → (s.seen i t 0 d).streamOf i (mC d) = some (g, x) → swCol (mC d) % 32 = 0 → mN d % 32 = 0 →
      swRow (mC d) + mM d ≤ cCount x.desc / 65536 → swCol (mC d) + mN d ≤ cCount x.desc % 65536 →
      let n := (s.seen i t 0 d).groupSize g
      let parts := partsOut d x.desc n ((s.seen i t 0 d).matResult t d a b).1
      let known := fun (o : SplitOut) => x.out.any (fun q => q.row = o.row && q.col = o.col)
      let sends := fun (c : Chip) =>
        let r := c.matResult t d a b
        let e := (((c.countConv i r.2.1 r.2.2).onColl g x.cseq (fun x => { x with
          out := x.out ++ parts.filter (fun o => !known o) })).packTurn).ctrLimit i
        if dGrad d && r.1.any (·.any wordNonFinite) then e.setVote i else e
      ((∀ o ∈ parts, known o = false) → exec (.matmulSplit t d) s = .next (s.ran i t 0 d sends false)) ∧
      ((∃ o ∈ parts, known o = true) → exec (.matmulSplit t d) s = .next (s.left i t 0 d (fun c =>
        ((sends c).fault t ((sends c).headSlot t 0) caBadShape).popUnit t 0))))

/-- VSUM_ROW, VMAX_ROW, VAMAX_ROW (R109, R110), VRAND and VRAND_BITS (R112, R123, R124) on an empty vector unit. The tc at
which the first random element is taken is free, after the present one and after every element drawn before (log 44); the
lanes give one element each per tc from then on. -/
def Obligations.RowsAndRandomComplete : Prop :=
  ∀ (s : State) (i t : Nat) (d : Desc), s.Issues i t 1 d →
    let n := vCount d
    let rows := fun (g : List Machine.Num → Machine.Num × Nat) => s.ran i t 1 d (fun c => c.vWrite i t d (vOutOf (fmtOf (vOut d))
      ((chunks (vRowlen d) n (((fmtOf (vIn d)).unpack n
        (c.storeRead t (refOff (vA d)) ((fmtOf (vIn d)).lineBytes n))).map (fmtOf (vIn d)).decode)).map g))) false
    let add := fun (a b : Machine.Num × Nat) => ((a.1.add b.1).toF32.1, a.2 + b.2 + bit (a.1.add b.1).toF32.2)
    let top := fun (a b : Machine.Num × Nat) => (a.1.max b.1, 0)
    let first := fun (c : Chip) => max (c.tc + 1) (c.tile t).drawnTo + c.freeNow
    let word := fun (c : Chip) j =>
      (rngAfter (first c + j / 64 - (c.tile t).seededAt) (rngLoad (c.tile t).seed t (j % 64))).2.2.2
    let drawn := fun (c : Chip) => c.drew.onTile t (fun k => { k with drawnTo := first c + divUp n 64 })
    (dOp d = 0x32 → exec (.vsumRow t d) s =
      .next (rows (fun xs => (reduceRow add (xs.map (fun x => (x, 0)))).getD (Machine.Num.zero, 0)))) ∧
    (dOp d = 0x33 → exec (.vmaxRow t d) s =
      .next (rows (fun xs => (reduceRow top (xs.map (fun x => (x, 0)))).getD (Machine.Num.zero, 0)))) ∧
    (dOp d = 0x34 → exec (.vamaxRow t d) s =
      .next (rows (fun xs => (reduceRow top ((xs.map Machine.Num.abs).map (fun x => (x, 0)))).getD (Machine.Num.zero, 0)))) ∧
    (dOp d = 0x35 → exec (.vrand t d) s = .next (s.ran i t 1 d (fun c => (drawn c).vWrite i t d (vOutOf .f32
      ((List.range n).map (fun j => (Machine.Num.fin false ((word c j).toNat / 256) 1 (-24), 0))))) false)) ∧
    (dOp d = 0x36 → exec (.vrandBits t d) s = .next (s.ran i t 1 d (fun c => (drawn c).storeWrite t (refOff (vD d))
      ((List.range n).flatMap (fun j => leBytes 4 (word c j).toNat))) false))

/-- CVT with and without scales, SCALE_PASS and CVT_GRAD (R121, R130 to R133, R137 to R139, R146) on an empty vector unit;
CVT_GRAD takes the loss-scale exponent of the step it issues in. -/
def Obligations.ConvertsComplete : Prop :=
  ∀ (s : State) (i t : Nat) (d : Desc), s.Issues i t 1 d →
    let f := fmtOf (vIn d)
    let g := fmtOf (vOut d)
    let lines := fun (c : Chip) => vInput d (c.storeRead t (refOff (vA d)) (vBytes d f))
    (dOp d = 0x40 → refNone (vB d) = true → exec (.cvt t d) s = .next (s.ran i t 1 d (fun c =>
      c.vWrite i t d (cvOut g ((lines c).map (fun l => l.map (fun k => g.convert (f.decode k)))))) false)) ∧
    (dOp d = 0x40 → refNone (vB d) = false → exec (.cvt t d) s = .next (s.ran i t 1 d (fun c =>
      c.vWrite i t d (cvOut g (List.zipWith (fun l z => l.map (fun k =>
        if g.scaled then quantise g z.1 z.2 (f.decode k) else dequantise f g z.1 z.2 k)) (lines c)
          (readScales (c.storeRead t (refOff (vB d)) (vSetBytes d)) (vLines d) (vGroup d))))) false)) ∧
    (dOp d = 0x41 → exec (.scalePass t d) s = .next (s.ran i t 1 d (fun c =>
      c.storeWrite t (refOff (vB d)) (scalePass g ((lines c).map (fun l => l.map f.decode)) (vGroup d))) false)) ∧
    (dOp d = 0x42 → exec (.cvtGrad t d) s = .next (s.ran i t 1 d (fun c =>
      let l := (s.chip.job i).lexp
      let a := (lines c).map (fun r => r.map f.decode)
      let e := (rowCodes .bf16 (c.storeRead t (refOff (vC d)) (2 * vCount d)) (vLines d) (2 * vLen d) (vLen d)).map
        (fun r => r.map Fmt.bf16.decode)
      let sums := List.zipWith (List.zipWith (fun x y => (x.add (y.mul (Machine.Num.pow2 l))).toF32)) a e
      let bad := List.zipWith (List.zipWith (fun (x y : Machine.Num) => !x.isFinite || !y.isFinite)) a e
      let v := sums.map (fun r => r.map (·.1))
      let set := scalePass .e4m3 v (vGroup d)
      let out := List.zipWith (fun z r => List.zipWith (gradElem l z) r.1 r.2)
        ((readScales set (vLines d) (vGroup d)).map (·.1)) (List.zip bad v)
      let all := out.flatMap id
      let o := cvOut .e4m3 (out.map (fun r => r.map (·.cv)))
      let c := (c.storeWrite t (refOff (vB d)) set).vWrite i t d
        { o with sats := o.sats + ((sums.flatMap id).filter (·.2)).length }
      let c := c.storeWrite t (refOff (vC d)) (all.flatMap (fun g => leBytes 2 g.term))
      let c := (c.count i 11 (vCount d)).count i 12 (all.filter (·.flushed)).length
      if (bad.flatMap id).any id then c.setVote i else c) false))

/-- LOOKUP and ROW_GRAD (R192 to R201) on an empty DMA channel, the table open, the ranges free of faults and not held, the
ends in order and every row in the table: the lists are read whole, the records go in messages of up to 28, or 14 with
weights, to the servers of their rows, as far as these have room, and the descriptor waits at the front end for every part.
A ROW_GRAD's parts stay unapplied until the apply phase. Not a serving one waits while the step is closed (log 54). -/
def Obligations.LookupDescriptorsComplete : Prop :=
  ∀ (s : State) (i t : Nat) (d : Desc) (tb : Table), s.Issues i t (2 + dCh d) d →
    let u := 2 + dCh d
    let z := s.seen i t u d
    let dim := tDim tb.block
    let rs := lRanges d dim
    let me := (z.tableGroup tb).2
    let rows := unpackWide 8 (lCount d) (z.refRead i t (lIndex d) (8 * lCount d))
    let ends := unpackWide 4 (lBags d) (z.refRead i t (lOffs d) (4 * lBags d))
    let ws := if refNone (lWeight d) then List.replicate (lCount d) 0x3F800000
      else unpackWide 4 (lCount d) (z.refRead i t (lWeight d) (4 * lCount d))
    let recs := fun (grad serve : Bool) => (List.zip rows ws).mapIdx (fun k x => (z.serverOf i tb x.1 grad serve,
      ({ row := x.1, bag := bagOf ends k, weight := BitVec.ofNat 32 x.2 } : ReqRecord)))
    let messages := fun (kind : ReqKind) (epoch : Nat) (grad serve : Bool) (of : List (List Word)) =>
      allMessages
        { inst := i, kind := kind, epoch := epoch, table := tb.num, digest := tb.digest, member := me, tile := t, chan := dCh d,
          req := z.reqs, part := 0, last := true, owner := me, weighted := !refNone (lWeight d), records := [], wholeBags := [],
          fmt := lFmt d, grads := [] } (recs grad serve) of ((recs grad serve).map (·.1)).eraseDups 0
    let touched := fun (c : Chip) => rs.foldl (fun (e : Chip) r => if r.2.2 then e else e.refTouch i r.1 r.2.1) c
    let parts := fun (ms : List (Nat × ReqMsg)) => ms.map (fun x => (x.2.owner, x.1, x.2.part))
    let front := fun (grad : Bool) (ms : List (Nat × ReqMsg)) (c : Chip) =>
      let e : Chip := { c.wakeHub 0 with
        front := c.front ++ [{ inst := i, tile := t, chan := dCh d, grad := grad, desc := d, req := z.reqs, toSend := ms,
                               unanswered := parts ms, got := [], cause := 0, full := false }]
        reqs := z.reqs + 1 }
      Chip.pumpFront e.unsent e
    z.tableOf i (lTable d) = some tb →
    rs.foldl (fun f r => f.orElse (fun _ => z.rowFault i r.1 0 r.2.1 r.2.2)) none = none →
    rs.any (fun r => z.refHeld i r.1 r.2.1 r.2.2) = false → endsOk 0 ends (lCount d) = true →
    (∀ r ∈ rows, r < tRows tb.block) →
      (dOp d = 0x50 → (lServe d = true ∨ s.chip.jobRuns i = false ∨ (s.chip.job i).close ≠ .closed) →
        let ms := messages (if lServe d then .serve else .lookup)
          (if lServe d then (s.chip.inst i).snapEpoch else (s.chip.job i).epoch) false (lServe d) []
        exec (.lookup t d) s = .next (s.ran i t u d (fun c => front false ms (touched c)) true)) ∧
      (dOp d = 0x51 → lServe d = false → (s.chip.jobRuns i = false ∨ (s.chip.job i).close ≠ .closed) →
        let ms := messages .grad (s.chip.job i).epoch true false (bagGrads d dim (z.refRead i t (lDst d) (lBags d * dim * lSize d)))
        exec (.rowGrad t d) s = .next (s.ran i t u d (fun c =>
          let e := touched c
          front true ms (if s.chip.jobRuns i then e.onJob i (fun j =>
            { j with unapplied := j.unapplied ++ ((parts ms).map (fun x => (x.1, x.2.1, z.reqs, x.2.2))) }) else e)) true))

/-- COLL of every KIND (R294 to R298) on an empty DMA channel, in a group that its instance owns and this device is of, its
shape and ranges free of faults, its lists and its source not held: SRC and AUX are read as it is taken (log 40), it joins
the group's collectives, and the Pack engine begins what can begin. KIND 6 takes the bytes it sends from AUX, in multiples
of 4. It waits at its channel while its collective is there; one refused at once has left the channel. -/
def Obligations.CollDescriptorsComplete : Prop :=
  ∀ (s : State) (i t : Nat) (d : Desc), s.Issues i t (2 + dCh d) d → dOp d = 0x52 →
    let u := 2 + dCh d
    let z := s.seen i t u d
    let g := cGroup d
    let n := z.groupSize g
    let sz := cSizes d n (z.selfOf g)
    let look := fun (r : RefBits) (k : Nat) (w : Bool) => if k = 0 || refNone r then none else z.refFault i r k w
    let lists := if sz.2.2 = 0 then [] else z.refRead i t (cAux d) sz.2.2
    let bytes := if cKind d = 6 then sendTotal lists n else sz.1
    let new : Coll :=
      { kind := cKind d, cseq := cCseq d, tile := t, chan := dCh d, desc := d, active := false, began := 0,
        input := if bytes = 0 || refNone (cSrc d) then [] else z.refRead i t (cSrc d) bytes, aux := lists, pieces := [],
        got := [], held := [], counts := [], barrier := none, tokens := [], granted := 0, credits := [], sent := [],
        summed := false, refused := false, entries := [], out := [] }
    let taken := fun (c : Chip) => ((c.refTouch i (cSrc d) bytes).refTouch i (cAux d) sz.2.2).wakeHub 2
    let joined := fun (c : Chip) =>
      ((taken c).onGroup g (fun e => { e with colls := e.colls ++ [new] })).packTurn.ctrLimit i
    let after :=
      if ((joined z).coll g (cCseq d)).isSome then s.ran i t u d joined true
      else if (((joined z).tile t).unitQ u).length < (((taken z).tile t).unitQ u).length then s.left i t u d joined
      else s.ran i t u d joined false
    (z.group g).owner = some i → (z.selfIn (z.group g).members).isSome = true → z.cShape d n = none →
    look (cAux d) sz.2.2 (cKind d = 6) = none → (sz.2.2 = 0 ∨ z.refHeld i (cAux d) sz.2.2 false = false) →
    look (cSrc d) bytes false = none → look (cDst d) sz.2.1 true = none → z.refHeld i (cSrc d) bytes false = false →
    (cKind d = 6 → ∀ m < n, fieldAt lists (4 * m) 4 % 4 = 0) →
      (cKind d = 0 → exec (.collAllReduce t d) s = .next after) ∧
      (cKind d = 1 → exec (.collReduceScatter t d) s = .next after) ∧
      (cKind d = 2 → exec (.collAllGather t d) s = .next after) ∧
      (cKind d = 3 → exec (.collBroadcast t d) s = .next after) ∧
      (cKind d = 4 → exec (.collBarrier t d) s = .next after) ∧
      (cKind d = 5 → exec (.collAllToAll t d) s = .next after) ∧
      (cKind d = 6 → exec (.collAllToAllV t d) s = .next after) ∧
      (cKind d = 7 → exec (.collSplitOpen t d) s = .next after)

/-- The sequencer's descriptors (R95, R100, R113 to R115, R234 to R236, R240, R247 to R249) on a tile that fetches them now,
past their fence, no SIG in the header. A signal for the tile itself is due in this tc and takes effect with the others
(R240). -/
def Obligations.ControlDescriptorsComplete : Prop :=
  ∀ (s : State) (i t : Nat) (d : Desc), s.Fetches i t d → dSig d = false →
    let c := s.chip.passFence t d
    let k := c.tile t
    let on := fun (v : Tile) => ({ s with chip := c.setTile t v } : State)
    let target := (k.pc : Int) + 64 * kTarget d
    (dOp d = 0x70 → exec (.nopDescriptor t d) s = .next (on { k with pc := k.pc + 64 })) ∧
    (dOp d = 0x76 → exec (.fenceDescriptor t d) s = .next (on { k with pc := k.pc + 64 })) ∧
    (dOp d = 0x71 → exec (.repeatSpan t d) s = .next (on { k with pc := k.pc + 64, loops := [{
      first := k.pc + 64, past := k.pc + 64 + 64 * kSpan d, count := kCount d, iter := 0, inc1 := kInc d 0,
      inc2 := kInc d 1, inc3 := kInc d 2 }] })) ∧
    (dOp d = 0x72 → kCount d ≤ k.sem (kSem d) → exec (.wait t d) s = .next (on { k with
      pc := k.pc + 64, sems := tput k.sems (kSem d) (BitVec.ofNat 16 (k.sem (kSem d) - kCount d)) })) ∧
    (dOp d = 0x72 → k.sem (kSem d) < kCount d → exec (.wait t d) s = .next (on { k with
      hold := some { sem := kSem d, count := kCount d, desc := d, header := false, satisfied := false } })) ∧
    (dOp d = 0x73 → kTile d ≠ 0x7FF → kTile d ≠ t → exec (.signal t d) s = .next { s with chip :=
      { (c.setTile t { k with pc := k.pc + 64, unacked := k.unacked + 1 }) with sigs := (c.sigs ++ [{
          target := kTile d, sem := kSem d, count := toSigned 32 (kCount d), sender := .tile t k.pc }]) } }) ∧
    (dOp d = 0x73 → (kTile d = 0x7FF ∨ kTile d = t) → exec (.signal t d) s = .next (on { k with
        pc := k.pc + 64, due := k.due ++ [{ rank := 0, sem := kSem d, count := toSigned 32 (kCount d), sender := .tile t k.pc }] })) ∧
    (dOp d = 0x74 → k.sem (kSem d) < kCount d → exec (.branchSem t d) s = .next (on { k with pc := k.pc + 64 })) ∧
    (dOp d = 0x74 → kCount d ≤ k.sem (kSem d) → exec (.branchSem t d) s = .next (on { k with pc := target.toNat })) ∧
    (dOp d = 0x75 → exec (.jump t d) s = .next (on { k with pc := target.toNat })) ∧
    (dOp d = 0x77 → c.jobRuns i = true → kEpoch d = (c.job i).epoch →
      exec (.stepCloseDescriptor t d) s = .next { s with chip :=
        ((if (c.job i).close = .none then (c.onJob i (fun j => { j with close := .pending })) else c).setTile t
          { k with pc := k.pc + 64 }) }) ∧
    (let sent := c.onTile t (fun k => { k with unacked := k.unacked + 1 })
     let answered := fun (e : Chip) (cause : Nat) =>
       (Chip.advance { e with acks := e.acks ++ [{ target := t, source := 1600, slot := k.pc, cause := cause }] } t k.pc)
     (∀ v e, dOp d = 0x78 → sent.hubAdd i (kSem d) (toSigned 32 (kCount d)) = .inr (v, e) →
       exec (.hostSignalDescriptor t d) s = .next { s with chip := answered e 0 }) ∧
     (∀ f, dOp d = 0x78 → sent.hubAdd i (kSem d) (toSigned 32 (kCount d)) = .inl f →
       exec (.hostSignalDescriptor t d) s = .next { s with chip := answered sent f })) ∧
    (dOp d = 0x7F → exec (.endProgram t d) s = .next (on { k with ended := true }))

/-- The events of a step (R18 to R26, R35): the vote is over, the apply phase is over, the flip barrier is over, a dense
update is whole. A set vote drops the gradients and goes to the flip; a clear one puts the tables' settings in force, lists
the engines that must apply and queues Bruin's programs. The flip barrier is entered once nothing is left to apply and
every batch and every hot-row value sent is acknowledged. -/
def Obligations.StepEventsComplete : Prop :=
  ∀ (s : State) (i : Nat), s.Live →
    let c := s.chip
    let j := c.job i
    let upd := fun (e : Chip) => ({ s with chip := e } : State)
    (∀ b, j.phase = .vote → j.barrier = some b → b.vote = true → b.done = true → b.acc.getLsbD 0 = true →
      exec (.voteComplete i) s = .next (upd (((((c.trailed j.group b.entries b.began).dropGrads i).onJob i (fun j =>
        { j with phase := .flip, voteSet := true, barrier := none, unapplied := [] }))).enterBarrier i false 0))) ∧
    (∀ b, j.phase = .vote → j.barrier = some b → b.vote = true → b.done = true → b.acc.getLsbD 0 = false →
      exec (.voteComplete i) s = .next (upd (
        let d := c.trailed j.group b.entries b.began
        let pairs := (d.inst i).tables.flatMap (fun t => (d.enginesOf i t.num).map (fun e => (e, t.num)))
        let d := d.onInst i (fun x => { x with tables := x.tables.map (fun t => { t with inForce := t.block }) })
        ((d.onJob i (fun j => { j with phase := .apply, voteSet := false, barrier := none, toApply := pairs })).queuePrograms
          i).replayHandoffs i))) ∧
    (j.phase = .apply → j.toApply = [] → j.unapplied = [] → j.unackedHot = [] → exec (.flipBarrierEnter i) s =
      .next (upd ((c.onJob i (fun j => { j with phase := .flip })).enterBarrier i false 0))) ∧
    (j.phase = .apply → (j.toApply ≠ [] ∨ j.unapplied ≠ [] ∨ j.unackedHot ≠ []) → exec (.flipBarrierEnter i) s = .next s) ∧
    (∀ b, j.phase = .flip → j.barrier = some b → b.vote = false → b.done = true → j.epoch ≠ 0xFFFFFFFFFFFF →
      exec (.flip i) s = .next (upd ((((c.trailed j.group b.entries b.began).flipTo i (j.epoch + 1)).endAtFlip i).ctrLimit i))) ∧
    (∀ b, j.phase = .flip → j.barrier = some b → b.vote = false → b.done = true → j.epoch = 0xFFFFFFFFFFFF →
      exec (.flip i) s = .next (upd ((c.trailed j.group b.entries b.began).epochLimit i))) ∧
    (∀ a o b, c.objStart i a = some o → (c.inst i).bobjs.find? (fun b => b.addr = a) = some b → o.due ≠ [] →
      (∀ k < b.f 383 368, k ∈ o.shardsDone) → exec (.denseSwap i a) s = .next (upd (
        let d := c.copySwap i o 0 1
        let fill := o.serveDue && (o.due.drop 1).all ((d.inst i).snapEpoch ≤ ·)
        let d := if fill then d.copyCopy i o 0 2 o.addr o.length else d
        ((d.onObj i a (fun o => { o with due := o.due.drop 1, shardsDone := [], serveDue := o.serveDue && !fill })).replayHandoffs
          i).settleEnd i)))

/-- Bruin's events (R168, R211, R214, R215, R219 to R223, R230, R231): a program whose object is due starts and holds the
gradient buffer of its epoch's parity; a stage whose turn it is runs whole and costs one of its instance's turns, but not
with fewer than 8 live cores and not into a move; a program whose stages are done commits its shard, and the object's counts
move with the last shard of the step (log 37); an update core's upset is one fault event of the core. -/
def Obligations.BruinEventsComplete : Prop :=
  ∀ (s : State) (i : Nat), s.Live →
    let c := s.chip
    let upd := fun (e : Chip) => ({ s with chip := e } : State)
    (∀ r b, c.bruinHead i = some (r, b) → r.prog.started = false → c.mayStart i r.prog = true →
      exec (.bruinProgramStart i) s = .next (upd (((c.wakeHub 4).onHead i (fun q =>
        { q with started := true, block := b.block })).onInst i (fun x => { x with bheld := some (r.prog.epoch % 2) })))) ∧
    (∀ r b n st, c.bruinNow = some (i, n) → c.bruinHead i = some (r, b) →
      (r.stages b.updates.toNat)[r.prog.stage]? = some st →
      (8 ≤ c.liveCores → c.stageHeld r st = false → exec (.bruinStageComplete i) s = .next (upd (
        let x := (c.stageTouch r st).runStage r (f32 b.p1) (f32 b.p2) st
        let d := x.1.onHead i (fun q => { q with stage := q.stage + 1, f := x.2 })
        ({ d with bruinTurn := some (i, n) })))) ∧
      (c.liveCores < 8 ∨ c.stageHeld r st = true → exec (.bruinStageComplete i) s = .next s)) ∧
    (∀ r b, c.bruinHead i = some (r, b) → r.prog.started = true → (r.stages b.updates.toNat).length ≤ r.prog.stage →
      exec (.bruinShardCommit i) s = .next (upd (
        let rest := (c.inst i).bqueue.drop 1
        let d := (c.onObj i r.prog.obj (fun o => { o with shardsDone := o.shardsDone ++ [r.prog.shard] })).handOff r b
        let p1 := mulC (plainC (f32 b.p1)) r.mu
        let p2 := mulC (plainC (f32 b.p2)) r.beta2
        let last := !rest.any (fun q => q.obj = r.prog.obj && q.epoch = r.prog.epoch)
        let d := if last then (d.countAll i (if r.rule = 1 then [p1, p2] else [])).onBObj i r.prog.obj (fun b => { b with
            updates := satAdd b.updates 1, lastEpoch := BitVec.ofNat 48 r.prog.epoch, p1 := p1.1.f32Bits, p2 := p2.1.f32Bits })
          else d
        ((d.onInst i (fun x => { x with
          bqueue := rest, bheld := if rest.any (fun q => q.epoch = r.prog.epoch) then x.bheld else none })).settleEnd i).ctrLimit
            i))) ∧
    (∀ core, unitOk ⟨9, core⟩ = true → c.isRetired 9 core = false → c.bucket ⟨9, core⟩ + 1 < threshold 9 →
      exec (.updateCoreUpset core) s = .next (upd
        { (c) with buckets := (tput c.buckets (unitKey ⟨9, core⟩) (c.bucket ⟨9, core⟩ + 1)) }))

/-- An engine's and a front end's messages (R13, R19, R30, R32 to R38, R190, R192 to R194, R198 to R205, R209, R210, R307,
R352): what came over the links enters the engine's queue, and the message whose turn it is is served and answered; an
answer reaches its descriptor, and the last one finishes it; acknowledgements and stall marks reach the step; a hot row's
value goes to the inactive buffer; a replica's slot is overwritten; log entries that no read needs go; ROW_APPLY applies,
reclasses, sends and acknowledges. -/
def Obligations.EngineEventsComplete : Prop :=
  ∀ (s : State), s.Live →
    let c := s.chip
    let upd := fun (e : Chip) => ({ s with chip := e } : State)
    (∀ e arrived,
      let d := arrived.foldl (fun (d : Chip) x => if x.1 < 32 && (d.engine e).room (1 + x.1) then d.enqueue e (1 + x.1) x.2 else d) c
      let g := d.engine e
      let turn := nextTurn g.turn (fun i => (g.nextOf i).isSome) (c.weight (if e < 16 then 0 else 1))
      (turn = none → exec (.engineRequestMessage e arrived) s = .next (upd d)) ∧
      (∀ n src m, turn = some n → g.nextOf n.1 = some (src, m) →
        (d.requestHeld m = true → exec (.engineRequestMessage e arrived) s = .next (upd d)) ∧
        (d.requestHeld m = false →
          let h := d.setEngine e { g with
            queue := dropFirst (fun x => decide (x.1 = src ∧ x.2 = m)) g.queue, turn := n, srcTurn := tput g.srcTurn n.1 src
            gated := false }
          let old := (h.engine e).pool m
          let served := fun (k : Chip) => exec (.engineRequestMessage e arrived) s =
            .next (upd ((Chip.pumpFront k.unsent k).ctrLimit m.inst))
          (c.tableOf m.inst m.table = none → served (h.answerMsg e m.owner m caNoTable [])) ∧
          (∀ t, c.tableOf m.inst m.table = some t →
            let me := (c.tableGroup t).2
            (t.digest ≠ m.digest → served (h.answerMsg e me m caNoTable [])) ∧
            (t.digest = m.digest → m.kind = .serve → c.snapOpen m.inst e t m.epoch = false →
              served (h.answerMsg e me m caStaleSnapshot [])) ∧
            (t.digest = m.digest → (m.kind = .lookup ∨ (m.kind = .serve ∧ c.snapOpen m.inst e t m.epoch = true)) →
              let r := h.poolRecords m.inst t m old
              let out := if m.last then bagAnswers m r.1 else ([], 0, 0)
              let n := cntAdd r.2 out.2
              let k := if m.kind = .lookup then h.sketchRows m.inst e t m else h
              let k := (k.touchRows m.inst t m).setEngine e ((k.engine e).keep m r.1)
              served ((k.countConv m.inst n.1 n.2).answerMsg e me m 0 out.1)) ∧
            (t.digest = m.digest → m.kind = .grad →
              let bags := old ++ m.grads
              let r := (h.setEngine e ((h.engine e).keep m bags)).holdGrads m.inst e t m bags
              served (r.1.answerMsg e me m (if r.2 then caBadShape else 0) [])))))) ∧
    (∀ r, r.kind = .sums →
      let key := (r.member, r.engine, r.part)
      let mine := fun (f : FrontJob) => f.inst = r.inst && f.req = r.req && f.unanswered.contains key
      (c.front.find? mine = none → exec (.lookupResultReceived r) s = .next (upd (c.ctrLimit r.inst))) ∧
      (∀ f, c.front.find? mine = some f →
        let g : FrontJob :=
          { f with unanswered := f.unanswered.erase key, got := f.got ++ [(r.member, r.engine, r.sums)],
                   cause := if f.cause = 0 then r.cause else f.cause, full := f.full || (f.grad && r.cause = caBadShape) }
        let d : Chip := { c with front := modFirst (fun x => decide (x = f)) (fun _ => g) c.front }
        let d := if f.grad && r.cause ≠ 0 then d.onJob r.inst (fun j =>
          { j with unapplied := j.unapplied.erase (r.member, r.engine, r.req, r.part) }) else d
        exec (.lookupResultReceived r) s = .next (upd ((d.finishFront g).ctrLimit r.inst)))) ∧
    (∀ r, r.kind = .applied → exec (.lookupResultReceived r) s = .next (upd (c.onJob r.inst (fun j =>
      let rest := j.unapplied.erase (r.member, r.engine, r.req, r.part)
      { j with unapplied := rest, marks := j.marks.filter (fun k => rest.any (fun u => (u.1, u.2.1) = k)) })))) ∧
    (∀ r on, r.kind = .stall on → exec (.lookupResultReceived r) s = .next (upd (c.onJob r.inst (fun j =>
      let rest := j.marks.filter (· ≠ (r.member, r.engine))
      { j with marks := if on then rest ++ [(r.member, r.engine)] else rest })))) ∧
    (∀ r row, r.kind = .hotRow row → exec (.lookupResultReceived r) s = .next (upd (c.onJob r.inst (fun j =>
      { j with unackedHot := j.unackedHot.erase (r.table, row, r.member) })))) ∧
    (∀ r row t, r.kind = .slot row → c.tableOf r.inst r.table = some t →
      let waiting := (t.engs.filter (fun e => e.2.unacked.contains (r.member, row))).map (·.1)
      (waiting = [] → exec (.lookupResultReceived r) s = .next s) ∧
      (∀ e rest, waiting = e :: rest → exec (.lookupResultReceived r) s = .next (upd (((c.onEngTab r.inst r.table e (fun k =>
        { k with unacked := k.unacked.erase (r.member, row) })).ackBatches r.inst e r.table).ctrLimit r.inst)))) ∧
    (∀ i table row slot t, c.tableOf i table = some t →
      exec (.hotRowValueReceived i table row slot) s = .next (upd ((c.putReplica i table row slot).sendRowAck i
        (c.liveEngines.headD 0) t (rowPlace t.block (max 1 (c.tableGroup t).1) row).1 row))) ∧
    (∀ i table row slot t e, c.tableOf i table = some t → c.engineAt i t row = some e → tMode t.block = 0 →
      row < heldRows t.block 1 0 → slot.length = rowSlotBytes t.block →
      (c.slotHeld i t row true = true → exec (.replicaSlotWrite i table row slot) s = .next s) ∧
      (c.slotHeld i t row true = false → c.overwrite i e t row slot = none →
        exec (.replicaSlotWrite i table row slot) s = .next (upd (c.stallLog i e table))) ∧
      (∀ d, c.slotHeld i t row true = false → c.overwrite i e t row slot = some d →
        exec (.replicaSlotWrite i table row slot) s =
          .next (upd (d.sendRowAck i e t (row % max 1 (d.tableGroup t).1) row)))) ∧
    (∀ i e table t, c.tableOf i table = some t →
      let x := c.inst i
      let live := fun (p : Nat) => (x.snapValid && x.snapEpoch = p) || (c.engine e).queue.any (fun y =>
        y.2.inst = i && y.2.table = table && y.2.kind = .serve && y.2.epoch = p)
      let freed := fun (k : EngTab) =>
        let kept := k.log.filter (fun l => live l.snap)
        { k with log := kept, closed := x.oldSnaps.filter (fun p => !live p), stalled := k.stalled && kept.length = k.log.length }
      let d := c.onEngTab i table e freed
      exec (.logEntriesFree i e table) s = .next (upd (
        if (t.eng e).stalled && !(d.tableOf i table).any (fun t => (t.eng e).stalled) then
          ((d.tellStall i e table false).ctrLimit i) else d))) ∧
    (∀ i e table t, c.tableOf i table = some t → (c.job i).phase = .apply → (e, table) ∈ (c.job i).toApply →
      let a := Chip.applyRows i e t ((t.eng e).acc.mergeSort (fun x y => x.row ≤ y.row)) c
      let k := ((a.1.tableOf i table).getD t).eng e
      let rows := a.1.localRows i t e
      let r := Chip.reclassRows i e t ((k.applied ++ sweepRows rows k.cursor (tf t.block 143 128)).drop k.examined) a.1
      (a.2 = false → exec (.rowApply i e table) s = .next (upd a.1)) ∧
      (a.2 = true → r.2 = false → exec (.rowApply i e table) s = .next (upd r.1)) ∧
      (a.2 = true → r.2 = true → exec (.rowApply i e table) s = .next (upd (
        let d := if k.stalled then (r.1.tellStall i e table false).sendHot i e t else r.1.sendHot i e t
        let d := d.onEngTab i table e (fun k => { k with
          applied := [], examined := 0, changed := 0, stalled := false,
          cursor := (k.cursor + tf t.block 143 128) % max 1 rows.length })
        (d.onJob i (fun j => { j with toApply := j.toApply.erase (e, table) })).ackBatches i e table))))

/-- The packets of the Pack engine (R299 to R308, R311, R315, R396), from a member m of the group: with another digest they
abort the job; those of a running collective reach it and it goes on, or fail a check of R299 and abort the job; those of
one that has not begun wait for it; a free TOKEN reaches the vote or the flip barrier, or is a hold token or a probe; ABORT
aborts the job with MEMBER_FAILED; SPLIT and HANDOFF land, or wait. -/
def Obligations.PackPacketsComplete : Prop :=
  ∀ (s : State) (p : PackPkt) (i m : Nat), s.Live → s.chip.packFrom p = some (i, m) →
    let upd := fun (e : Chip) => ({ s with chip := e } : State)
    let g := p.group
    let q := BitVec.ofNat 32 p.cseq
    let w := fun opc => (s.chip.wakeHub 2).takeDelivered opc p
    let taken := fun opc => s.chip.takeDelivered opc p
    let own := p.gdigest = (s.chip.group g).digest
    let ahead := (q - (s.chip.group g).next).toNat < 2147483648
    (∀ x, own → ahead → s.chip.coll g q = some x → x.active = true → x.kind = p.kind →
      let entered := fun opc => (w opc).onColl g q (fun y => y.enter m s.chip.tc)
      let goes := fun (e : Chip) => upd ((match e.coll g q with
        | none => e
        | some y => if y.refused then e.refuseColl g y else e.progress i g q).packTurn.ctrLimit i)
      let fails := fun opc => upd (((w opc).failMember i g m).packTurn.ctrLimit i)
      let leaf := leafBytes x.desc (s.chip.groupSize g) (s.chip.selfOf g)
      let count := leNat (p.data.take 4)
      let late := x.pieces.any (fun y => y.1 = m && count < y.2.1 + y.2.2.length)
      (x.kind ≤ 1 → p.offset + p.data.length ≤ leaf → exec (.leaf p) s =
        .next (goes ((entered 1).onColl g q (fun y => { y with pieces := y.pieces ++ [(m, p.offset, p.data)] })))) ∧
      ((1 < x.kind ∨ leaf < p.offset + p.data.length) → exec (.leaf p) s = .next (fails 1)) ∧
      (∀ e, (if x.kind = 4 then none else if x.kind = 7 then (entered 2).takeSplitResult i g x m p.offset p.data
          else (entered 2).takeResult i g x m p.offset p.data) = some e → exec (.result p) s = .next (goes e)) ∧
      ((if x.kind = 4 then none else if x.kind = 7 then (entered 2).takeSplitResult i g x m p.offset p.data
          else (entered 2).takeResult i g x m p.offset p.data) = none → exec (.result p) s = .next (fails 2)) ∧
      (x.kind = 6 → late = false → exec (.counts p) s = .next (goes ((entered 3).onColl g q (fun y =>
        if y.counts.any (fun e => e.1 = m) then y else { y with counts := y.counts ++ [(m, count)] })))) ∧
      ((x.kind ≠ 6 ∨ late = true) → exec (.counts p) s = .next (fails 3)) ∧
      (x.kind = 4 → exec (.token p) s = .next (goes ((entered 4).onColl g q (fun y => { y with
        tokens := y.tokens ++ [(m, fieldAt p.data 0 4, BitVec.ofNat 64 (fieldAt p.data 4 8), s.chip.tc)] })))) ∧
      (x.kind ≠ 7 → exec (.credit p) s = .next (goes
        (((entered 5).onColl g q (fun y => { y with credits := bump y.credits m count })).sendLeaves i g m q))) ∧
      (x.kind = 7 → exec (.credit p) s = .next (goes ((entered 5).onColl g q (fun y => y.splitCredit m p)))) ∧
      (x.kind = 6 → exec (.refuse p) s = .next (goes ((entered 6).onColl g q (fun y => { y with refused := true })))) ∧
      (x.kind ≠ 6 → exec (.refuse p) s = .next (fails 6))) ∧
    (own → ahead → (s.chip.coll g q).any (·.active) = false →
      let kept := fun opc => upd ((w opc).onGroup g (fun e => { e with early := e.early ++ [(opc, p, s.chip.tc)] }))
      exec (.leaf p) s = .next (kept 1) ∧ exec (.result p) s = .next (kept 2) ∧ exec (.counts p) s = .next (kept 3) ∧
      (p.kind ≠ kindFree → exec (.token p) s = .next (kept 4)) ∧ exec (.credit p) s = .next (kept 5) ∧
      exec (.refuse p) s = .next (kept 6)) ∧
    (¬ own →
      let fails := fun opc => upd ((w opc).failMember i g m)
      exec (.leaf p) s = .next (fails 1) ∧ exec (.result p) s = .next (fails 2) ∧ exec (.counts p) s = .next (fails 3) ∧
      (p.kind ≠ kindFree → exec (.token p) s = .next (fails 4)) ∧ exec (.credit p) s = .next (fails 5) ∧
      exec (.refuse p) s = .next (fails 6) ∧
      exec (.split p) s = .next (upd ((taken 8).failMember i g m)) ∧
      exec (.handoff p) s = .next (upd (((taken 9).failMember i g m).ctrLimit i))) ∧
    (p.kind = kindFree → own → s.chip.jobRuns i = true → g = (s.chip.job i).group →
      let round := fieldAt p.data 0 4
      let flags := BitVec.ofNat 64 (fieldAt p.data 4 8)
      (round < 0xFFFFFFFE → exec (.token p) s = .next (upd (((taken 4).onJob i (fun j =>
        { j with tokens := j.tokens ++ [(m, round, flags, s.chip.tc)] })).jobBarrier i))) ∧
      (round = 0xFFFFFFFE → exec (.token p) s = .next (upd (taken 4))) ∧
      (round = 0xFFFFFFFF → s.chip.selfOf g = 0 → exec (.token p) s = .next (upd ((taken 4).echoProbe i m))) ∧
      (round = 0xFFFFFFFF → s.chip.selfOf g ≠ 0 → exec (.token p) s = .next (upd ((taken 4).takeEcho i flags)))) ∧
    (s.chip.jobRuns i = true → exec (.abort p) s = .next (upd (((taken 7).notify [i] ncMemberFailed
      (fieldAt p.data 0 2) (fieldAt p.data 2 4)).abortJob i none))) ∧
    (own → p.kind = 7 → exec (.split p) s = .next (upd (((taken 8).takeSplit i m s.chip.tc p).packTurn.ctrLimit i))) ∧
    (∀ b o, own → (sortedObjs (s.chip.inst i).bobjs)[p.cseq / 65536]? = some b → b.f 329 320 = g →
      let shard := p.cseq % 65536
      let size := b.elems * wBytes b.block.toNat
      let n := s.chip.groupSize g
      let me := s.chip.selfOf g
      let u := castRange size n
      let owner := (b.f 351 336 + shard) % max 1 n
      let waits := o.due = [] ∨ shard ∈ o.shardsDone ∨ s.chip.copyHeld o (b.addr + shard * size + p.offset) p.data.length = true
      let e := (taken 9).landShard i b shard p.offset p.data
      shard < b.f 383 368 → p.offset + p.data.length ≤ size → owner ≠ me → s.chip.objStart i b.addr = some o →
      (waits → exec (.handoff p) s = .next (upd (((taken 9).onGroup g (fun e =>
        { e with early := e.early ++ [(9, p, s.chip.tc)] })).ctrLimit i))) ∧
      (¬ waits → exec (.handoff p) s = .next (upd ((
        if m = owner && me * u ≤ p.offset && p.offset < (me + 1) * u then (e.others g).foldl (fun (c : Chip) k =>
          c.sendPack i g k 9 kindFree (BitVec.ofNat 32 p.cseq) 0 p.offset p.data) e
        else e).ctrLimit i))))

/-- Events of a group (R22, R297, R298, R302, R307, R311, R313 to R315, R396): the collective whose turn it is, over, leaves
the group, and the Pack engine begins and grants what it can; a device whose log stalls, or that holds another's mark, sends
hold tokens every time the hold timer ends; a member this device waits for has failed when the timeout ends; the time probe
goes to the time root, and the root sends none. -/
def Obligations.GroupEventsComplete : Prop :=
  ∀ (s : State) (i g : Nat), s.Live →
    let c := s.chip
    let upd := fun (e : Chip) => ({ s with chip := e } : State)
    (∀ x y, (c.group g).owner = some i → (c.group g).colls.find? (fun x => x.cseq = (c.group g).next) = some x →
      (c.landHeld i g x).coll g x.cseq = some y → (c.landHeld i g x).collOver i g y = true →
      exec (.collComplete g) s = .next (upd
        (((((c.landHeld i g x).dropColl g y).trailed g y.entries y.began).packTurn).ctrLimit i))) ∧
    (c.jobRuns i = true → (c.logStall i = true ∨ (c.job i).marks ≠ []) → exec (.holdTokenTimer i) s = .next (upd
      (((c.others (c.job i).group).foldl (fun (c : Chip) m =>
        c.sendPack i (c.job i).group m 4 kindFree 0 0 0 (tokenData 0xFFFFFFFE 0)) c).ctrLimit i))) ∧
    ((c.jobRuns i = false ∨ (c.logStall i = false ∧ (c.job i).marks = [])) → exec (.holdTokenTimer i) s = .next s) ∧
    (∀ m, (c.group g).owner = some i → c.jobRuns i = true → m < c.groupSize g → m ≠ c.selfOf g →
      ((∃ x ∈ (c.group g).colls, x.active = true ∧ c.owes i g x m = true) ∨
        ((c.job i).group = g ∧ ∃ b, (c.job i).barrier = some b ∧ b.done = false ∧
          m = (c.selfOf g + c.groupSize g - 2 ^ b.round % c.groupSize g) % c.groupSize g)) →
      exec (.groupTimeout g m) s = .next (upd (c.failMember i g m))) ∧
    (∀ m, (c.group g).owner = some i → c.waitsFor i g m = false → exec (.groupTimeout g m) s = .next s) ∧
    (c.jobRuns i = true → c.selfOf (c.job i).group ≠ 0 → exec (.timeProbeTimer i) s = .next (upd
      (let t1 := c.jobEc i + c.xlatTo i (c.memberDev (c.job i).group 0)
       ((c.onJob i (fun j => { j with probe := some t1 })).sendPack i (c.job i).group 0 4 kindFree 0 0 0
        (tokenData 0xFFFFFFFF 0)).ctrLimit i))) ∧
    (c.jobRuns i = false → exec (.timeProbeTimer i) s = .next s) ∧
    (c.jobRuns i = true → c.selfOf (c.job i).group = 0 → exec (.timeProbeTimer i) s = .next (upd (c.ctrLimit i)))

/-- A link's states (R256, R260 to R262, R264, R266, R267, R270, R272, R276, R279, R283 to R287): it trains on signal
detect, the words exchanged settle the plane and the version, it comes up at the end of training, it fast-retrains, it goes
down, and it shuts down; a receiver that finds no lock retrains, one that is locked judges every group, one that is not
searches. -/
def Obligations.LinkStatesComplete : Prop :=
  ∀ (s : State) (k : Nat), s.Live →
    let c := s.chip
    let l := c.link k
    let upd := fun (e : Chip) => ({ s with chip := e } : State)
    let listens := l.st = .up ∨ l.st = .fastRetrain ∨ l.st = .train106 ∨ l.st = .train53
    (k < 32 → l.st = .down → (c.unit ⟨0, k⟩).st = .enabled → c.isRetired 0 k = false →
      exec (.linkSignalDetect k) s = .next (upd (c.trainLink k))) ∧
    (l.st.live = true → exec (.linkDown k) s =
      .next (upd ((c.trainLink k).onLink k (fun l => { l with st := .down, lasers := false })))) ∧
    (l.st.live = false → exec (.linkDown k) s = .next s) ∧
    (k < 32 → ((c.unit ⟨0, k⟩).st = .shuttingDown ∨ (c.unit ⟨0, k⟩).st = .shutdownEnablePending) →
      exec (.linkShutdownComplete k) s = .next (upd
        ((c.onLink k (fun l => { l with st := .disabled, lasers := false, lock := none })).resendLink k))) ∧
    (∀ w : TrainingWords, l.st = .train53 → l.major = 0 →
      let own : TrainingWords :=
        { major2 := true, major3 := true, stepping := 0xB0, devnum := c.boot.devnum, plane := BitVec.ofNat 8 k,
          retired := l.retiredLanes, precode := c.freeNow % 2 = 1, sessionHere := w.sessionHere, sessionThere := 0 }
      let d := (c.emit (.training k own)).drew
      let m := { l with pstep := w.stepping, pplane := w.plane, pdev := w.devnum, precode := w.precode,
                        partnerRetired := w.retired, session := w.sessionHere ^^^ w.sessionThere }
      let goes := fun (e : Chip) (lanes : Nat) => if m.liveLanes < lanes then e.retireLink k 0 else e.sendProbes k
      exec (.trainingWordsReceived k w) s = .next (upd (
        if w.plane.toNat ≠ k then d.setLink k { m with st := .planeMismatch }
        else if w.major3 then goes (d.setLink k { m.startSearch with st := .train106, major := 3 }) 12
        else if w.major2 then goes (d.setLink k { m.startSearch with major := 2 }) 16
        else d.setLink k { m with st := .down, lasers := false }))) ∧
    ((l.st = .train106 ∨ (l.st = .train53 ∧ l.major = 2) ∨ l.st = .fastRetrain) →
      exec (.linkTrainingDone k) s = .next (upd (
        let d := (c.setLink k { l with
          st := .up, xlat := c.xlatOf l, probes := [], lock := some (c.trainedLock l), lockAge := 0, noMarker := 0,
          retrying := l.st = .fastRetrain, flitNo := 0 }).drew
        let d := if l.st = .fastRetrain then d.putRetry k
          else if l.major = 2 then ((List.range 16).foldl (fun (d : Chip) i =>
            if d.jobRuns i && (d.job i).encReq then d.notify [i] ncPartnerRefused k 1 else d) (d.notify [] ncLinkV2 k l.pstep.toNat))
          else d
        d.rebuild.pump k))) ∧
    (let again := (l.failedRetrains.filter (fun t => c.tc < t + 2000000000)) ++ [c.tc];
     (l.st = .fastRetrain → 3 ≤ again.length →
       exec (.fastRetrain k) s = .next (upd ((c.trainLink k).faultEvent ⟨0, k⟩ .sixteen))) ∧
     ((l.st = .up ∨ l.st = .train106 ∨ (l.st = .train53 ∧ l.major = 2) ∨ (l.st = .fastRetrain ∧ again.length < 3)) →
      let d := (((c.setLink k { l.startSearch with
        st := .fastRetrain, retrains := satAdd l.retrains 1, relocks := satAdd l.relocks 1, probes := [],
        replay := l.replay.map (fun f => { f with replays := 0 }),
        failedRetrains := if l.st = .fastRetrain then again else l.failedRetrains }).rebuild).sendProbes k).faultEvent ⟨0, k⟩ .one
      exec (.fastRetrain k) s = .next (upd d) ∧
      (l.lock = none → exec (.alignmentSearchTimeout k) s = .next (upd d)))) ∧
    (l.lock ≠ none → exec (.alignmentSearchTimeout k) s = .next s) ∧
    (∀ offset valid marker, listens → l.lock = some offset →
      exec (.flitGroupReceived k offset valid marker) s = .next (upd (
        let m := { l with lockAge := l.lockAge + 1, noMarker := if marker then 0 else l.noMarker + 1, search := [] }
        c.setLink k (if valid < 60 || 2 ≤ m.noMarker then m.loseLock offset else m)))) ∧
    (∀ offset valid marker, listens → l.lock ≠ some offset → (l.lock = none ∨ l.lockAge = 0) →
      exec (.flitGroupReceived k offset valid marker) s = .next (upd (c.searchGroup k offset valid marker))) ∧
    (∀ offset valid marker, listens → l.lock ≠ some offset → l.lock ≠ none → l.lockAge ≠ 0 →
      exec (.flitGroupReceived k offset valid marker) s = .next s)

/-- Flits and packets at a link that is up and locked (R263 to R274, R276, R278, R279, R379): what a good flit acknowledges
leaves the replay buffer and its credits count; the expected data flit is accepted; a gap in SEQ, in a flit of any type, asks
for a retry, as a lost data flit and the timer do; a RETRY sends again; then the link sends what it may. A packet that the
device takes meets its stream, one that fails to authenticate or comes in clear is counted for its instance, any other as
dropped. -/
def Obligations.LinkFlitsComplete : Prop :=
  ∀ (s : State) (k : Nat), s.Live →
    let c := s.chip
    let l := c.link k
    let upd := fun (e : Chip) => ({ s with chip := e } : State)
    (∀ f, l.st = .up → l.lock.isSome = true → l.flitOk f = true →
      let h := fieldAt f 0 12
      let d := if bits h 5 0 = 0 then c
        else c.setLink k (l.acked (BitVec.ofNat 16 (bits h 79 64)) (bits h 63 62) (bits h 61 48))
      let m := d.link k
      let gap := (BitVec.ofNat 16 (bits h 47 32) - m.rxSeq).toNat
      (bits h 31 28 = 1 → gap = 0 → exec (.dataFlit k f) s = .next (upd
        ((d.setLink k (m.accept h (cut f 12 (bits h 23 16)))).pump k))) ∧
      (bits h 31 28 = 1 → 0 < gap → gap < 32768 → exec (.dataFlit k f) s = .next (upd ((d.askRetry k).pump k))) ∧
      (bits h 31 28 = 1 → 32768 ≤ gap → exec (.dataFlit k f) s = .next (upd (d.pump k))) ∧
      ((bits h 31 28 = 0 ∨ (bits h 31 28 = 3 ∧ f.getD 12 0 ≠ 1)) →
        ((gap = 0 ∨ 32768 ≤ gap) → exec (.idleFlit k f) s = .next (upd (d.pump k))) ∧
        (0 < gap → gap < 32768 → exec (.idleFlit k f) s = .next (upd ((d.askRetry k).pump k)))) ∧
      (bits h 31 28 = 3 → f.getD 12 0 = 1 →
        let e := d.replayFrom k (BitVec.ofNat 16 (fieldAt f 14 2))
        let gap := (BitVec.ofNat 16 (bits h 47 32) - (e.link k).rxSeq).toNat
        ((gap = 0 ∨ 32768 ≤ gap ∨ (e.link k).st ≠ .up) → exec (.retry k f) s = .next (upd (e.pump k))) ∧
        (0 < gap → gap < 32768 → (e.link k).st = .up → exec (.retry k f) s = .next (upd ((e.askRetry k).pump k))))) ∧
    (∀ f, l.st = .up → l.lock.isSome = true → l.flitOk f = false →
      let d := c.setLink k { l with dropped := satAdd l.dropped 1 }
      exec (.dataFlit k f) s = .next (upd (d.askRetry k)) ∧ exec (.idleFlit k f) s = .next (upd d) ∧
      exec (.retry k f) s = .next (upd d)) ∧
    (∀ f, l.st ≠ .up ∨ l.lock = none →
      exec (.dataFlit k f) s = .next s ∧ exec (.idleFlit k f) s = .next s ∧ exec (.retry k f) s = .next s) ∧
    (l.st = .up → l.lock.isSome = true → l.retrying = true → exec (.retryRepeatTimer k) s = .next (upd (c.askRetry k))) ∧
    ((l.st ≠ .up ∨ l.lock = none ∨ l.retrying = false) → exec (.retryRepeatTimer k) s = .next s) ∧
    (∀ hdr body,
      let wire := leBytes 24 hdr.toNat ++ body
      let n := divUp wire.length 240
      let d := match l.arrived.find? (fun a => a.2 = wire) with
        | none => c
        | some a => (c.setLink k { l with arrived := (dropFirst (fun b => b = a) l.arrived), owed := lmod (· - n) l.owed a.1,
                                          back := lmod (· + n) l.back a.1 }).pump k
      (∀ p, d.openPacket hdr (packetOf hdr body) = .clear p →
        exec (.fabricPacketReceived k hdr body) s = .next (upd (d.takeStream p))) ∧
      (∀ i m, d.openPacket hdr (packetOf hdr body) = .refused i m →
        exec (.fabricPacketReceived k hdr body) s = .next (upd (d.count i m 1))) ∧
      (d.openPacket hdr (packetOf hdr body) = .stray →
        exec (.fabricPacketReceived k hdr body) s = .next (upd { d with fabricDrops := d.fabricDrops + 1 })))

/-- Lane control words and lanes (R259, R260, R262, R281 to R283, R286, R381): while the taps are tuned a tap request steps
the tap and is answered with its value; an answer is judged; a step that made the lane worse is taken back; a lane that either side retires leaves the link,
which fast-retrains or, with too few left, retires; a probe is echoed; an echo counts for the training; a lane that loses
its signal retires. -/
def Obligations.LaneWordsComplete : Prop :=
  ∀ (s : State) (k : Nat) (w : BitVec 80), s.Live →
    let c := s.chip
    let l := c.link k
    let n := wordLane w
    let t := wordTap w
    let upd := fun (e : Chip) => ({ s with chip := e } : State)
    (laneType w = some 1 → l.tunes = true → l.laneLive n = true → t ≤ 4 →
      let v := (l.lane n).taps.getD t 0 + (if wordDown w then -1 else 1)
      exec (.tapRequest k w) s = .next (upd ((c.onLane k n (fun x => { x with taps := lput x.taps t v })).emit
        (.laneWord k n (laneWord 2 (n + t * 16 + bit (wordDown w) * 128 + (BitVec.ofInt 8 v).toNat * 256)))))) ∧
    (∀ down, laneType w = some 2 → (l.lane n).asked = some (t, down) →
      exec (.tapAnswer k w) s = .next (upd (c.onLane k n (fun x => { x with
        asked := none, judged := some (t, down), partner := (lput x.partner t (BitVec.ofNat 8 (bits w.toNat 31 24)).toInt) })))) ∧
    (∀ lane corrected un, l.tunes = true → l.laneLive lane = true → (l.lane lane).asked = none →
      let d := c.onLane k lane (fun x => { x with judged := none, before := corrected })
      (∀ tap down, (l.lane lane).judged = some (tap, down) → exec (.tapStepEvaluate k lane corrected un) s =
        .next (upd (if un || (l.lane lane).before < corrected then d.askTap k lane (tap, !down) else d))) ∧
      ((l.lane lane).judged = none → exec (.tapStepEvaluate k lane corrected un) s = .next (upd
        (if c.freeNow % 2 = 0 then d.drew
         else d.drew.askTap k lane (c.freeNow / 2 % 5, decide (c.freeNow / 10 % 2 = 1)))))) ∧
    (laneType w = some 3 → l.st = .up → l.laneLive n = true →
      let m := { l with partnerRetired := l.partnerRetired ||| BitVec.ofNat 16 (2 ^ n) }
      let d := ((List.range 16).filter (m.laneLive ·)).foldl (fun (d : Chip) j => d.emit (.laneWord k j (laneWord 4 n)))
        (c.setLink k m)
      exec (.laneRetire k w) s = .next (upd (if m.liveLanes < 12 || m.major = 2 then d.retireLink k 0 else d.fastRetrain k))) ∧
    (laneType w = some 4 → n ∈ l.retiring → exec (.retireAnswer k w) s = .next (upd ((c.setLink k { l with
      retiring := l.retiring.erase n, retiredLanes := l.retiredLanes ||| BitVec.ofNat 16 (2 ^ n) }).fastRetrain k))) ∧
    (∀ m holding, (List.range 16).find? (l.laneLive ·) = some m → laneType w = some 5 → l.st.live = true →
      exec (.latencyProbe k w holding) s = .next (upd (c.emit (.laneWord k m (laneWord 6 (holding % 65536)))))) ∧
    (∀ trip, laneType w = some 6 → (l.st = .train53 ∨ l.st = .train106 ∨ l.st = .fastRetrain) → l.probes.length < 16 →
      exec (.probeEcho k w trip) s =
        .next (upd (c.setLink k { l with probes := l.probes ++ [trip - bits w.toNat 31 16] }))) ∧
    (∀ lane, lane < 16 → k < 32 → l.st = .up → c.isRetired 6 (16 * k + lane) = false →
      exec (.laneLossOfSignal k lane) s = .next (upd (c.retire ⟨6, 16 * k + lane⟩ 0)))

/-- Faults and health of units (R170, R175, R176, R287, R381 to R383): an event fills its unit's bucket, which retires the
unit at the threshold, and the leak empties it; a controller counts a corrected granule once in a second; a poisoned read
poisons the granule and is counted; windows come one at a time and in PC order in a stack; windows, retunes and temperatures
change what the channels give. -/
def Obligations.UnitFaultsComplete : Prop :=
  ∀ (s : State), s.Live →
    let c := s.chip
    let upd := fun (e : Chip) => ({ s with chip := e } : State)
    (∀ u w, unitOk u = true →
      let d := if u.cls = 6 ∧ w = .one then c.onLink (u.idx / 16) (fun l => { l with uncorr := satAdd l.uncorr 1 }) else c
      let v := min (threshold u.cls) (c.bucket u + (if w = .one then 1 else 16))
      (c.isRetired u.cls u.idx = false → hasEvent u.cls w = true →
        (w = .atOnce → exec (.faultEvent u w none) s = .next (upd (d.retire u 0))) ∧
        (w ≠ .atOnce → v ≠ threshold u.cls → exec (.faultEvent u w none) s =
          .next (upd { (d) with buckets := (tput c.buckets (unitKey u) v) })) ∧
        (w ≠ .atOnce → v = threshold u.cls → exec (.faultEvent u w none) s =
          .next (upd (({ (d) with buckets := (tput c.buckets (unitKey u) v) } : Chip).retire u 0)))) ∧
      ((c.isRetired u.cls u.idx = true ∨ hasEvent u.cls w = false) → exec (.faultEvent u w none) s = .next (upd d)) ∧
      (∀ g, c.remembered u g = true → exec (.faultEvent u w (some g)) s = .next (upd d)) ∧
      (∀ g, c.remembered u g = false → exec (.faultEvent u w (some g)) s = .next (upd ((d.remember u g).faultEvent u w)))) ∧
    (∀ u, unitOk u = true →
      exec (.bucketLeak u) s = .next (upd { (c) with buckets := (tput c.buckets (unitKey u) (c.bucket u - 1)) })) ∧
    (∀ i a o e, c.objNear i a = some o → (∀ m < copiesOf o.cls, c.poisonedIn i m a 1 = []) →
      o.extents[(a - o.addr) / extentBytes]? = some e → e.place.tier ≠ 2 →
      let d := { (c) with poison := (c.poison ++ [dramKey i 0 a / 64]), poisonReads := (satAdd c.poisonReads 1) }
      exec (.poisonedRead i a) s = .next (upd (if c.jobRuns i then d.selfFail i else d))) ∧
    (∀ pc, pc < 1024 →
      (c.nextWindow (pc / 64) = some pc → (∀ w ∈ c.windows, w / 64 ≠ pc / 64) → exec (.calibrationWindowStart pc) s = .next (upd
        { (c) with windows := (c.windows ++ [pc]), calNext := (tput c.calNext (pc / 64) ((pc + 1) % 64)) })) ∧
      ((c.nextWindow (pc / 64) ≠ some pc ∨ ∃ w ∈ c.windows, w / 64 = pc / 64) →
        exec (.calibrationWindowStart pc) s = .next s)) ∧
    (∀ pc moved below, pc ∈ c.windows → exec (.calibrationWindowEnd pc moved below) s = .next (upd (
      let d := c.liveInsts.foldl (fun (d : Chip) i => d.replayHandoffs i) { (c) with windows := (c.windows.filter (· ≠ pc)) }
      let d := if moved then { (d) with codes := (tput d.codes pc (tget 0 d.codes pc + 1)) } else d
      if below then d.faultEvent ⟨4, pc⟩ .one else d))) ∧
    (∀ ch moved below, ch < 96 → c.isRetired 5 ch = false → exec (.channelRetune ch moved below) s = .next (upd (
      let d := { (c) with codes := (if moved then tput c.codes (1024 + ch) (tget 0 c.codes (1024 + ch) + 1) else c.codes) }
      if below then d.faultEvent ⟨5, ch⟩ .one else d))) ∧
    (∀ channel idx, exec (.temperatureHot channel idx) s = .next (upd (c.setHot channel true idx)) ∧
      exec (.temperatureCool channel idx) s = .next (upd (c.setHot channel false idx)))

/-- Extents (R162, R164, R165, R167, R168, R384): every age rises by one, and stays at its top; a move copies its 64 panels,
switches the map, and releases the old place, and what waited for it goes on; an eviction moves data off a retired unit
first, or with no room anywhere poisons what cannot move, then lays out again what a retired channel has left, then moves the
extent it picks, or says OVER_QUOTA. No move starts for an instance in its reset. -/
def Obligations.ExtentEventsComplete : Prop :=
  ∀ (s : State) (i : Nat), s.Live →
    let c := s.chip
    let upd := fun (e : Chip) => ({ s with chip := e } : State)
    let dead := fun (tier : Nat) => (c.settled i tier).find? (fun x => c.deadPlace x.2.2.place)
    exec .extentAgeTick s = .next (upd { (c) with insts := (c.insts.map (fun e => (e.1, { e.2 with objs := (e.2.objs.map (fun o =>
      { o with extents := o.extents.map (fun x => { x with age := satAdd x.age 1 }) })) }))) }) ∧
    (∀ obj ext n, c.stageOf i obj ext = some (.copy n) → exec (.migrationPanelCopyDone i obj ext) s = .next (upd
      ((c.onExtent i obj ext (fun e => { e with stage := some (if n < 63 then .copy (n + 1) else .commit) })).replayHandoffs
        i))) ∧
    (∀ obj ext o e, c.objStart i obj = some o → o.extents[ext]? = some e → e.stage = some .commit →
      exec (.migrationCommit i obj ext) s = .next (upd (
        let d := c.onExtent i obj ext (fun e =>
          { e with place := e.other.getD e.place, other := some e.place, stage := some .release, relay := false })
        let d := ((d.rowsMoved i o ext e.place (e.other.getD e.place)).quotaSettle i).replayHandoffs i
        match (d.objStart i obj).bind (·.migration) with
        | some m => d.nextMove i obj m.todo
        | none => d))) ∧
    (∀ obj ext, c.stageOf i obj ext = some .release → exec (.migrationRelease i obj ext) s = .next (upd
      (c.onExtent i obj ext (fun e => { e with other := none, stage := none })))) ∧
    (∀ tier, (c.inst i).resetting ≠ none → exec (.quotaEvictionTick i tier) s = .next s) ∧
    (∀ tier, (c.inst i).resetting = none →
      (∀ o k e, dead tier = some (o, k, e) →
        (∀ pl rot, c.placeIn i 1 (copiesOf o.cls) 1 = some ([pl], rot) →
          exec (.quotaEvictionTick i tier) s = .next (upd (c.startMove i o.addr k pl rot))) ∧
        (c.placeIn i 1 (copiesOf o.cls) 1 = none → exec (.quotaEvictionTick i tier) s = .next (upd (c.loseExtent i o k)))) ∧
      (∀ o k e, dead tier = none → (c.settled i tier).find? (fun x => x.2.2.relay) = some (o, k, e) →
        exec (.quotaEvictionTick i tier) s = .next (upd (c.startMove i o.addr k e.place ((c.inst i).rot.getD tier 0)))) ∧
      (dead tier = none → (c.settled i tier).find? (fun x => x.2.2.relay) = none →
        (∀ g d, tier = 0 → c.excessGroup i = some g → c.evictStep i 0 (some g) = some d →
          exec (.quotaEvictionTick i tier) s = .next (upd d)) ∧
        (tier = 0 → c.excessGroup i = none → exec (.quotaEvictionTick i tier) s = .next s) ∧
        ((tier = 1 ∨ tier = 2) →
          let above := c.use i tier - c.leaving i tier - c.quota i tier
          ((c.inst i).evicting.contains tier = true ∨ (if tier = 1 then (c.inst i).overMod else (c.inst i).overExp) = true) →
          (above = 0 → exec (.quotaEvictionTick i tier) s = .next (upd (c.quotaSettle i))) ∧
          (∀ d, above ≠ 0 → c.evictStep i tier none = some d → exec (.quotaEvictionTick i tier) s = .next (upd d)) ∧
          (above ≠ 0 → c.evictStep i tier none = none → c.leaving i tier = 0 →
            exec (.quotaEvictionTick i tier) s = .next (upd (c.overQuota i tier above))))))

/-- The sideband (R343 to R347, R402) while VAUX runs: the SMBus target answers every Block Read, with a PEC byte where the
controller reads one (log 13), and the alert response while SMBALERT# is low; the I2C controller counts every failure of a
poll and tries again up to three times, then takes the readings, and recovers or retires a bus; JTAG loads each instruction,
drives the boundary only in a held cold reset, and a debug instruction without a debug session selects the bypass register. -/
def Obligations.SidebandComplete : Prop :=
  ∀ (s : State), s.power.broken = false →
    let out := fun (o : Out) => ({ s with chip := s.chip.emit o } : State)
    let block := fun (code : Nat) (bs : List Byte) (pec : Bool) =>
      out (.smbus bs (if pec then some (blockPec s.chip.boot.smbusAddr code bs) else none))
    let held := s.power.phase = .coldReset && s.power.coldHold
    (s.power.inputOk = true →
      (∀ pec dies, exec (.identity pec) s = .next (block 0 (leBytes 8 idReg.toNat) pec) ∧
        exec (.serial pec) s = .next (block 1 (leBytes 8 Config.serial.toNat) pec) ∧
        exec (.status pec) s = .next (block 2 (leBytes 4 s.statusBits) pec) ∧
        exec (.temps pec dies) s = .next (block 3 (((List.range 4).map (fun k => dies.getD k 0x8000) ++
          s.chip.side.temps.drop 4).flatMap (fun t => leBytes 2 t.toNat)) pec) ∧
        exec (.power pec) s = .next (block 4 (leBytes 4 (meanOf s.chip.side.pins)) pec) ∧
        exec (.rails pec) s = .next (block 5 (s.chip.side.rails.flatMap (fun t => leBytes 2 t.toNat)) pec)) ∧
      (s.chip.smbAlert = true → exec .alertResponseAddressRead s =
        .next (out (.smbus [BitVec.ofNat 8 (2 * s.chip.boot.smbusAddr.toNat)] none))) ∧
      (s.chip.smbAlert = false → exec .alertResponseAddressRead s = .next (out .smbusNack)) ∧
      (∀ bus faults readings, bus < 4 → s.chip.isRetired 10 bus = false →
        let c := (faults.take 4).foldl (fun (c : Chip) _ => if c.isRetired 10 bus then c
          else ((c.countBus bus 0 1).countBus bus 1 1).faultEvent ⟨10, bus⟩ .one) s.chip
        ((4 ≤ faults.length ∨ c.isRetired 10 bus = true) →
          exec (.i2cPollTimer bus faults readings) s = .next { s with chip := c }) ∧
        (faults.length < 4 → c.isRetired 10 bus = false → exec (.i2cPollTimer bus faults readings) s =
          .next { s with chip := { (c.countBus bus 0 1) with side := ((c.countBus bus 0 1).side.poll bus readings) } })) ∧
      (∀ bus n, bus < 4 → s.chip.isRetired 10 bus = false →
        let c := (s.chip.countBus bus 2 (s.chip.freeNow % 2)).drew
        ((n = 1 ∨ n = 2 ∨ n = 3) → exec (.i2cBusRecovery bus n) s = .next { s with chip := c }) ∧
        ((n = 0 ∨ 3 < n) → exec (.i2cBusRecovery bus n) s = .next { s with chip := (c.retire ⟨10, bus⟩ 0) }))) ∧
    (s.power.inputOk = false → ∀ pec dies, exec (.identity pec) s = .next s ∧ exec (.serial pec) s = .next s ∧
      exec (.status pec) s = .next s ∧ exec (.temps pec dies) s = .next s ∧ exec (.power pec) s = .next s ∧
      exec (.rails pec) s = .next s ∧ exec .alertResponseAddressRead s = .next s) ∧
    exec .bypass s = .next (s.jtag .bypass false) ∧
    exec .idcode s = .next { (s.jtag .idcode false) with chip := ((s.jtag .idcode false).chip.emit
      (.jtag [0xEB, 0x01, 0x60, 0x11])) } ∧
    exec .samplePreload s = .next (s.jtag .samplePreload false) ∧
    exec .extest s = .next (s.jtag .extest held) ∧
    exec .clamp s = .next (s.jtag .clamp held) ∧
    (∀ code, s.chip.side.debugOpen = false → exec (.jtagDebugInstruction code) s = .next (s.jtag .bypass false))

/-- Frames at an Ethernet port (R335 to R337, R379): a port that is not up drops them all; one that is up counts each, drops
and counts one above 9,216 bytes and one without the port's VLAN, and answers ARP, a neighbour solicitation and an echo
request to an address of its own; any other frame, and a UDP datagram for another MAC or IP address, is counted as unmatched,
and one with a wrong checksum as malformed. The places of the counts are the model's reading (log 82). -/
def Obligations.FramesComplete : Prop :=
  ∀ (s : State) (port : Nat), s.Live →
    let upd := fun (e : Chip) => ({ s with chip := e } : State)
    let c := s.chip.heardFrame port
    let answered := fun (o : Out) => upd ((c.onEth port (fun e => { e with tx := satAdd e.tx 1 })).emit o)
    let unmatched := upd (c.onEth port (fun e => { e with noMatch := satAdd e.noMatch 1 }))
    let malformed := upd (c.onEth port (fun e => { e with malformed := satAdd e.malformed 1 }))
    let up := port < 2 ∧ s.chip.ethUp port = true
    let framed := fun (vlan : Option Nat) (n : Nat) (good : State) =>
      if 9216 < 18 + (if vlan.isSome then 4 else 0) + n then malformed else if vlan ≠ s.chip.vlan port then unmatched else good
    let size := fun (f : Frame) (n : Nat) => (if isV4 f.dst then n else n + 20)
    (up → (∀ vlan target sender mac, exec (.arpRequest port vlan target sender mac) s = .next (framed vlan 46
      (if target ≠ 0 ∧ target = s.chip.ipv4 port then answered (.arpReply port vlan target sender mac (Config.mac port))
       else unmatched))) ∧
     (∀ vlan target sender mac, exec (.neighborSolicitation port vlan target sender mac) s = .next (framed vlan 72
      (if target ≠ 0 ∧ target = s.chip.ipv6 port then answered (.neighborAdvert port vlan target sender mac (Config.mac port))
       else unmatched))) ∧
     (∀ f body, exec (.echoRequest port f body) s = .next (framed f.vlan (size f 24 + body.length)
      (if f.mac = Config.mac port ∧ ((f.dst ≠ 0 ∧ f.dst = s.chip.ipv6 port) ∨
          (s.chip.ipv4 port ≠ 0 ∧ f.dst = mapped (s.chip.ipv4 port))) then answered (.echoReply port f.vlan f.dst f.src body)
       else unmatched))) ∧
     exec (.unmatchedFrame port false) s = .next unmatched ∧ exec (.unmatchedFrame port true) s = .next malformed ∧
     (∀ f sp dp sum data, ¬ s.chip.TakesUdp port f sp dp sum data →
      exec (.feedDatagram port f sp dp sum data) s = .next (framed f.vlan (size f 28 + data.length)
        (if f.mac ≠ Config.mac port ∨ s.chip.ownAddr port f.dst = false then unmatched else malformed))) ∧
     (∀ f sp sum hdr seg, ¬ s.chip.TakesUdp port f sp icpPort sum (leBytes 16 (BitVec.toNat hdr) ++ seg) →
      exec (.udpSegment port f sp sum hdr seg) s = .next (framed f.vlan (size f 28 + (16 + seg.length))
        (if f.mac ≠ Config.mac port ∨ s.chip.ownAddr port f.dst = false then unmatched else malformed)))) ∧
    (¬ up → (∀ vlan target sender mac, exec (.arpRequest port vlan target sender mac) s = .next s) ∧
     (∀ vlan target sender mac, exec (.neighborSolicitation port vlan target sender mac) s = .next s) ∧
     (∀ f body, exec (.echoRequest port f body) s = .next s) ∧ (∀ m, exec (.unmatchedFrame port m) s = .next s) ∧
     (∀ f sp dp sum data, exec (.feedDatagram port f sp dp sum data) s = .next s) ∧
     (∀ f sp sum hdr seg, exec (.udpSegment port f sp sum hdr seg) s = .next s))

/-- The machine after reset has a sound supply, is booted and has no command waiting, no instance, no session and no open
memory: the unit as shipped (R9, R393, R411). -/
def Obligations.SupplySoundAtReset : Prop :=
  Sys2Proof.core.reset.power.Sound ∧ Sys2Proof.core.reset.Live ∧ Sys2Proof.core.reset.pending = [] ∧
    Sys2Proof.core.reset.chip.liveInsts = [] ∧ Sys2Proof.core.reset.chip.sessions = [] ∧
    (∀ t, Sys2Proof.core.reset.chip.ownerOf t = none)

/-- Every step from a state whose supply is sound leaves a sound supply (R395, R399, R402, R406). That a lost supply under
running logic counts as sound is the model's reading of R399's undefined module. -/
def Obligations.SupplyStaysSound : Prop :=
  ∀ s t : State, s.power.Sound → Sys2Proof.core.step s = .next t → t.power.Sound

/-- Whatever command is carried out, the queue of waiting commands stays as it is: taking from it is the step's own work
(02_iboon_protocol: OWL starts the items of a queue one after the other). -/
def Obligations.NoCommandTouchesTheQueue : Prop :=
  ∀ (i : Instr) (s t : State), exec i s = .next t → t.pending = s.pending

/-- The supply, its rails, its pins and the phase of the boot change by the commands of the supply, the boot and the resets
and by no other command (R390, R393 to R395, R402, R406). -/
def Obligations.OnlySupplyCommandsMoveTheSupply : Prop :=
  ∀ (i : Instr) (s t : State), i.movesSupply = false → exec i s = .next t → t.power = s.power

/-- A module that is not running comes to run by COLD_BOOT alone, from cold reset, and only with COLD_HOLD# high (R393,
R402). -/
def Obligations.OnlyTheBootStartsTheModule : Prop :=
  ∀ (i : Instr) (s t : State), s.power.phase ≠ .running → exec i s = .next t → t.power.phase = .running →
    (∃ ds, i = .coldBoot ds) ∧ s.power.phase = .coldReset ∧ s.power.coldHold = false

/-- Once the input has left its range under running logic, R399 gives the module no result: the input comes and goes, a fall
of PWR_OK puts it into cold reset with rails 6 to 0 off and an open configuration store, and every other command stops with
the fault that names it. That it stops the model, and what stands in the store, are the model's form of that undefined
module (log 63). -/
def Obligations.BrokenSupplyEndsAtPowerOff : Prop :=
  ∀ (i : Instr) (s : State), s.power.broken = true →
    exec .powerInputInRange s =
      .next { s with power := { s.power with inputOk := true, rails := s.power.rails ||| 0x80 } } ∧
    exec .inputLeavesRange s =
      .next { s with power := { s.power with inputOk := false, rails := s.power.rails &&& 0x7F } } ∧
    (∃ st : Store, exec .pwrOkFall s =
      .next { s with chip := { s.chip.coldReset with store := st, side := Side.initial, freeCount := s.chip.freeCount + 1 }
                     power := { s.power with broken := false, pwrOk := false, therm := false, phase := .off, cause := 0,
                                             otherCopy := false, rails := if s.power.inputOk then 0x80 else 0 } }) ∧
    (i ≠ .powerInputInRange → i ≠ .inputLeavesRange → i ≠ .pwrOkFall → exec i s = .fault .supplyUndefined)

/-- COPY between tile stores (R100, R102), with no other write in progress: byte k of the destination reads what byte k of the
source read before the command, also where the two ranges overlap, and every other byte of every tile's store reads as
before. Whatever else is in progress, every part of the chip but its tiles, and the model's count of free values, is
unchanged. -/
def Obligations.CopyMovesBytes : Prop :=
  ∀ (s s' : State) (i t : Nat) (d : Desc),
    let n := vLength d
    let byte := fun (c : Chip) (u a : Nat) => c.storeRead u a 1
    s.Issues i t (2 + dCh d) d → dOp d = 0x00 → refSpace (vSrc d) ≠ 2 → refSpace (vDst d) ≠ 2 →
      s.chip.rowsFault i d n [(0, 0)] = none → exec (.copy t d) s = .next s' →
      ((∀ e ∈ s.chip.tiles, ∀ b ∈ e.2.before, s.chip.inProgress b = false) →
        (∀ k, k < n → byte s'.chip (refStore t (vDst d)) (refOff (vDst d) + k) =
          byte s.chip (refStore t (vSrc d)) (refOff (vSrc d) + k)) ∧
        (∀ u a, u ≠ refStore t (vDst d) ∨ a < refOff (vDst d) ∨ refOff (vDst d) + n ≤ a → byte s'.chip u a = byte s.chip u a) ∧
        s'.chip.freeCount = s.chip.freeCount) ∧
      { s'.chip with tiles := s.chip.tiles, freeCount := s.chip.freeCount } = s.chip

/-- An update of a tile's semaphore (R235, R238 to R240): within 0 to 65,535 it gives the sum and leaves every other semaphore
alone; one that would leave that range leaves them all as they stand and faults the sender's launch, at once where the
sender is the tile, else through the acknowledgement that carries the cause, 10h below 0 and 11h above 65,535, with an error
word that names the sender and its descriptor; a HOST_SIGNAL gets DESCRIPTOR_ERROR (R253). An update by 0 or more never
underflows. In a tc the block applies the tile's own SIGNAL first, then header SIGs by unit, then the signal of the network,
each on what the one before left, and then tests the wait. -/
def Obligations.SignalsStayInRange : Prop :=
  (∀ (c : Chip) (t : Nat) (u : Due),
    let v := ((c.tile t).sem u.sem : Int) + u.count
    let e := c.semApply t u
    let cause := if v < 0 then 0x10 else 0x11
    (0 ≤ v → v ≤ 65535 → (((e.tile t).sem u.sem : Nat) : Int) = v ∧
      ∀ x m, x ≠ t ∨ m ≠ u.sem → (e.tile x).sem m = (c.tile x).sem m) ∧
    (v < 0 ∨ 65535 < v →
      (∀ x m, (e.tile x).sem m = (c.tile x).sem m) ∧
      (∀ slot i r l, u.sender = .tile t slot → c.ownerOf t = some i → (c.tile t).launch = some r → c.launchBy i r = some l →
        l.fault = none → l.final = none →
          e.launchBy i r = some { l with fault := some (errorWord slot t cause, c.tc, t) }) ∧
      (∀ x slot, u.sender = .tile x slot → x ≠ t →
        e = { c with acks := c.acks ++ [{ target := x, source := t, slot := slot, cause := cause }] }) ∧
      (∀ q, u.sender = .host q → e = c.reply q.queue q.tag stDescriptorError (errorWord 0 0x7FF cause).toNat 0 []))) ∧
  (∀ (s : State) (t n i : Nat) (x : Ack) (r : Ref) (l : Launch), s.Live →
    s.chip.acks.find? (fun y => y.target = t && y.source = n) = some x → x.cause ≠ 0 → s.chip.ownerOf t = some i →
    (s.chip.tile t).launch = some r → s.chip.launchBy i r = some l → l.fault = none → l.final = none →
      ∃ e, exec (.signalAckReceived t n) s = .next { s with chip := e } ∧
        e.launchBy i r = some { l with fault := some (errorWord x.slot t x.cause, s.chip.tc, t) } ∧
        ∀ u m, (e.tile u).sem m = (s.chip.tile u).sem m) ∧
  (∀ (c : Chip) (t : Nat), let us := (c.tile t).due
    us ≠ [] → (∀ u ∈ us, u.rank ≤ 5) → ∃ vs : List Due, vs.Perm us ∧ vs.Pairwise (fun a b => a.rank ≤ b.rank) ∧
      c.semBlock t = (vs.foldl (fun (d : Chip) u => d.semApply t u) (c.onTile t (fun k => { k with due := [] }))).testHold t) ∧
  (∀ v n : Nat, semAdd 65535 v n ≠ .inr 0x10)

/-- The flip of a job that goes on (R11, R20, R21, R144): the epoch rises by one, the phase is compute, SKIPPED tells the
vote; a set vote takes one from the loss scale and restarts the clean-step count; a vote that passed counts a clean step,
and the 2,000th raises the loss scale, to 24 at most. A skipped step that publishes nothing leaves model space alone. -/
def Obligations.FlipMovesTheLossScale : Prop :=
  ∀ (s : State) (i : Nat) (b : Barrier), s.Live →
    let j := s.chip.job i
    j.phase = .flip → j.barrier = some b → b.vote = false → b.done = true → j.epoch ≠ 0xFFFFFFFFFFFF → j.ending = none →
      j.encReq = false →
      ∃ e : Chip, exec (.flip i) s = .next { s with chip := e } ∧
        (e.job i).phase = .compute ∧ (e.job i).epoch = j.epoch + 1 ∧ (e.job i).skipped = j.voteSet ∧
        (e.job i).lexp = (if j.voteSet then j.lexp - 1 else if j.clean + 1 = 2000 then min (j.lexp + 1) 24 else j.lexp) ∧
        (e.job i).clean = (if j.voteSet then 0 else if j.clean + 1 = 2000 then 0 else j.clean + 1) ∧
        (j.voteSet = true → j.publish = none → e.dram = s.chip.dram ∧ e.poison = s.chip.poison)

/-- A barrier of n members runs the least number of rounds R with n ≤ 2^R. Let member k, with its own flag word, hold the
tokens of every round, in any order: the one of round r from member (k − 2^r) mod n, which carries the words that this
member had heard by then. Then the barrier of k ends with the OR of all flag words, no token is left, and k has sent in each
round r, to member (k + 2^r) mod n, the OR of the words heard by then. With n = 1 it ends at once (R305). -/
def Obligations.BarrierEndsWithEveryFlag : Prop :=
  ∀ (n k : Nat) (flags : Nat → Double) (when : Nat → Nat) (vote : Bool) (now : Nat) (ts : List (Nat × Nat × Double × Nat)),
    0 < n → n ≤ 65536 → k < n →
      let R := barrierRounds n
      let from' := fun r => memberBack n k (2 ^ r)
      let run := (Barrier.enter vote (flags k) now).advance n k (R + 1) ts
      ts.Perm ((List.range R).map (fun r => (from' r, r, heard n flags (from' r) r, when r))) →
        (n ≤ 2 ^ R ∧ (0 < R → 2 ^ (R - 1) < n)) ∧ run.1.done = true ∧ run.2.1 = [] ∧
        (∀ x, run.1.acc.getLsbD x = (List.range n).any (fun m => (flags m).getLsbD x)) ∧
        firstTokens n (flags k) ++ run.2.2 = (List.range R).map (fun r => (r, heard n flags k r)) ∧
        (∀ (c : Chip) (i g kind mark r : Nat) (cseq : Word) (w : Double), c.sendTokens i g kind cseq mark [(r, w)] =
          c.sendPack i g ((c.selfOf g + 2 ^ r) % c.groupSize g) 4 kind cseq mark 0 (tokenData r w))

/-- The sum that the Pack engine forms over a group of 1 to 65,536 members is the one of R300's loop, with p = 2^m the largest
power of two not above n, whatever the values are, and it counts the NaNs and saturations of all its additions (R122). -/
def Obligations.PackSumFollowsTheOrder : Prop :=
  ∀ (m : Nat) (c : List Machine.Num), 2 ^ m ≤ c.length → c.length < 2 ^ (m + 1) → c.length ≤ 65536 → packSum c = packLoop m c

/-- An update of a hub semaphore that does not fault, by the host or by a tile (R247, R249): the host waits on it that end
are its oldest ones, in order; the value is the sum less their COUNTs; the oldest that is left is not satisfied, also where
a later one would be; other semaphores and the waits on them stay. HOST_SIGNAL and the
tile's descriptor make just this update. -/
def Obligations.HubWaitsEndInOrder : Prop :=
  (∀ (c e : Chip) (i sem v : Nat) (count : Int), c.hubAdd i sem count = .inr (v, e) →
    let on := fun (x : Chip) => (x.inst i).waits.filter (fun w => w.sem = sem)
    let value := fun (x : Chip) (n : Nat) => (tget 0 (x.inst i).hubSems n).toNat
    (v : Int) = (value c sem : Int) + count ∧
    ∃ k, on e = (on c).drop k ∧ value e sem + (((on c).take k).map (·.count)).sum = v ∧
      (∀ w, (on e).head? = some w → value e sem < w.count) ∧
      (e.inst i).waits.filter (fun w => w.sem ≠ sem) = (c.inst i).waits.filter (fun w => w.sem ≠ sem) ∧
      ∀ n, n ≠ sem → value e n = value c n) ∧
  (∀ (s : State) (p : Icp) (v : Nat) (e : Chip), s.Takes 0x56 p → p.par 0 1 = 1 → p.par 16 4 = 0 →
    toSigned 32 (p.par 8 4) ≠ 0 → (s.chip.begun 0x56 p).hubAdd p.who (p.bits 45 40) (toSigned 32 (p.par 8 4)) = .inr (v, e) →
      exec (.hostSignalHub p) s = .next { s with chip := e.reply p.queue p.tag stOK 0 v [] }) ∧
  (∀ (s : State) (i t v : Nat) (d : Desc) (e : Chip), s.Fetches i t d → dSig d = false → dOp d = 0x78 →
    ((s.chip.passFence t d).onTile t (fun k => { k with unacked := k.unacked + 1 })).hubAdd i (kSem d) (toSigned 32 (kCount d)) =
      .inr (v, e) → exec (.hostSignalDescriptor t d) s = .next { s with chip := (
        ({ (e) with acks := (e.acks ++ [{ target := t, source := 1600, slot := (s.chip.tile t).pc, cause := 0 }]) } : Chip).advance t
          (s.chip.tile t).pc) })

/-- A NOP without SIG at the end of the innermost REPEAT's span (R113, R114): while iterations are left the sequencer goes
back to the span's first descriptor, one iteration further; after the last it goes on behind the span with that REPEAT
over; before the end of the span it goes to the next descriptor. Nothing else of the tile changes but what its fence lets
go. -/
def Obligations.RepeatGoesRound : Prop :=
  ∀ (s : State) (i t : Nat) (d : Desc) (l : Loop) (ls : List Loop),
    let c := s.chip.passFence t d
    let k := c.tile t
    let on := fun (v : Tile) => ({ s with chip := c.setTile t v } : State)
    s.Live → s.chip.ownerOf t = some i → k.run = .running → k.ended = false → k.hold = none → k.loops = l :: ls →
      s.chip.stands t k.pc d = true → s.chip.fetchFault i k.pc k.loops d = none → k.stalls d = false → dWait d = false →
      dSig d = false → dOp d = 0x70 →
      (k.pc + 64 = l.past → l.iter + 1 < l.count → l.first < storeBytes →
        exec (.nopDescriptor t d) s = .next (on { k with pc := l.first, loops := { l with iter := l.iter + 1 } :: ls })) ∧
      (k.pc + 64 = l.past → l.count ≤ l.iter + 1 → (∀ m ∈ ls.head?, m.past ≠ l.past) → k.pc + 64 < storeBytes →
        exec (.nopDescriptor t d) s = .next (on { k with pc := k.pc + 64, loops := ls })) ∧
      (k.pc + 64 ≠ l.past → k.pc + 64 < storeBytes → exec (.nopDescriptor t d) s = .next (on { k with pc := k.pc + 64 }))

/-- The other forms of STASH_PUT and STASH_GET on an empty DMA channel (R128, R132, R133, R178, R179, R181): a PUT whose
directory is full lands and is counted, not recorded; with CMP 1 the codes of the quantised rows are stored, then the scale
set; a GET with CMP 1 dequantises what is stored; a GET of no rows only stages the layers within its distance. -/
def Obligations.StashFormsComplete : Prop :=
  ∀ (s : State) (i t : Nat) (d : Desc),
    let u := 2 + dCh d
    let z := s.seen i t u d
    let f := fmtOf (swFmt d)
    let n := swElems d
    let put := refAddr (vDst d)
    let rows := (List.range (vRows d)).map (fun r => z.storeRead t (refOff (vSrc d) + r * vSstride d) (vLength d))
    let lines := rows.map (fun bs => (f.unpack n bs).map f.decode)
    let set := scalePass .e4m3 lines (groupLines n)
    let out := List.zipWith (fun l (s : Machine.Num × Nat) => l.map (quantise .e4m3 s.1 s.2)) lines
      (readScales set (vRows d) (groupLines n))
    let k := cvCounts (out.flatMap id)
    s.Issues i t u d →
      (dOp d = 0x05 → swCmp d = false → (s.chip.inst i).stash.length = 4096 → exec (.stashPut t d) s =
        .next (s.ran i t u d (fun c => ((c.copyWrite i 0 put (rows.flatMap id)).wakeHub 1).count i 9 1) false)) ∧
      (dOp d = 0x05 → swCmp d = true → (s.chip.inst i).stash.length < 4096 → exec (.stashPut t d) s =
        .next (s.ran i t u d (fun c =>
          ((((c.copyWrite i 0 put (out.flatMap (fun l => Fmt.e4m3.pack (l.map (·.code))))).copyWrite i 0 (put + swCodes d)
            set).countConv i k.1 k.2).wakeHub 1).onInst i (fun x => { x with stash := x.stash ++
              [{ addr := put, bytes := swRange d, layer := swLayer d, staged := false }] })) false)) ∧
      (∀ o, dOp d = 0x06 → swCmp d = true → swDist d = 0 → vRows d ≠ 0 →
        z.stashAt i (refAddr (vSrc d)) (swRange d) = some o →
        let bs := z.copyRead i o 0 (refAddr (vSrc d)) (swRange d)
        let got := (readScales (bs.drop (swCodes d)) (vRows d) (groupLines n)).mapIdx (fun r (s : Machine.Num × Nat) =>
          (cut bs (r * n) n).map (fun b => dequantise .e4m3 f s.1 s.2 b.toNat))
        let k := cvCounts (got.flatMap id)
        exec (.stashGet t d) s = .next (s.ran i t u d (fun c =>
          (((c.wakeHub 1).unstage i (refAddr (vSrc d)) (swRange d)).storeWrite t (refOff (vDst d))
            (got.flatMap (fun l => f.pack (l.map (·.code))))).countConv i k.1 k.2) false)) ∧
      (dOp d = 0x06 → vRows d = 0 → exec (.stashGet t d) s = .next (s.ran i t u d (fun c =>
        ((List.range (min (swDist d) (swLayer d))).map (fun k => swLayer d - 1 - k)).foldl
          (fun (c : Chip) l => c.stageLayer i l) (c.wakeHub 1)) false))

/-- Every code of an 8-bit or 4-bit format whose value is not NaN converts back to itself, and nothing is counted (R116 to
R121). -/
def Obligations.CodesSurviveARoundTrip : Prop :=
  ∀ f ∈ [Fmt.e4m3, .e5m2, .e2m1, .i8, .i4, .a8, .b4], ∀ k < 2 ^ f.width, (f.decode k).isNan = false →
    f.convert (f.decode k) = { code := k }
end

