-- ==== Sys2Proof/Laws/Tables.lean ====
section
/-! SUPPORT. Entries of sparse tables and of lists: what a read finds after a write. -/

namespace Sys2Proof.Machine

@[simp] theorem tfind_tput_self {α : Type} (t : Tab α) (n : Nat) (v : α) : tfind (tput t n v) n = some v := by
  induction t with
  | nil => simp [tput, tfind]
  | cons e r ih =>
    obtain ⟨k, w⟩ := e
    unfold tput
    split
    · simp [tfind]
    · split
      · simp [tfind]
      · rename_i h _; simp [tfind, h, ih]

@[simp] theorem tfind_tput_ne {α : Type} (t : Tab α) {n m : Nat} (v : α) (h : n ≠ m) :
    tfind (tput t n v) m = tfind t m := by
  induction t with
  | nil => simp [tput, tfind, h]
  | cons e r ih =>
    obtain ⟨k, w⟩ := e
    unfold tput
    split
    · rename_i hk; subst hk; simp [tfind, h]
    · split
      · rw [tfind]; simp [h]
      · simp [tfind, ih]

/-- An entry reads back as it was set. -/
@[simp] theorem tget_tput_self {α : Type} (d : α) (t : Tab α) (n : Nat) (v : α) : tget d (tput t n v) n = v := by
  simp [tget]

/-- Setting an entry leaves every other entry alone. -/
@[simp] theorem tget_tput_ne {α : Type} (d : α) (t : Tab α) {n m : Nat} (v : α) (h : n ≠ m) :
    tget d (tput t n v) m = tget d t m := by
  simp [tget, h]

/-- Setting an entry twice leaves the second value. -/
@[simp] theorem tput_tput {α : Type} (t : Tab α) (n : Nat) (v w : α) : tput (tput t n v) n w = tput t n w := by
  induction t with
  | nil => simp [tput]
  | cons e r ih =>
    obtain ⟨k, x⟩ := e
    by_cases hk : k = n
    · subst hk; simp [tput]
    · by_cases hn : n < k
      · simp [tput, hk, hn]
      · simp [tput, hk, hn, ih]

/-- The entry of an initial machine: nothing is listed. -/
@[simp] theorem tget_nil {α : Type} (d : α) (n : Nat) : tget d [] n = d := rfl

end Sys2Proof.Machine
end

