-- ==== Sys2Proof/Laws/State.lean ====
section
/-! SUPPORT. What each update of the chip leaves alone, field by field and accessor by accessor; what it sets. -/

namespace Sys2Proof.Machine

variable (c : Chip)

@[simp] theorem Chip.setQueue_freeCount (q : Nat) (v : Queue) : (c.setQueue q v).freeCount = c.freeCount := rfl
@[simp] theorem Chip.setQueue_tc (q : Nat) (v : Queue) : (c.setQueue q v).tc = c.tc := rfl
@[simp] theorem Chip.setQueue_store (q : Nat) (v : Queue) : (c.setQueue q v).store = c.store := rfl
@[simp] theorem Chip.setQueue_boot (q : Nat) (v : Queue) : (c.setQueue q v).boot = c.boot := rfl
@[simp] theorem Chip.setQueue_sessions (q : Nat) (v : Queue) : (c.setQueue q v).sessions = c.sessions := rfl
@[simp] theorem Chip.setQueue_nextSession (q : Nat) (v : Queue) : (c.setQueue q v).nextSession = c.nextSession := rfl
@[simp] theorem Chip.setQueue_started (q : Nat) (v : Queue) : (c.setQueue q v).started = c.started := rfl
@[simp] theorem Chip.setQueue_lastStarted (q : Nat) (v : Queue) : (c.setQueue q v).lastStarted = c.lastStarted := rfl
@[simp] theorem Chip.setQueue_notices (q : Nat) (v : Queue) : (c.setQueue q v).notices = c.notices := rfl
@[simp] theorem Chip.setQueue_latchBar (q : Nat) (v : Queue) : (c.setQueue q v).latchBar = c.latchBar := rfl
@[simp] theorem Chip.setQueue_latchCore (q : Nat) (v : Queue) : (c.setQueue q v).latchCore = c.latchCore := rfl
@[simp] theorem Chip.setQueue_stageBar (q : Nat) (v : Queue) : (c.setQueue q v).stageBar = c.stageBar := rfl
@[simp] theorem Chip.setQueue_stageCore (q : Nat) (v : Queue) : (c.setQueue q v).stageCore = c.stageCore := rfl
@[simp] theorem Chip.setQueue_readData (q : Nat) (v : Queue) : (c.setQueue q v).readData = c.readData := rfl
@[simp] theorem Chip.setQueue_pcie (q : Nat) (v : Queue) : (c.setQueue q v).pcie = c.pcie := rfl
@[simp] theorem Chip.setQueue_cores (q : Nat) (v : Queue) : (c.setQueue q v).cores = c.cores := rfl
@[simp] theorem Chip.setQueue_host (q : Nat) (v : Queue) : (c.setQueue q v).host = c.host := rfl
@[simp] theorem Chip.setQueue_feeds (q : Nat) (v : Queue) : (c.setQueue q v).feeds = c.feeds := rfl
@[simp] theorem Chip.setQueue_eth (q : Nat) (v : Queue) : (c.setQueue q v).eth = c.eth := rfl
@[simp] theorem Chip.setQueue_units (q : Nat) (v : Queue) : (c.setQueue q v).units = c.units := rfl
@[simp] theorem Chip.setQueue_retired (q : Nat) (v : Queue) : (c.setQueue q v).retired = c.retired := rfl
@[simp] theorem Chip.setQueue_retiredNow (q : Nat) (v : Queue) : (c.setQueue q v).retiredNow = c.retiredNow := rfl
@[simp] theorem Chip.setQueue_buckets (q : Nat) (v : Queue) : (c.setQueue q v).buckets = c.buckets := rfl
@[simp] theorem Chip.setQueue_links (q : Nat) (v : Queue) : (c.setQueue q v).links = c.links := rfl
@[simp] theorem Chip.setQueue_cxl (q : Nat) (v : Queue) : (c.setQueue q v).cxl = c.cxl := rfl
@[simp] theorem Chip.setQueue_hotStacks (q : Nat) (v : Queue) : (c.setQueue q v).hotStacks = c.hotStacks := rfl
@[simp] theorem Chip.setQueue_hotChannels (q : Nat) (v : Queue) : (c.setQueue q v).hotChannels = c.hotChannels := rfl
@[simp] theorem Chip.setQueue_scaleMod (q : Nat) (v : Queue) : (c.setQueue q v).scaleMod = c.scaleMod := rfl
@[simp] theorem Chip.setQueue_scaleExp (q : Nat) (v : Queue) : (c.setQueue q v).scaleExp = c.scaleExp := rfl
@[simp] theorem Chip.setQueue_windows (q : Nat) (v : Queue) : (c.setQueue q v).windows = c.windows := rfl
@[simp] theorem Chip.setQueue_codes (q : Nat) (v : Queue) : (c.setQueue q v).codes = c.codes := rfl
@[simp] theorem Chip.setQueue_insts (q : Nat) (v : Queue) : (c.setQueue q v).insts = c.insts := rfl
@[simp] theorem Chip.setQueue_dram (q : Nat) (v : Queue) : (c.setQueue q v).dram = c.dram := rfl
@[simp] theorem Chip.setQueue_poison (q : Nat) (v : Queue) : (c.setQueue q v).poison = c.poison := rfl
@[simp] theorem Chip.setQueue_poisonReads (q : Nat) (v : Queue) : (c.setQueue q v).poisonReads = c.poisonReads := rfl
@[simp] theorem Chip.setQueue_tiles (q : Nat) (v : Queue) : (c.setQueue q v).tiles = c.tiles := rfl
@[simp] theorem Chip.setQueue_sigs (q : Nat) (v : Queue) : (c.setQueue q v).sigs = c.sigs := rfl
@[simp] theorem Chip.setQueue_acks (q : Nat) (v : Queue) : (c.setQueue q v).acks = c.acks := rfl
@[simp] theorem Chip.setQueue_engines (q : Nat) (v : Queue) : (c.setQueue q v).engines = c.engines := rfl
@[simp] theorem Chip.setQueue_front (q : Nat) (v : Queue) : (c.setQueue q v).front = c.front := rfl
@[simp] theorem Chip.setQueue_gatedHub (q : Nat) (v : Queue) : (c.setQueue q v).gatedHub = c.gatedHub := rfl
@[simp] theorem Chip.setQueue_bruinTurn (q : Nat) (v : Queue) : (c.setQueue q v).bruinTurn = c.bruinTurn := rfl
@[simp] theorem Chip.setQueue_groups (q : Nat) (v : Queue) : (c.setQueue q v).groups = c.groups := rfl
@[simp] theorem Chip.setQueue_txStreams (q : Nat) (v : Queue) : (c.setQueue q v).txStreams = c.txStreams := rfl
@[simp] theorem Chip.setQueue_rxStreams (q : Nat) (v : Queue) : (c.setQueue q v).rxStreams = c.rxStreams := rfl
@[simp] theorem Chip.setQueue_unplaced (q : Nat) (v : Queue) : (c.setQueue q v).unplaced = c.unplaced := rfl
@[simp] theorem Chip.setQueue_delivered (q : Nat) (v : Queue) : (c.setQueue q v).delivered = c.delivered := rfl
@[simp] theorem Chip.setQueue_fabricDrops (q : Nat) (v : Queue) : (c.setQueue q v).fabricDrops = c.fabricDrops := rfl
@[simp] theorem Chip.setQueue_moves (q : Nat) (v : Queue) : (c.setQueue q v).moves = c.moves := rfl
@[simp] theorem Chip.setQueue_side (q : Nat) (v : Queue) : (c.setQueue q v).side = c.side := rfl
@[simp] theorem Chip.setQueue_out (q : Nat) (v : Queue) : (c.setQueue q v).out = c.out := rfl
@[simp] theorem Chip.setQueue_noticeQ (q : Nat) (v : Queue) (j : Nat) : (c.setQueue q v).noticeQ j = c.noticeQ j := rfl
@[simp] theorem Chip.setQueue_core (q : Nat) (v : Queue) (j : Nat) : (c.setQueue q v).core j = c.core j := rfl
@[simp] theorem Chip.setQueue_feed (q : Nat) (v : Queue) (j : Nat) : (c.setQueue q v).feed j = c.feed j := rfl
@[simp] theorem Chip.setQueue_ethPort (q : Nat) (v : Queue) (j : Nat) : (c.setQueue q v).ethPort j = c.ethPort j := rfl
@[simp] theorem Chip.setQueue_link (q : Nat) (v : Queue) (j : Nat) : (c.setQueue q v).link j = c.link j := rfl
@[simp] theorem Chip.setQueue_cxlPort (q : Nat) (v : Queue) (j : Nat) : (c.setQueue q v).cxlPort j = c.cxlPort j := rfl
@[simp] theorem Chip.setQueue_inst (q : Nat) (v : Queue) (j : Nat) : (c.setQueue q v).inst j = c.inst j := rfl
@[simp] theorem Chip.setQueue_job (q : Nat) (v : Queue) (j : Nat) : (c.setQueue q v).job j = c.job j := rfl
@[simp] theorem Chip.setQueue_tile (q : Nat) (v : Queue) (j : Nat) : (c.setQueue q v).tile j = c.tile j := rfl
@[simp] theorem Chip.setQueue_engine (q : Nat) (v : Queue) (j : Nat) : (c.setQueue q v).engine j = c.engine j := rfl
@[simp] theorem Chip.setQueue_group (q : Nat) (v : Queue) (j : Nat) : (c.setQueue q v).group j = c.group j := rfl
@[simp] theorem Chip.setQueue_session (q : Nat) (v : Queue) (j : Nat) : (c.setQueue q v).session j = c.session j := rfl
@[simp] theorem Chip.setQueue_sc (q : Nat) (v : Queue) : (c.setQueue q v).sc = c.sc := rfl
@[simp] theorem Chip.setQueue_bootNo (q : Nat) (v : Queue) : (c.setQueue q v).bootNo = c.bootNo := rfl
@[simp] theorem Chip.setQueue_starts (q : Nat) (v : Queue) : (c.setQueue q v).starts = c.starts := rfl
@[simp] theorem Chip.setQueue_calNext (q : Nat) (v : Queue) : (c.setQueue q v).calNext = c.calNext := rfl
@[simp] theorem Chip.setQueue_corrected (q : Nat) (v : Queue) : (c.setQueue q v).corrected = c.corrected := rfl
@[simp] theorem Chip.setQueue_frontTurn (q : Nat) (v : Queue) : (c.setQueue q v).frontTurn = c.frontTurn := rfl
@[simp] theorem Chip.setQueue_reqs (q : Nat) (v : Queue) : (c.setQueue q v).reqs = c.reqs := rfl

@[simp] theorem Chip.setNoticeQ_freeCount (n : Nat) (v : NoticeQ) : (c.setNoticeQ n v).freeCount = c.freeCount := rfl
@[simp] theorem Chip.setNoticeQ_tc (n : Nat) (v : NoticeQ) : (c.setNoticeQ n v).tc = c.tc := rfl
@[simp] theorem Chip.setNoticeQ_store (n : Nat) (v : NoticeQ) : (c.setNoticeQ n v).store = c.store := rfl
@[simp] theorem Chip.setNoticeQ_boot (n : Nat) (v : NoticeQ) : (c.setNoticeQ n v).boot = c.boot := rfl
@[simp] theorem Chip.setNoticeQ_queues (n : Nat) (v : NoticeQ) : (c.setNoticeQ n v).queues = c.queues := rfl
@[simp] theorem Chip.setNoticeQ_sessions (n : Nat) (v : NoticeQ) : (c.setNoticeQ n v).sessions = c.sessions := rfl
@[simp] theorem Chip.setNoticeQ_nextSession (n : Nat) (v : NoticeQ) : (c.setNoticeQ n v).nextSession = c.nextSession := rfl
@[simp] theorem Chip.setNoticeQ_started (n : Nat) (v : NoticeQ) : (c.setNoticeQ n v).started = c.started := rfl
@[simp] theorem Chip.setNoticeQ_lastStarted (n : Nat) (v : NoticeQ) : (c.setNoticeQ n v).lastStarted = c.lastStarted := rfl
@[simp] theorem Chip.setNoticeQ_latchBar (n : Nat) (v : NoticeQ) : (c.setNoticeQ n v).latchBar = c.latchBar := rfl
@[simp] theorem Chip.setNoticeQ_latchCore (n : Nat) (v : NoticeQ) : (c.setNoticeQ n v).latchCore = c.latchCore := rfl
@[simp] theorem Chip.setNoticeQ_stageBar (n : Nat) (v : NoticeQ) : (c.setNoticeQ n v).stageBar = c.stageBar := rfl
@[simp] theorem Chip.setNoticeQ_stageCore (n : Nat) (v : NoticeQ) : (c.setNoticeQ n v).stageCore = c.stageCore := rfl
@[simp] theorem Chip.setNoticeQ_readData (n : Nat) (v : NoticeQ) : (c.setNoticeQ n v).readData = c.readData := rfl
@[simp] theorem Chip.setNoticeQ_pcie (n : Nat) (v : NoticeQ) : (c.setNoticeQ n v).pcie = c.pcie := rfl
@[simp] theorem Chip.setNoticeQ_cores (n : Nat) (v : NoticeQ) : (c.setNoticeQ n v).cores = c.cores := rfl
@[simp] theorem Chip.setNoticeQ_host (n : Nat) (v : NoticeQ) : (c.setNoticeQ n v).host = c.host := rfl
@[simp] theorem Chip.setNoticeQ_feeds (n : Nat) (v : NoticeQ) : (c.setNoticeQ n v).feeds = c.feeds := rfl
@[simp] theorem Chip.setNoticeQ_eth (n : Nat) (v : NoticeQ) : (c.setNoticeQ n v).eth = c.eth := rfl
@[simp] theorem Chip.setNoticeQ_units (n : Nat) (v : NoticeQ) : (c.setNoticeQ n v).units = c.units := rfl
@[simp] theorem Chip.setNoticeQ_retired (n : Nat) (v : NoticeQ) : (c.setNoticeQ n v).retired = c.retired := rfl
@[simp] theorem Chip.setNoticeQ_retiredNow (n : Nat) (v : NoticeQ) : (c.setNoticeQ n v).retiredNow = c.retiredNow := rfl
@[simp] theorem Chip.setNoticeQ_buckets (n : Nat) (v : NoticeQ) : (c.setNoticeQ n v).buckets = c.buckets := rfl
@[simp] theorem Chip.setNoticeQ_links (n : Nat) (v : NoticeQ) : (c.setNoticeQ n v).links = c.links := rfl
@[simp] theorem Chip.setNoticeQ_cxl (n : Nat) (v : NoticeQ) : (c.setNoticeQ n v).cxl = c.cxl := rfl
@[simp] theorem Chip.setNoticeQ_hotStacks (n : Nat) (v : NoticeQ) : (c.setNoticeQ n v).hotStacks = c.hotStacks := rfl
@[simp] theorem Chip.setNoticeQ_hotChannels (n : Nat) (v : NoticeQ) : (c.setNoticeQ n v).hotChannels = c.hotChannels := rfl
@[simp] theorem Chip.setNoticeQ_scaleMod (n : Nat) (v : NoticeQ) : (c.setNoticeQ n v).scaleMod = c.scaleMod := rfl
@[simp] theorem Chip.setNoticeQ_scaleExp (n : Nat) (v : NoticeQ) : (c.setNoticeQ n v).scaleExp = c.scaleExp := rfl
@[simp] theorem Chip.setNoticeQ_windows (n : Nat) (v : NoticeQ) : (c.setNoticeQ n v).windows = c.windows := rfl
@[simp] theorem Chip.setNoticeQ_codes (n : Nat) (v : NoticeQ) : (c.setNoticeQ n v).codes = c.codes := rfl
@[simp] theorem Chip.setNoticeQ_insts (n : Nat) (v : NoticeQ) : (c.setNoticeQ n v).insts = c.insts := rfl
@[simp] theorem Chip.setNoticeQ_dram (n : Nat) (v : NoticeQ) : (c.setNoticeQ n v).dram = c.dram := rfl
@[simp] theorem Chip.setNoticeQ_poison (n : Nat) (v : NoticeQ) : (c.setNoticeQ n v).poison = c.poison := rfl
@[simp] theorem Chip.setNoticeQ_poisonReads (n : Nat) (v : NoticeQ) : (c.setNoticeQ n v).poisonReads = c.poisonReads := rfl
@[simp] theorem Chip.setNoticeQ_tiles (n : Nat) (v : NoticeQ) : (c.setNoticeQ n v).tiles = c.tiles := rfl
@[simp] theorem Chip.setNoticeQ_sigs (n : Nat) (v : NoticeQ) : (c.setNoticeQ n v).sigs = c.sigs := rfl
@[simp] theorem Chip.setNoticeQ_acks (n : Nat) (v : NoticeQ) : (c.setNoticeQ n v).acks = c.acks := rfl
@[simp] theorem Chip.setNoticeQ_engines (n : Nat) (v : NoticeQ) : (c.setNoticeQ n v).engines = c.engines := rfl
@[simp] theorem Chip.setNoticeQ_front (n : Nat) (v : NoticeQ) : (c.setNoticeQ n v).front = c.front := rfl
@[simp] theorem Chip.setNoticeQ_gatedHub (n : Nat) (v : NoticeQ) : (c.setNoticeQ n v).gatedHub = c.gatedHub := rfl
@[simp] theorem Chip.setNoticeQ_bruinTurn (n : Nat) (v : NoticeQ) : (c.setNoticeQ n v).bruinTurn = c.bruinTurn := rfl
@[simp] theorem Chip.setNoticeQ_groups (n : Nat) (v : NoticeQ) : (c.setNoticeQ n v).groups = c.groups := rfl
@[simp] theorem Chip.setNoticeQ_txStreams (n : Nat) (v : NoticeQ) : (c.setNoticeQ n v).txStreams = c.txStreams := rfl
@[simp] theorem Chip.setNoticeQ_rxStreams (n : Nat) (v : NoticeQ) : (c.setNoticeQ n v).rxStreams = c.rxStreams := rfl
@[simp] theorem Chip.setNoticeQ_unplaced (n : Nat) (v : NoticeQ) : (c.setNoticeQ n v).unplaced = c.unplaced := rfl
@[simp] theorem Chip.setNoticeQ_delivered (n : Nat) (v : NoticeQ) : (c.setNoticeQ n v).delivered = c.delivered := rfl
@[simp] theorem Chip.setNoticeQ_fabricDrops (n : Nat) (v : NoticeQ) : (c.setNoticeQ n v).fabricDrops = c.fabricDrops := rfl
@[simp] theorem Chip.setNoticeQ_moves (n : Nat) (v : NoticeQ) : (c.setNoticeQ n v).moves = c.moves := rfl
@[simp] theorem Chip.setNoticeQ_side (n : Nat) (v : NoticeQ) : (c.setNoticeQ n v).side = c.side := rfl
@[simp] theorem Chip.setNoticeQ_out (n : Nat) (v : NoticeQ) : (c.setNoticeQ n v).out = c.out := rfl
@[simp] theorem Chip.setNoticeQ_queue (n : Nat) (v : NoticeQ) (j : Nat) : (c.setNoticeQ n v).queue j = c.queue j := rfl
@[simp] theorem Chip.setNoticeQ_core (n : Nat) (v : NoticeQ) (j : Nat) : (c.setNoticeQ n v).core j = c.core j := rfl
@[simp] theorem Chip.setNoticeQ_feed (n : Nat) (v : NoticeQ) (j : Nat) : (c.setNoticeQ n v).feed j = c.feed j := rfl
@[simp] theorem Chip.setNoticeQ_ethPort (n : Nat) (v : NoticeQ) (j : Nat) : (c.setNoticeQ n v).ethPort j = c.ethPort j := rfl
@[simp] theorem Chip.setNoticeQ_link (n : Nat) (v : NoticeQ) (j : Nat) : (c.setNoticeQ n v).link j = c.link j := rfl
@[simp] theorem Chip.setNoticeQ_cxlPort (n : Nat) (v : NoticeQ) (j : Nat) : (c.setNoticeQ n v).cxlPort j = c.cxlPort j := rfl
@[simp] theorem Chip.setNoticeQ_inst (n : Nat) (v : NoticeQ) (j : Nat) : (c.setNoticeQ n v).inst j = c.inst j := rfl
@[simp] theorem Chip.setNoticeQ_job (n : Nat) (v : NoticeQ) (j : Nat) : (c.setNoticeQ n v).job j = c.job j := rfl
@[simp] theorem Chip.setNoticeQ_tile (n : Nat) (v : NoticeQ) (j : Nat) : (c.setNoticeQ n v).tile j = c.tile j := rfl
@[simp] theorem Chip.setNoticeQ_engine (n : Nat) (v : NoticeQ) (j : Nat) : (c.setNoticeQ n v).engine j = c.engine j := rfl
@[simp] theorem Chip.setNoticeQ_group (n : Nat) (v : NoticeQ) (j : Nat) : (c.setNoticeQ n v).group j = c.group j := rfl
@[simp] theorem Chip.setNoticeQ_session (n : Nat) (v : NoticeQ) (j : Nat) : (c.setNoticeQ n v).session j = c.session j := rfl
@[simp] theorem Chip.setNoticeQ_sc (n : Nat) (v : NoticeQ) : (c.setNoticeQ n v).sc = c.sc := rfl
@[simp] theorem Chip.setNoticeQ_bootNo (n : Nat) (v : NoticeQ) : (c.setNoticeQ n v).bootNo = c.bootNo := rfl
@[simp] theorem Chip.setNoticeQ_starts (n : Nat) (v : NoticeQ) : (c.setNoticeQ n v).starts = c.starts := rfl
@[simp] theorem Chip.setNoticeQ_calNext (n : Nat) (v : NoticeQ) : (c.setNoticeQ n v).calNext = c.calNext := rfl
@[simp] theorem Chip.setNoticeQ_corrected (n : Nat) (v : NoticeQ) : (c.setNoticeQ n v).corrected = c.corrected := rfl
@[simp] theorem Chip.setNoticeQ_frontTurn (n : Nat) (v : NoticeQ) : (c.setNoticeQ n v).frontTurn = c.frontTurn := rfl
@[simp] theorem Chip.setNoticeQ_reqs (n : Nat) (v : NoticeQ) : (c.setNoticeQ n v).reqs = c.reqs := rfl

@[simp] theorem Chip.setInst_freeCount (i : Nat) (v : Inst) : (c.setInst i v).freeCount = c.freeCount := rfl
@[simp] theorem Chip.setInst_tc (i : Nat) (v : Inst) : (c.setInst i v).tc = c.tc := rfl
@[simp] theorem Chip.setInst_store (i : Nat) (v : Inst) : (c.setInst i v).store = c.store := rfl
@[simp] theorem Chip.setInst_boot (i : Nat) (v : Inst) : (c.setInst i v).boot = c.boot := rfl
@[simp] theorem Chip.setInst_queues (i : Nat) (v : Inst) : (c.setInst i v).queues = c.queues := rfl
@[simp] theorem Chip.setInst_sessions (i : Nat) (v : Inst) : (c.setInst i v).sessions = c.sessions := rfl
@[simp] theorem Chip.setInst_nextSession (i : Nat) (v : Inst) : (c.setInst i v).nextSession = c.nextSession := rfl
@[simp] theorem Chip.setInst_started (i : Nat) (v : Inst) : (c.setInst i v).started = c.started := rfl
@[simp] theorem Chip.setInst_lastStarted (i : Nat) (v : Inst) : (c.setInst i v).lastStarted = c.lastStarted := rfl
@[simp] theorem Chip.setInst_notices (i : Nat) (v : Inst) : (c.setInst i v).notices = c.notices := rfl
@[simp] theorem Chip.setInst_latchBar (i : Nat) (v : Inst) : (c.setInst i v).latchBar = c.latchBar := rfl
@[simp] theorem Chip.setInst_latchCore (i : Nat) (v : Inst) : (c.setInst i v).latchCore = c.latchCore := rfl
@[simp] theorem Chip.setInst_stageBar (i : Nat) (v : Inst) : (c.setInst i v).stageBar = c.stageBar := rfl
@[simp] theorem Chip.setInst_stageCore (i : Nat) (v : Inst) : (c.setInst i v).stageCore = c.stageCore := rfl
@[simp] theorem Chip.setInst_readData (i : Nat) (v : Inst) : (c.setInst i v).readData = c.readData := rfl
@[simp] theorem Chip.setInst_pcie (i : Nat) (v : Inst) : (c.setInst i v).pcie = c.pcie := rfl
@[simp] theorem Chip.setInst_cores (i : Nat) (v : Inst) : (c.setInst i v).cores = c.cores := rfl
@[simp] theorem Chip.setInst_host (i : Nat) (v : Inst) : (c.setInst i v).host = c.host := rfl
@[simp] theorem Chip.setInst_feeds (i : Nat) (v : Inst) : (c.setInst i v).feeds = c.feeds := rfl
@[simp] theorem Chip.setInst_eth (i : Nat) (v : Inst) : (c.setInst i v).eth = c.eth := rfl
@[simp] theorem Chip.setInst_units (i : Nat) (v : Inst) : (c.setInst i v).units = c.units := rfl
@[simp] theorem Chip.setInst_retired (i : Nat) (v : Inst) : (c.setInst i v).retired = c.retired := rfl
@[simp] theorem Chip.setInst_retiredNow (i : Nat) (v : Inst) : (c.setInst i v).retiredNow = c.retiredNow := rfl
@[simp] theorem Chip.setInst_buckets (i : Nat) (v : Inst) : (c.setInst i v).buckets = c.buckets := rfl
@[simp] theorem Chip.setInst_links (i : Nat) (v : Inst) : (c.setInst i v).links = c.links := rfl
@[simp] theorem Chip.setInst_cxl (i : Nat) (v : Inst) : (c.setInst i v).cxl = c.cxl := rfl
@[simp] theorem Chip.setInst_hotStacks (i : Nat) (v : Inst) : (c.setInst i v).hotStacks = c.hotStacks := rfl
@[simp] theorem Chip.setInst_hotChannels (i : Nat) (v : Inst) : (c.setInst i v).hotChannels = c.hotChannels := rfl
@[simp] theorem Chip.setInst_scaleMod (i : Nat) (v : Inst) : (c.setInst i v).scaleMod = c.scaleMod := rfl
@[simp] theorem Chip.setInst_scaleExp (i : Nat) (v : Inst) : (c.setInst i v).scaleExp = c.scaleExp := rfl
@[simp] theorem Chip.setInst_windows (i : Nat) (v : Inst) : (c.setInst i v).windows = c.windows := rfl
@[simp] theorem Chip.setInst_codes (i : Nat) (v : Inst) : (c.setInst i v).codes = c.codes := rfl
@[simp] theorem Chip.setInst_dram (i : Nat) (v : Inst) : (c.setInst i v).dram = c.dram := rfl
@[simp] theorem Chip.setInst_poison (i : Nat) (v : Inst) : (c.setInst i v).poison = c.poison := rfl
@[simp] theorem Chip.setInst_poisonReads (i : Nat) (v : Inst) : (c.setInst i v).poisonReads = c.poisonReads := rfl
@[simp] theorem Chip.setInst_tiles (i : Nat) (v : Inst) : (c.setInst i v).tiles = c.tiles := rfl
@[simp] theorem Chip.setInst_sigs (i : Nat) (v : Inst) : (c.setInst i v).sigs = c.sigs := rfl
@[simp] theorem Chip.setInst_acks (i : Nat) (v : Inst) : (c.setInst i v).acks = c.acks := rfl
@[simp] theorem Chip.setInst_engines (i : Nat) (v : Inst) : (c.setInst i v).engines = c.engines := rfl
@[simp] theorem Chip.setInst_front (i : Nat) (v : Inst) : (c.setInst i v).front = c.front := rfl
@[simp] theorem Chip.setInst_gatedHub (i : Nat) (v : Inst) : (c.setInst i v).gatedHub = c.gatedHub := rfl
@[simp] theorem Chip.setInst_bruinTurn (i : Nat) (v : Inst) : (c.setInst i v).bruinTurn = c.bruinTurn := rfl
@[simp] theorem Chip.setInst_groups (i : Nat) (v : Inst) : (c.setInst i v).groups = c.groups := rfl
@[simp] theorem Chip.setInst_txStreams (i : Nat) (v : Inst) : (c.setInst i v).txStreams = c.txStreams := rfl
@[simp] theorem Chip.setInst_rxStreams (i : Nat) (v : Inst) : (c.setInst i v).rxStreams = c.rxStreams := rfl
@[simp] theorem Chip.setInst_unplaced (i : Nat) (v : Inst) : (c.setInst i v).unplaced = c.unplaced := rfl
@[simp] theorem Chip.setInst_delivered (i : Nat) (v : Inst) : (c.setInst i v).delivered = c.delivered := rfl
@[simp] theorem Chip.setInst_fabricDrops (i : Nat) (v : Inst) : (c.setInst i v).fabricDrops = c.fabricDrops := rfl
@[simp] theorem Chip.setInst_moves (i : Nat) (v : Inst) : (c.setInst i v).moves = c.moves := rfl
@[simp] theorem Chip.setInst_side (i : Nat) (v : Inst) : (c.setInst i v).side = c.side := rfl
@[simp] theorem Chip.setInst_out (i : Nat) (v : Inst) : (c.setInst i v).out = c.out := rfl
@[simp] theorem Chip.setInst_queue (i : Nat) (v : Inst) (j : Nat) : (c.setInst i v).queue j = c.queue j := rfl
@[simp] theorem Chip.setInst_noticeQ (i : Nat) (v : Inst) (j : Nat) : (c.setInst i v).noticeQ j = c.noticeQ j := rfl
@[simp] theorem Chip.setInst_core (i : Nat) (v : Inst) (j : Nat) : (c.setInst i v).core j = c.core j := rfl
@[simp] theorem Chip.setInst_feed (i : Nat) (v : Inst) (j : Nat) : (c.setInst i v).feed j = c.feed j := rfl
@[simp] theorem Chip.setInst_ethPort (i : Nat) (v : Inst) (j : Nat) : (c.setInst i v).ethPort j = c.ethPort j := rfl
@[simp] theorem Chip.setInst_link (i : Nat) (v : Inst) (j : Nat) : (c.setInst i v).link j = c.link j := rfl
@[simp] theorem Chip.setInst_cxlPort (i : Nat) (v : Inst) (j : Nat) : (c.setInst i v).cxlPort j = c.cxlPort j := rfl
@[simp] theorem Chip.setInst_tile (i : Nat) (v : Inst) (j : Nat) : (c.setInst i v).tile j = c.tile j := rfl
@[simp] theorem Chip.setInst_engine (i : Nat) (v : Inst) (j : Nat) : (c.setInst i v).engine j = c.engine j := rfl
@[simp] theorem Chip.setInst_group (i : Nat) (v : Inst) (j : Nat) : (c.setInst i v).group j = c.group j := rfl
@[simp] theorem Chip.setInst_session (i : Nat) (v : Inst) (j : Nat) : (c.setInst i v).session j = c.session j := rfl
@[simp] theorem Chip.setInst_sc (i : Nat) (v : Inst) : (c.setInst i v).sc = c.sc := rfl
@[simp] theorem Chip.setInst_bootNo (i : Nat) (v : Inst) : (c.setInst i v).bootNo = c.bootNo := rfl
@[simp] theorem Chip.setInst_starts (i : Nat) (v : Inst) : (c.setInst i v).starts = c.starts := rfl
@[simp] theorem Chip.setInst_calNext (i : Nat) (v : Inst) : (c.setInst i v).calNext = c.calNext := rfl
@[simp] theorem Chip.setInst_corrected (i : Nat) (v : Inst) : (c.setInst i v).corrected = c.corrected := rfl
@[simp] theorem Chip.setInst_frontTurn (i : Nat) (v : Inst) : (c.setInst i v).frontTurn = c.frontTurn := rfl
@[simp] theorem Chip.setInst_reqs (i : Nat) (v : Inst) : (c.setInst i v).reqs = c.reqs := rfl

@[simp] theorem Chip.setTile_freeCount (t : Nat) (v : Tile) : (c.setTile t v).freeCount = c.freeCount := rfl
@[simp] theorem Chip.setTile_tc (t : Nat) (v : Tile) : (c.setTile t v).tc = c.tc := rfl
@[simp] theorem Chip.setTile_store (t : Nat) (v : Tile) : (c.setTile t v).store = c.store := rfl
@[simp] theorem Chip.setTile_boot (t : Nat) (v : Tile) : (c.setTile t v).boot = c.boot := rfl
@[simp] theorem Chip.setTile_queues (t : Nat) (v : Tile) : (c.setTile t v).queues = c.queues := rfl
@[simp] theorem Chip.setTile_sessions (t : Nat) (v : Tile) : (c.setTile t v).sessions = c.sessions := rfl
@[simp] theorem Chip.setTile_nextSession (t : Nat) (v : Tile) : (c.setTile t v).nextSession = c.nextSession := rfl
@[simp] theorem Chip.setTile_started (t : Nat) (v : Tile) : (c.setTile t v).started = c.started := rfl
@[simp] theorem Chip.setTile_lastStarted (t : Nat) (v : Tile) : (c.setTile t v).lastStarted = c.lastStarted := rfl
@[simp] theorem Chip.setTile_notices (t : Nat) (v : Tile) : (c.setTile t v).notices = c.notices := rfl
@[simp] theorem Chip.setTile_latchBar (t : Nat) (v : Tile) : (c.setTile t v).latchBar = c.latchBar := rfl
@[simp] theorem Chip.setTile_latchCore (t : Nat) (v : Tile) : (c.setTile t v).latchCore = c.latchCore := rfl
@[simp] theorem Chip.setTile_stageBar (t : Nat) (v : Tile) : (c.setTile t v).stageBar = c.stageBar := rfl
@[simp] theorem Chip.setTile_stageCore (t : Nat) (v : Tile) : (c.setTile t v).stageCore = c.stageCore := rfl
@[simp] theorem Chip.setTile_readData (t : Nat) (v : Tile) : (c.setTile t v).readData = c.readData := rfl
@[simp] theorem Chip.setTile_pcie (t : Nat) (v : Tile) : (c.setTile t v).pcie = c.pcie := rfl
@[simp] theorem Chip.setTile_cores (t : Nat) (v : Tile) : (c.setTile t v).cores = c.cores := rfl
@[simp] theorem Chip.setTile_host (t : Nat) (v : Tile) : (c.setTile t v).host = c.host := rfl
@[simp] theorem Chip.setTile_feeds (t : Nat) (v : Tile) : (c.setTile t v).feeds = c.feeds := rfl
@[simp] theorem Chip.setTile_eth (t : Nat) (v : Tile) : (c.setTile t v).eth = c.eth := rfl
@[simp] theorem Chip.setTile_units (t : Nat) (v : Tile) : (c.setTile t v).units = c.units := rfl
@[simp] theorem Chip.setTile_retired (t : Nat) (v : Tile) : (c.setTile t v).retired = c.retired := rfl
@[simp] theorem Chip.setTile_retiredNow (t : Nat) (v : Tile) : (c.setTile t v).retiredNow = c.retiredNow := rfl
@[simp] theorem Chip.setTile_buckets (t : Nat) (v : Tile) : (c.setTile t v).buckets = c.buckets := rfl
@[simp] theorem Chip.setTile_links (t : Nat) (v : Tile) : (c.setTile t v).links = c.links := rfl
@[simp] theorem Chip.setTile_cxl (t : Nat) (v : Tile) : (c.setTile t v).cxl = c.cxl := rfl
@[simp] theorem Chip.setTile_hotStacks (t : Nat) (v : Tile) : (c.setTile t v).hotStacks = c.hotStacks := rfl
@[simp] theorem Chip.setTile_hotChannels (t : Nat) (v : Tile) : (c.setTile t v).hotChannels = c.hotChannels := rfl
@[simp] theorem Chip.setTile_scaleMod (t : Nat) (v : Tile) : (c.setTile t v).scaleMod = c.scaleMod := rfl
@[simp] theorem Chip.setTile_scaleExp (t : Nat) (v : Tile) : (c.setTile t v).scaleExp = c.scaleExp := rfl
@[simp] theorem Chip.setTile_windows (t : Nat) (v : Tile) : (c.setTile t v).windows = c.windows := rfl
@[simp] theorem Chip.setTile_codes (t : Nat) (v : Tile) : (c.setTile t v).codes = c.codes := rfl
@[simp] theorem Chip.setTile_insts (t : Nat) (v : Tile) : (c.setTile t v).insts = c.insts := rfl
@[simp] theorem Chip.setTile_dram (t : Nat) (v : Tile) : (c.setTile t v).dram = c.dram := rfl
@[simp] theorem Chip.setTile_poison (t : Nat) (v : Tile) : (c.setTile t v).poison = c.poison := rfl
@[simp] theorem Chip.setTile_poisonReads (t : Nat) (v : Tile) : (c.setTile t v).poisonReads = c.poisonReads := rfl
@[simp] theorem Chip.setTile_sigs (t : Nat) (v : Tile) : (c.setTile t v).sigs = c.sigs := rfl
@[simp] theorem Chip.setTile_acks (t : Nat) (v : Tile) : (c.setTile t v).acks = c.acks := rfl
@[simp] theorem Chip.setTile_engines (t : Nat) (v : Tile) : (c.setTile t v).engines = c.engines := rfl
@[simp] theorem Chip.setTile_front (t : Nat) (v : Tile) : (c.setTile t v).front = c.front := rfl
@[simp] theorem Chip.setTile_gatedHub (t : Nat) (v : Tile) : (c.setTile t v).gatedHub = c.gatedHub := rfl
@[simp] theorem Chip.setTile_bruinTurn (t : Nat) (v : Tile) : (c.setTile t v).bruinTurn = c.bruinTurn := rfl
@[simp] theorem Chip.setTile_groups (t : Nat) (v : Tile) : (c.setTile t v).groups = c.groups := rfl
@[simp] theorem Chip.setTile_txStreams (t : Nat) (v : Tile) : (c.setTile t v).txStreams = c.txStreams := rfl
@[simp] theorem Chip.setTile_rxStreams (t : Nat) (v : Tile) : (c.setTile t v).rxStreams = c.rxStreams := rfl
@[simp] theorem Chip.setTile_unplaced (t : Nat) (v : Tile) : (c.setTile t v).unplaced = c.unplaced := rfl
@[simp] theorem Chip.setTile_delivered (t : Nat) (v : Tile) : (c.setTile t v).delivered = c.delivered := rfl
@[simp] theorem Chip.setTile_fabricDrops (t : Nat) (v : Tile) : (c.setTile t v).fabricDrops = c.fabricDrops := rfl
@[simp] theorem Chip.setTile_moves (t : Nat) (v : Tile) : (c.setTile t v).moves = c.moves := rfl
@[simp] theorem Chip.setTile_side (t : Nat) (v : Tile) : (c.setTile t v).side = c.side := rfl
@[simp] theorem Chip.setTile_out (t : Nat) (v : Tile) : (c.setTile t v).out = c.out := rfl
@[simp] theorem Chip.setTile_queue (t : Nat) (v : Tile) (j : Nat) : (c.setTile t v).queue j = c.queue j := rfl
@[simp] theorem Chip.setTile_noticeQ (t : Nat) (v : Tile) (j : Nat) : (c.setTile t v).noticeQ j = c.noticeQ j := rfl
@[simp] theorem Chip.setTile_core (t : Nat) (v : Tile) (j : Nat) : (c.setTile t v).core j = c.core j := rfl
@[simp] theorem Chip.setTile_feed (t : Nat) (v : Tile) (j : Nat) : (c.setTile t v).feed j = c.feed j := rfl
@[simp] theorem Chip.setTile_ethPort (t : Nat) (v : Tile) (j : Nat) : (c.setTile t v).ethPort j = c.ethPort j := rfl
@[simp] theorem Chip.setTile_link (t : Nat) (v : Tile) (j : Nat) : (c.setTile t v).link j = c.link j := rfl
@[simp] theorem Chip.setTile_cxlPort (t : Nat) (v : Tile) (j : Nat) : (c.setTile t v).cxlPort j = c.cxlPort j := rfl
@[simp] theorem Chip.setTile_inst (t : Nat) (v : Tile) (j : Nat) : (c.setTile t v).inst j = c.inst j := rfl
@[simp] theorem Chip.setTile_job (t : Nat) (v : Tile) (j : Nat) : (c.setTile t v).job j = c.job j := rfl
@[simp] theorem Chip.setTile_engine (t : Nat) (v : Tile) (j : Nat) : (c.setTile t v).engine j = c.engine j := rfl
@[simp] theorem Chip.setTile_group (t : Nat) (v : Tile) (j : Nat) : (c.setTile t v).group j = c.group j := rfl
@[simp] theorem Chip.setTile_session (t : Nat) (v : Tile) (j : Nat) : (c.setTile t v).session j = c.session j := rfl
@[simp] theorem Chip.setTile_sc (t : Nat) (v : Tile) : (c.setTile t v).sc = c.sc := rfl
@[simp] theorem Chip.setTile_bootNo (t : Nat) (v : Tile) : (c.setTile t v).bootNo = c.bootNo := rfl
@[simp] theorem Chip.setTile_starts (t : Nat) (v : Tile) : (c.setTile t v).starts = c.starts := rfl
@[simp] theorem Chip.setTile_calNext (t : Nat) (v : Tile) : (c.setTile t v).calNext = c.calNext := rfl
@[simp] theorem Chip.setTile_corrected (t : Nat) (v : Tile) : (c.setTile t v).corrected = c.corrected := rfl
@[simp] theorem Chip.setTile_frontTurn (t : Nat) (v : Tile) : (c.setTile t v).frontTurn = c.frontTurn := rfl
@[simp] theorem Chip.setTile_reqs (t : Nat) (v : Tile) : (c.setTile t v).reqs = c.reqs := rfl

@[simp] theorem Chip.setLink_freeCount (k : Nat) (v : Link) : (c.setLink k v).freeCount = c.freeCount := rfl
@[simp] theorem Chip.setLink_tc (k : Nat) (v : Link) : (c.setLink k v).tc = c.tc := rfl
@[simp] theorem Chip.setLink_store (k : Nat) (v : Link) : (c.setLink k v).store = c.store := rfl
@[simp] theorem Chip.setLink_boot (k : Nat) (v : Link) : (c.setLink k v).boot = c.boot := rfl
@[simp] theorem Chip.setLink_queues (k : Nat) (v : Link) : (c.setLink k v).queues = c.queues := rfl
@[simp] theorem Chip.setLink_sessions (k : Nat) (v : Link) : (c.setLink k v).sessions = c.sessions := rfl
@[simp] theorem Chip.setLink_nextSession (k : Nat) (v : Link) : (c.setLink k v).nextSession = c.nextSession := rfl
@[simp] theorem Chip.setLink_started (k : Nat) (v : Link) : (c.setLink k v).started = c.started := rfl
@[simp] theorem Chip.setLink_lastStarted (k : Nat) (v : Link) : (c.setLink k v).lastStarted = c.lastStarted := rfl
@[simp] theorem Chip.setLink_notices (k : Nat) (v : Link) : (c.setLink k v).notices = c.notices := rfl
@[simp] theorem Chip.setLink_latchBar (k : Nat) (v : Link) : (c.setLink k v).latchBar = c.latchBar := rfl
@[simp] theorem Chip.setLink_latchCore (k : Nat) (v : Link) : (c.setLink k v).latchCore = c.latchCore := rfl
@[simp] theorem Chip.setLink_stageBar (k : Nat) (v : Link) : (c.setLink k v).stageBar = c.stageBar := rfl
@[simp] theorem Chip.setLink_stageCore (k : Nat) (v : Link) : (c.setLink k v).stageCore = c.stageCore := rfl
@[simp] theorem Chip.setLink_readData (k : Nat) (v : Link) : (c.setLink k v).readData = c.readData := rfl
@[simp] theorem Chip.setLink_pcie (k : Nat) (v : Link) : (c.setLink k v).pcie = c.pcie := rfl
@[simp] theorem Chip.setLink_cores (k : Nat) (v : Link) : (c.setLink k v).cores = c.cores := rfl
@[simp] theorem Chip.setLink_host (k : Nat) (v : Link) : (c.setLink k v).host = c.host := rfl
@[simp] theorem Chip.setLink_feeds (k : Nat) (v : Link) : (c.setLink k v).feeds = c.feeds := rfl
@[simp] theorem Chip.setLink_eth (k : Nat) (v : Link) : (c.setLink k v).eth = c.eth := rfl
@[simp] theorem Chip.setLink_units (k : Nat) (v : Link) : (c.setLink k v).units = c.units := rfl
@[simp] theorem Chip.setLink_retired (k : Nat) (v : Link) : (c.setLink k v).retired = c.retired := rfl
@[simp] theorem Chip.setLink_retiredNow (k : Nat) (v : Link) : (c.setLink k v).retiredNow = c.retiredNow := rfl
@[simp] theorem Chip.setLink_buckets (k : Nat) (v : Link) : (c.setLink k v).buckets = c.buckets := rfl
@[simp] theorem Chip.setLink_cxl (k : Nat) (v : Link) : (c.setLink k v).cxl = c.cxl := rfl
@[simp] theorem Chip.setLink_hotStacks (k : Nat) (v : Link) : (c.setLink k v).hotStacks = c.hotStacks := rfl
@[simp] theorem Chip.setLink_hotChannels (k : Nat) (v : Link) : (c.setLink k v).hotChannels = c.hotChannels := rfl
@[simp] theorem Chip.setLink_scaleMod (k : Nat) (v : Link) : (c.setLink k v).scaleMod = c.scaleMod := rfl
@[simp] theorem Chip.setLink_scaleExp (k : Nat) (v : Link) : (c.setLink k v).scaleExp = c.scaleExp := rfl
@[simp] theorem Chip.setLink_windows (k : Nat) (v : Link) : (c.setLink k v).windows = c.windows := rfl
@[simp] theorem Chip.setLink_codes (k : Nat) (v : Link) : (c.setLink k v).codes = c.codes := rfl
@[simp] theorem Chip.setLink_insts (k : Nat) (v : Link) : (c.setLink k v).insts = c.insts := rfl
@[simp] theorem Chip.setLink_dram (k : Nat) (v : Link) : (c.setLink k v).dram = c.dram := rfl
@[simp] theorem Chip.setLink_poison (k : Nat) (v : Link) : (c.setLink k v).poison = c.poison := rfl
@[simp] theorem Chip.setLink_poisonReads (k : Nat) (v : Link) : (c.setLink k v).poisonReads = c.poisonReads := rfl
@[simp] theorem Chip.setLink_tiles (k : Nat) (v : Link) : (c.setLink k v).tiles = c.tiles := rfl
@[simp] theorem Chip.setLink_sigs (k : Nat) (v : Link) : (c.setLink k v).sigs = c.sigs := rfl
@[simp] theorem Chip.setLink_acks (k : Nat) (v : Link) : (c.setLink k v).acks = c.acks := rfl
@[simp] theorem Chip.setLink_engines (k : Nat) (v : Link) : (c.setLink k v).engines = c.engines := rfl
@[simp] theorem Chip.setLink_front (k : Nat) (v : Link) : (c.setLink k v).front = c.front := rfl
@[simp] theorem Chip.setLink_gatedHub (k : Nat) (v : Link) : (c.setLink k v).gatedHub = c.gatedHub := rfl
@[simp] theorem Chip.setLink_bruinTurn (k : Nat) (v : Link) : (c.setLink k v).bruinTurn = c.bruinTurn := rfl
@[simp] theorem Chip.setLink_groups (k : Nat) (v : Link) : (c.setLink k v).groups = c.groups := rfl
@[simp] theorem Chip.setLink_txStreams (k : Nat) (v : Link) : (c.setLink k v).txStreams = c.txStreams := rfl
@[simp] theorem Chip.setLink_rxStreams (k : Nat) (v : Link) : (c.setLink k v).rxStreams = c.rxStreams := rfl
@[simp] theorem Chip.setLink_unplaced (k : Nat) (v : Link) : (c.setLink k v).unplaced = c.unplaced := rfl
@[simp] theorem Chip.setLink_delivered (k : Nat) (v : Link) : (c.setLink k v).delivered = c.delivered := rfl
@[simp] theorem Chip.setLink_fabricDrops (k : Nat) (v : Link) : (c.setLink k v).fabricDrops = c.fabricDrops := rfl
@[simp] theorem Chip.setLink_moves (k : Nat) (v : Link) : (c.setLink k v).moves = c.moves := rfl
@[simp] theorem Chip.setLink_side (k : Nat) (v : Link) : (c.setLink k v).side = c.side := rfl
@[simp] theorem Chip.setLink_out (k : Nat) (v : Link) : (c.setLink k v).out = c.out := rfl
@[simp] theorem Chip.setLink_queue (k : Nat) (v : Link) (j : Nat) : (c.setLink k v).queue j = c.queue j := rfl
@[simp] theorem Chip.setLink_noticeQ (k : Nat) (v : Link) (j : Nat) : (c.setLink k v).noticeQ j = c.noticeQ j := rfl
@[simp] theorem Chip.setLink_core (k : Nat) (v : Link) (j : Nat) : (c.setLink k v).core j = c.core j := rfl
@[simp] theorem Chip.setLink_feed (k : Nat) (v : Link) (j : Nat) : (c.setLink k v).feed j = c.feed j := rfl
@[simp] theorem Chip.setLink_ethPort (k : Nat) (v : Link) (j : Nat) : (c.setLink k v).ethPort j = c.ethPort j := rfl
@[simp] theorem Chip.setLink_cxlPort (k : Nat) (v : Link) (j : Nat) : (c.setLink k v).cxlPort j = c.cxlPort j := rfl
@[simp] theorem Chip.setLink_inst (k : Nat) (v : Link) (j : Nat) : (c.setLink k v).inst j = c.inst j := rfl
@[simp] theorem Chip.setLink_job (k : Nat) (v : Link) (j : Nat) : (c.setLink k v).job j = c.job j := rfl
@[simp] theorem Chip.setLink_tile (k : Nat) (v : Link) (j : Nat) : (c.setLink k v).tile j = c.tile j := rfl
@[simp] theorem Chip.setLink_engine (k : Nat) (v : Link) (j : Nat) : (c.setLink k v).engine j = c.engine j := rfl
@[simp] theorem Chip.setLink_group (k : Nat) (v : Link) (j : Nat) : (c.setLink k v).group j = c.group j := rfl
@[simp] theorem Chip.setLink_session (k : Nat) (v : Link) (j : Nat) : (c.setLink k v).session j = c.session j := rfl
@[simp] theorem Chip.setLink_sc (k : Nat) (v : Link) : (c.setLink k v).sc = c.sc := rfl
@[simp] theorem Chip.setLink_bootNo (k : Nat) (v : Link) : (c.setLink k v).bootNo = c.bootNo := rfl
@[simp] theorem Chip.setLink_starts (k : Nat) (v : Link) : (c.setLink k v).starts = c.starts := rfl
@[simp] theorem Chip.setLink_calNext (k : Nat) (v : Link) : (c.setLink k v).calNext = c.calNext := rfl
@[simp] theorem Chip.setLink_corrected (k : Nat) (v : Link) : (c.setLink k v).corrected = c.corrected := rfl
@[simp] theorem Chip.setLink_frontTurn (k : Nat) (v : Link) : (c.setLink k v).frontTurn = c.frontTurn := rfl
@[simp] theorem Chip.setLink_reqs (k : Nat) (v : Link) : (c.setLink k v).reqs = c.reqs := rfl

@[simp] theorem Chip.setGroup_freeCount (g : Nat) (v : Group) : (c.setGroup g v).freeCount = c.freeCount := rfl
@[simp] theorem Chip.setGroup_tc (g : Nat) (v : Group) : (c.setGroup g v).tc = c.tc := rfl
@[simp] theorem Chip.setGroup_store (g : Nat) (v : Group) : (c.setGroup g v).store = c.store := rfl
@[simp] theorem Chip.setGroup_boot (g : Nat) (v : Group) : (c.setGroup g v).boot = c.boot := rfl
@[simp] theorem Chip.setGroup_queues (g : Nat) (v : Group) : (c.setGroup g v).queues = c.queues := rfl
@[simp] theorem Chip.setGroup_sessions (g : Nat) (v : Group) : (c.setGroup g v).sessions = c.sessions := rfl
@[simp] theorem Chip.setGroup_nextSession (g : Nat) (v : Group) : (c.setGroup g v).nextSession = c.nextSession := rfl
@[simp] theorem Chip.setGroup_started (g : Nat) (v : Group) : (c.setGroup g v).started = c.started := rfl
@[simp] theorem Chip.setGroup_lastStarted (g : Nat) (v : Group) : (c.setGroup g v).lastStarted = c.lastStarted := rfl
@[simp] theorem Chip.setGroup_notices (g : Nat) (v : Group) : (c.setGroup g v).notices = c.notices := rfl
@[simp] theorem Chip.setGroup_latchBar (g : Nat) (v : Group) : (c.setGroup g v).latchBar = c.latchBar := rfl
@[simp] theorem Chip.setGroup_latchCore (g : Nat) (v : Group) : (c.setGroup g v).latchCore = c.latchCore := rfl
@[simp] theorem Chip.setGroup_stageBar (g : Nat) (v : Group) : (c.setGroup g v).stageBar = c.stageBar := rfl
@[simp] theorem Chip.setGroup_stageCore (g : Nat) (v : Group) : (c.setGroup g v).stageCore = c.stageCore := rfl
@[simp] theorem Chip.setGroup_readData (g : Nat) (v : Group) : (c.setGroup g v).readData = c.readData := rfl
@[simp] theorem Chip.setGroup_pcie (g : Nat) (v : Group) : (c.setGroup g v).pcie = c.pcie := rfl
@[simp] theorem Chip.setGroup_cores (g : Nat) (v : Group) : (c.setGroup g v).cores = c.cores := rfl
@[simp] theorem Chip.setGroup_host (g : Nat) (v : Group) : (c.setGroup g v).host = c.host := rfl
@[simp] theorem Chip.setGroup_feeds (g : Nat) (v : Group) : (c.setGroup g v).feeds = c.feeds := rfl
@[simp] theorem Chip.setGroup_eth (g : Nat) (v : Group) : (c.setGroup g v).eth = c.eth := rfl
@[simp] theorem Chip.setGroup_units (g : Nat) (v : Group) : (c.setGroup g v).units = c.units := rfl
@[simp] theorem Chip.setGroup_retired (g : Nat) (v : Group) : (c.setGroup g v).retired = c.retired := rfl
@[simp] theorem Chip.setGroup_retiredNow (g : Nat) (v : Group) : (c.setGroup g v).retiredNow = c.retiredNow := rfl
@[simp] theorem Chip.setGroup_buckets (g : Nat) (v : Group) : (c.setGroup g v).buckets = c.buckets := rfl
@[simp] theorem Chip.setGroup_links (g : Nat) (v : Group) : (c.setGroup g v).links = c.links := rfl
@[simp] theorem Chip.setGroup_cxl (g : Nat) (v : Group) : (c.setGroup g v).cxl = c.cxl := rfl
@[simp] theorem Chip.setGroup_hotStacks (g : Nat) (v : Group) : (c.setGroup g v).hotStacks = c.hotStacks := rfl
@[simp] theorem Chip.setGroup_hotChannels (g : Nat) (v : Group) : (c.setGroup g v).hotChannels = c.hotChannels := rfl
@[simp] theorem Chip.setGroup_scaleMod (g : Nat) (v : Group) : (c.setGroup g v).scaleMod = c.scaleMod := rfl
@[simp] theorem Chip.setGroup_scaleExp (g : Nat) (v : Group) : (c.setGroup g v).scaleExp = c.scaleExp := rfl
@[simp] theorem Chip.setGroup_windows (g : Nat) (v : Group) : (c.setGroup g v).windows = c.windows := rfl
@[simp] theorem Chip.setGroup_codes (g : Nat) (v : Group) : (c.setGroup g v).codes = c.codes := rfl
@[simp] theorem Chip.setGroup_insts (g : Nat) (v : Group) : (c.setGroup g v).insts = c.insts := rfl
@[simp] theorem Chip.setGroup_dram (g : Nat) (v : Group) : (c.setGroup g v).dram = c.dram := rfl
@[simp] theorem Chip.setGroup_poison (g : Nat) (v : Group) : (c.setGroup g v).poison = c.poison := rfl
@[simp] theorem Chip.setGroup_poisonReads (g : Nat) (v : Group) : (c.setGroup g v).poisonReads = c.poisonReads := rfl
@[simp] theorem Chip.setGroup_tiles (g : Nat) (v : Group) : (c.setGroup g v).tiles = c.tiles := rfl
@[simp] theorem Chip.setGroup_sigs (g : Nat) (v : Group) : (c.setGroup g v).sigs = c.sigs := rfl
@[simp] theorem Chip.setGroup_acks (g : Nat) (v : Group) : (c.setGroup g v).acks = c.acks := rfl
@[simp] theorem Chip.setGroup_engines (g : Nat) (v : Group) : (c.setGroup g v).engines = c.engines := rfl
@[simp] theorem Chip.setGroup_front (g : Nat) (v : Group) : (c.setGroup g v).front = c.front := rfl
@[simp] theorem Chip.setGroup_gatedHub (g : Nat) (v : Group) : (c.setGroup g v).gatedHub = c.gatedHub := rfl
@[simp] theorem Chip.setGroup_bruinTurn (g : Nat) (v : Group) : (c.setGroup g v).bruinTurn = c.bruinTurn := rfl
@[simp] theorem Chip.setGroup_txStreams (g : Nat) (v : Group) : (c.setGroup g v).txStreams = c.txStreams := rfl
@[simp] theorem Chip.setGroup_rxStreams (g : Nat) (v : Group) : (c.setGroup g v).rxStreams = c.rxStreams := rfl
@[simp] theorem Chip.setGroup_unplaced (g : Nat) (v : Group) : (c.setGroup g v).unplaced = c.unplaced := rfl
@[simp] theorem Chip.setGroup_delivered (g : Nat) (v : Group) : (c.setGroup g v).delivered = c.delivered := rfl
@[simp] theorem Chip.setGroup_fabricDrops (g : Nat) (v : Group) : (c.setGroup g v).fabricDrops = c.fabricDrops := rfl
@[simp] theorem Chip.setGroup_moves (g : Nat) (v : Group) : (c.setGroup g v).moves = c.moves := rfl
@[simp] theorem Chip.setGroup_side (g : Nat) (v : Group) : (c.setGroup g v).side = c.side := rfl
@[simp] theorem Chip.setGroup_out (g : Nat) (v : Group) : (c.setGroup g v).out = c.out := rfl
@[simp] theorem Chip.setGroup_queue (g : Nat) (v : Group) (j : Nat) : (c.setGroup g v).queue j = c.queue j := rfl
@[simp] theorem Chip.setGroup_noticeQ (g : Nat) (v : Group) (j : Nat) : (c.setGroup g v).noticeQ j = c.noticeQ j := rfl
@[simp] theorem Chip.setGroup_core (g : Nat) (v : Group) (j : Nat) : (c.setGroup g v).core j = c.core j := rfl
@[simp] theorem Chip.setGroup_feed (g : Nat) (v : Group) (j : Nat) : (c.setGroup g v).feed j = c.feed j := rfl
@[simp] theorem Chip.setGroup_ethPort (g : Nat) (v : Group) (j : Nat) : (c.setGroup g v).ethPort j = c.ethPort j := rfl
@[simp] theorem Chip.setGroup_link (g : Nat) (v : Group) (j : Nat) : (c.setGroup g v).link j = c.link j := rfl
@[simp] theorem Chip.setGroup_cxlPort (g : Nat) (v : Group) (j : Nat) : (c.setGroup g v).cxlPort j = c.cxlPort j := rfl
@[simp] theorem Chip.setGroup_inst (g : Nat) (v : Group) (j : Nat) : (c.setGroup g v).inst j = c.inst j := rfl
@[simp] theorem Chip.setGroup_job (g : Nat) (v : Group) (j : Nat) : (c.setGroup g v).job j = c.job j := rfl
@[simp] theorem Chip.setGroup_tile (g : Nat) (v : Group) (j : Nat) : (c.setGroup g v).tile j = c.tile j := rfl
@[simp] theorem Chip.setGroup_engine (g : Nat) (v : Group) (j : Nat) : (c.setGroup g v).engine j = c.engine j := rfl
@[simp] theorem Chip.setGroup_session (g : Nat) (v : Group) (j : Nat) : (c.setGroup g v).session j = c.session j := rfl
@[simp] theorem Chip.setGroup_sc (g : Nat) (v : Group) : (c.setGroup g v).sc = c.sc := rfl
@[simp] theorem Chip.setGroup_bootNo (g : Nat) (v : Group) : (c.setGroup g v).bootNo = c.bootNo := rfl
@[simp] theorem Chip.setGroup_starts (g : Nat) (v : Group) : (c.setGroup g v).starts = c.starts := rfl
@[simp] theorem Chip.setGroup_calNext (g : Nat) (v : Group) : (c.setGroup g v).calNext = c.calNext := rfl
@[simp] theorem Chip.setGroup_corrected (g : Nat) (v : Group) : (c.setGroup g v).corrected = c.corrected := rfl
@[simp] theorem Chip.setGroup_frontTurn (g : Nat) (v : Group) : (c.setGroup g v).frontTurn = c.frontTurn := rfl
@[simp] theorem Chip.setGroup_reqs (g : Nat) (v : Group) : (c.setGroup g v).reqs = c.reqs := rfl

@[simp] theorem Chip.setUnit_freeCount (u : UnitId) (v : UnitCtl) : (c.setUnit u v).freeCount = c.freeCount := rfl
@[simp] theorem Chip.setUnit_tc (u : UnitId) (v : UnitCtl) : (c.setUnit u v).tc = c.tc := rfl
@[simp] theorem Chip.setUnit_store (u : UnitId) (v : UnitCtl) : (c.setUnit u v).store = c.store := rfl
@[simp] theorem Chip.setUnit_boot (u : UnitId) (v : UnitCtl) : (c.setUnit u v).boot = c.boot := rfl
@[simp] theorem Chip.setUnit_queues (u : UnitId) (v : UnitCtl) : (c.setUnit u v).queues = c.queues := rfl
@[simp] theorem Chip.setUnit_sessions (u : UnitId) (v : UnitCtl) : (c.setUnit u v).sessions = c.sessions := rfl
@[simp] theorem Chip.setUnit_nextSession (u : UnitId) (v : UnitCtl) : (c.setUnit u v).nextSession = c.nextSession := rfl
@[simp] theorem Chip.setUnit_started (u : UnitId) (v : UnitCtl) : (c.setUnit u v).started = c.started := rfl
@[simp] theorem Chip.setUnit_lastStarted (u : UnitId) (v : UnitCtl) : (c.setUnit u v).lastStarted = c.lastStarted := rfl
@[simp] theorem Chip.setUnit_notices (u : UnitId) (v : UnitCtl) : (c.setUnit u v).notices = c.notices := rfl
@[simp] theorem Chip.setUnit_latchBar (u : UnitId) (v : UnitCtl) : (c.setUnit u v).latchBar = c.latchBar := rfl
@[simp] theorem Chip.setUnit_latchCore (u : UnitId) (v : UnitCtl) : (c.setUnit u v).latchCore = c.latchCore := rfl
@[simp] theorem Chip.setUnit_stageBar (u : UnitId) (v : UnitCtl) : (c.setUnit u v).stageBar = c.stageBar := rfl
@[simp] theorem Chip.setUnit_stageCore (u : UnitId) (v : UnitCtl) : (c.setUnit u v).stageCore = c.stageCore := rfl
@[simp] theorem Chip.setUnit_readData (u : UnitId) (v : UnitCtl) : (c.setUnit u v).readData = c.readData := rfl
@[simp] theorem Chip.setUnit_pcie (u : UnitId) (v : UnitCtl) : (c.setUnit u v).pcie = c.pcie := rfl
@[simp] theorem Chip.setUnit_cores (u : UnitId) (v : UnitCtl) : (c.setUnit u v).cores = c.cores := rfl
@[simp] theorem Chip.setUnit_host (u : UnitId) (v : UnitCtl) : (c.setUnit u v).host = c.host := rfl
@[simp] theorem Chip.setUnit_feeds (u : UnitId) (v : UnitCtl) : (c.setUnit u v).feeds = c.feeds := rfl
@[simp] theorem Chip.setUnit_eth (u : UnitId) (v : UnitCtl) : (c.setUnit u v).eth = c.eth := rfl
@[simp] theorem Chip.setUnit_retired (u : UnitId) (v : UnitCtl) : (c.setUnit u v).retired = c.retired := rfl
@[simp] theorem Chip.setUnit_retiredNow (u : UnitId) (v : UnitCtl) : (c.setUnit u v).retiredNow = c.retiredNow := rfl
@[simp] theorem Chip.setUnit_buckets (u : UnitId) (v : UnitCtl) : (c.setUnit u v).buckets = c.buckets := rfl
@[simp] theorem Chip.setUnit_links (u : UnitId) (v : UnitCtl) : (c.setUnit u v).links = c.links := rfl
@[simp] theorem Chip.setUnit_cxl (u : UnitId) (v : UnitCtl) : (c.setUnit u v).cxl = c.cxl := rfl
@[simp] theorem Chip.setUnit_hotStacks (u : UnitId) (v : UnitCtl) : (c.setUnit u v).hotStacks = c.hotStacks := rfl
@[simp] theorem Chip.setUnit_hotChannels (u : UnitId) (v : UnitCtl) : (c.setUnit u v).hotChannels = c.hotChannels := rfl
@[simp] theorem Chip.setUnit_scaleMod (u : UnitId) (v : UnitCtl) : (c.setUnit u v).scaleMod = c.scaleMod := rfl
@[simp] theorem Chip.setUnit_scaleExp (u : UnitId) (v : UnitCtl) : (c.setUnit u v).scaleExp = c.scaleExp := rfl
@[simp] theorem Chip.setUnit_windows (u : UnitId) (v : UnitCtl) : (c.setUnit u v).windows = c.windows := rfl
@[simp] theorem Chip.setUnit_codes (u : UnitId) (v : UnitCtl) : (c.setUnit u v).codes = c.codes := rfl
@[simp] theorem Chip.setUnit_insts (u : UnitId) (v : UnitCtl) : (c.setUnit u v).insts = c.insts := rfl
@[simp] theorem Chip.setUnit_dram (u : UnitId) (v : UnitCtl) : (c.setUnit u v).dram = c.dram := rfl
@[simp] theorem Chip.setUnit_poison (u : UnitId) (v : UnitCtl) : (c.setUnit u v).poison = c.poison := rfl
@[simp] theorem Chip.setUnit_poisonReads (u : UnitId) (v : UnitCtl) : (c.setUnit u v).poisonReads = c.poisonReads := rfl
@[simp] theorem Chip.setUnit_tiles (u : UnitId) (v : UnitCtl) : (c.setUnit u v).tiles = c.tiles := rfl
@[simp] theorem Chip.setUnit_sigs (u : UnitId) (v : UnitCtl) : (c.setUnit u v).sigs = c.sigs := rfl
@[simp] theorem Chip.setUnit_acks (u : UnitId) (v : UnitCtl) : (c.setUnit u v).acks = c.acks := rfl
@[simp] theorem Chip.setUnit_engines (u : UnitId) (v : UnitCtl) : (c.setUnit u v).engines = c.engines := rfl
@[simp] theorem Chip.setUnit_front (u : UnitId) (v : UnitCtl) : (c.setUnit u v).front = c.front := rfl
@[simp] theorem Chip.setUnit_gatedHub (u : UnitId) (v : UnitCtl) : (c.setUnit u v).gatedHub = c.gatedHub := rfl
@[simp] theorem Chip.setUnit_bruinTurn (u : UnitId) (v : UnitCtl) : (c.setUnit u v).bruinTurn = c.bruinTurn := rfl
@[simp] theorem Chip.setUnit_groups (u : UnitId) (v : UnitCtl) : (c.setUnit u v).groups = c.groups := rfl
@[simp] theorem Chip.setUnit_txStreams (u : UnitId) (v : UnitCtl) : (c.setUnit u v).txStreams = c.txStreams := rfl
@[simp] theorem Chip.setUnit_rxStreams (u : UnitId) (v : UnitCtl) : (c.setUnit u v).rxStreams = c.rxStreams := rfl
@[simp] theorem Chip.setUnit_unplaced (u : UnitId) (v : UnitCtl) : (c.setUnit u v).unplaced = c.unplaced := rfl
@[simp] theorem Chip.setUnit_delivered (u : UnitId) (v : UnitCtl) : (c.setUnit u v).delivered = c.delivered := rfl
@[simp] theorem Chip.setUnit_fabricDrops (u : UnitId) (v : UnitCtl) : (c.setUnit u v).fabricDrops = c.fabricDrops := rfl
@[simp] theorem Chip.setUnit_moves (u : UnitId) (v : UnitCtl) : (c.setUnit u v).moves = c.moves := rfl
@[simp] theorem Chip.setUnit_side (u : UnitId) (v : UnitCtl) : (c.setUnit u v).side = c.side := rfl
@[simp] theorem Chip.setUnit_out (u : UnitId) (v : UnitCtl) : (c.setUnit u v).out = c.out := rfl
@[simp] theorem Chip.setUnit_queue (u : UnitId) (v : UnitCtl) (j : Nat) : (c.setUnit u v).queue j = c.queue j := rfl
@[simp] theorem Chip.setUnit_noticeQ (u : UnitId) (v : UnitCtl) (j : Nat) : (c.setUnit u v).noticeQ j = c.noticeQ j := rfl
@[simp] theorem Chip.setUnit_core (u : UnitId) (v : UnitCtl) (j : Nat) : (c.setUnit u v).core j = c.core j := rfl
@[simp] theorem Chip.setUnit_feed (u : UnitId) (v : UnitCtl) (j : Nat) : (c.setUnit u v).feed j = c.feed j := rfl
@[simp] theorem Chip.setUnit_ethPort (u : UnitId) (v : UnitCtl) (j : Nat) : (c.setUnit u v).ethPort j = c.ethPort j := rfl
@[simp] theorem Chip.setUnit_link (u : UnitId) (v : UnitCtl) (j : Nat) : (c.setUnit u v).link j = c.link j := rfl
@[simp] theorem Chip.setUnit_cxlPort (u : UnitId) (v : UnitCtl) (j : Nat) : (c.setUnit u v).cxlPort j = c.cxlPort j := rfl
@[simp] theorem Chip.setUnit_inst (u : UnitId) (v : UnitCtl) (j : Nat) : (c.setUnit u v).inst j = c.inst j := rfl
@[simp] theorem Chip.setUnit_job (u : UnitId) (v : UnitCtl) (j : Nat) : (c.setUnit u v).job j = c.job j := rfl
@[simp] theorem Chip.setUnit_tile (u : UnitId) (v : UnitCtl) (j : Nat) : (c.setUnit u v).tile j = c.tile j := rfl
@[simp] theorem Chip.setUnit_engine (u : UnitId) (v : UnitCtl) (j : Nat) : (c.setUnit u v).engine j = c.engine j := rfl
@[simp] theorem Chip.setUnit_group (u : UnitId) (v : UnitCtl) (j : Nat) : (c.setUnit u v).group j = c.group j := rfl
@[simp] theorem Chip.setUnit_session (u : UnitId) (v : UnitCtl) (j : Nat) : (c.setUnit u v).session j = c.session j := rfl
@[simp] theorem Chip.setUnit_sc (u : UnitId) (v : UnitCtl) : (c.setUnit u v).sc = c.sc := rfl
@[simp] theorem Chip.setUnit_bootNo (u : UnitId) (v : UnitCtl) : (c.setUnit u v).bootNo = c.bootNo := rfl
@[simp] theorem Chip.setUnit_starts (u : UnitId) (v : UnitCtl) : (c.setUnit u v).starts = c.starts := rfl
@[simp] theorem Chip.setUnit_calNext (u : UnitId) (v : UnitCtl) : (c.setUnit u v).calNext = c.calNext := rfl
@[simp] theorem Chip.setUnit_corrected (u : UnitId) (v : UnitCtl) : (c.setUnit u v).corrected = c.corrected := rfl
@[simp] theorem Chip.setUnit_frontTurn (u : UnitId) (v : UnitCtl) : (c.setUnit u v).frontTurn = c.frontTurn := rfl
@[simp] theorem Chip.setUnit_reqs (u : UnitId) (v : UnitCtl) : (c.setUnit u v).reqs = c.reqs := rfl

@[simp] theorem Chip.emit_freeCount (o : Out) : (c.emit o).freeCount = c.freeCount := rfl
@[simp] theorem Chip.emit_tc (o : Out) : (c.emit o).tc = c.tc := rfl
@[simp] theorem Chip.emit_store (o : Out) : (c.emit o).store = c.store := rfl
@[simp] theorem Chip.emit_boot (o : Out) : (c.emit o).boot = c.boot := rfl
@[simp] theorem Chip.emit_queues (o : Out) : (c.emit o).queues = c.queues := rfl
@[simp] theorem Chip.emit_sessions (o : Out) : (c.emit o).sessions = c.sessions := rfl
@[simp] theorem Chip.emit_nextSession (o : Out) : (c.emit o).nextSession = c.nextSession := rfl
@[simp] theorem Chip.emit_started (o : Out) : (c.emit o).started = c.started := rfl
@[simp] theorem Chip.emit_lastStarted (o : Out) : (c.emit o).lastStarted = c.lastStarted := rfl
@[simp] theorem Chip.emit_notices (o : Out) : (c.emit o).notices = c.notices := rfl
@[simp] theorem Chip.emit_latchBar (o : Out) : (c.emit o).latchBar = c.latchBar := rfl
@[simp] theorem Chip.emit_latchCore (o : Out) : (c.emit o).latchCore = c.latchCore := rfl
@[simp] theorem Chip.emit_stageBar (o : Out) : (c.emit o).stageBar = c.stageBar := rfl
@[simp] theorem Chip.emit_stageCore (o : Out) : (c.emit o).stageCore = c.stageCore := rfl
@[simp] theorem Chip.emit_readData (o : Out) : (c.emit o).readData = c.readData := rfl
@[simp] theorem Chip.emit_pcie (o : Out) : (c.emit o).pcie = c.pcie := rfl
@[simp] theorem Chip.emit_cores (o : Out) : (c.emit o).cores = c.cores := rfl
@[simp] theorem Chip.emit_host (o : Out) : (c.emit o).host = c.host := rfl
@[simp] theorem Chip.emit_feeds (o : Out) : (c.emit o).feeds = c.feeds := rfl
@[simp] theorem Chip.emit_eth (o : Out) : (c.emit o).eth = c.eth := rfl
@[simp] theorem Chip.emit_units (o : Out) : (c.emit o).units = c.units := rfl
@[simp] theorem Chip.emit_retired (o : Out) : (c.emit o).retired = c.retired := rfl
@[simp] theorem Chip.emit_retiredNow (o : Out) : (c.emit o).retiredNow = c.retiredNow := rfl
@[simp] theorem Chip.emit_buckets (o : Out) : (c.emit o).buckets = c.buckets := rfl
@[simp] theorem Chip.emit_links (o : Out) : (c.emit o).links = c.links := rfl
@[simp] theorem Chip.emit_cxl (o : Out) : (c.emit o).cxl = c.cxl := rfl
@[simp] theorem Chip.emit_hotStacks (o : Out) : (c.emit o).hotStacks = c.hotStacks := rfl
@[simp] theorem Chip.emit_hotChannels (o : Out) : (c.emit o).hotChannels = c.hotChannels := rfl
@[simp] theorem Chip.emit_scaleMod (o : Out) : (c.emit o).scaleMod = c.scaleMod := rfl
@[simp] theorem Chip.emit_scaleExp (o : Out) : (c.emit o).scaleExp = c.scaleExp := rfl
@[simp] theorem Chip.emit_windows (o : Out) : (c.emit o).windows = c.windows := rfl
@[simp] theorem Chip.emit_codes (o : Out) : (c.emit o).codes = c.codes := rfl
@[simp] theorem Chip.emit_insts (o : Out) : (c.emit o).insts = c.insts := rfl
@[simp] theorem Chip.emit_dram (o : Out) : (c.emit o).dram = c.dram := rfl
@[simp] theorem Chip.emit_poison (o : Out) : (c.emit o).poison = c.poison := rfl
@[simp] theorem Chip.emit_poisonReads (o : Out) : (c.emit o).poisonReads = c.poisonReads := rfl
@[simp] theorem Chip.emit_tiles (o : Out) : (c.emit o).tiles = c.tiles := rfl
@[simp] theorem Chip.emit_sigs (o : Out) : (c.emit o).sigs = c.sigs := rfl
@[simp] theorem Chip.emit_acks (o : Out) : (c.emit o).acks = c.acks := rfl
@[simp] theorem Chip.emit_engines (o : Out) : (c.emit o).engines = c.engines := rfl
@[simp] theorem Chip.emit_front (o : Out) : (c.emit o).front = c.front := rfl
@[simp] theorem Chip.emit_gatedHub (o : Out) : (c.emit o).gatedHub = c.gatedHub := rfl
@[simp] theorem Chip.emit_bruinTurn (o : Out) : (c.emit o).bruinTurn = c.bruinTurn := rfl
@[simp] theorem Chip.emit_groups (o : Out) : (c.emit o).groups = c.groups := rfl
@[simp] theorem Chip.emit_txStreams (o : Out) : (c.emit o).txStreams = c.txStreams := rfl
@[simp] theorem Chip.emit_rxStreams (o : Out) : (c.emit o).rxStreams = c.rxStreams := rfl
@[simp] theorem Chip.emit_unplaced (o : Out) : (c.emit o).unplaced = c.unplaced := rfl
@[simp] theorem Chip.emit_delivered (o : Out) : (c.emit o).delivered = c.delivered := rfl
@[simp] theorem Chip.emit_fabricDrops (o : Out) : (c.emit o).fabricDrops = c.fabricDrops := rfl
@[simp] theorem Chip.emit_moves (o : Out) : (c.emit o).moves = c.moves := rfl
@[simp] theorem Chip.emit_side (o : Out) : (c.emit o).side = c.side := rfl
@[simp] theorem Chip.emit_queue (o : Out) (j : Nat) : (c.emit o).queue j = c.queue j := rfl
@[simp] theorem Chip.emit_noticeQ (o : Out) (j : Nat) : (c.emit o).noticeQ j = c.noticeQ j := rfl
@[simp] theorem Chip.emit_core (o : Out) (j : Nat) : (c.emit o).core j = c.core j := rfl
@[simp] theorem Chip.emit_feed (o : Out) (j : Nat) : (c.emit o).feed j = c.feed j := rfl
@[simp] theorem Chip.emit_ethPort (o : Out) (j : Nat) : (c.emit o).ethPort j = c.ethPort j := rfl
@[simp] theorem Chip.emit_link (o : Out) (j : Nat) : (c.emit o).link j = c.link j := rfl
@[simp] theorem Chip.emit_cxlPort (o : Out) (j : Nat) : (c.emit o).cxlPort j = c.cxlPort j := rfl
@[simp] theorem Chip.emit_inst (o : Out) (j : Nat) : (c.emit o).inst j = c.inst j := rfl
@[simp] theorem Chip.emit_job (o : Out) (j : Nat) : (c.emit o).job j = c.job j := rfl
@[simp] theorem Chip.emit_tile (o : Out) (j : Nat) : (c.emit o).tile j = c.tile j := rfl
@[simp] theorem Chip.emit_engine (o : Out) (j : Nat) : (c.emit o).engine j = c.engine j := rfl
@[simp] theorem Chip.emit_group (o : Out) (j : Nat) : (c.emit o).group j = c.group j := rfl
@[simp] theorem Chip.emit_session (o : Out) (j : Nat) : (c.emit o).session j = c.session j := rfl
@[simp] theorem Chip.emit_sc (o : Out) : (c.emit o).sc = c.sc := rfl
@[simp] theorem Chip.emit_bootNo (o : Out) : (c.emit o).bootNo = c.bootNo := rfl
@[simp] theorem Chip.emit_starts (o : Out) : (c.emit o).starts = c.starts := rfl
@[simp] theorem Chip.emit_calNext (o : Out) : (c.emit o).calNext = c.calNext := rfl
@[simp] theorem Chip.emit_corrected (o : Out) : (c.emit o).corrected = c.corrected := rfl
@[simp] theorem Chip.emit_frontTurn (o : Out) : (c.emit o).frontTurn = c.frontTurn := rfl
@[simp] theorem Chip.emit_reqs (o : Out) : (c.emit o).reqs = c.reqs := rfl

@[simp] theorem Chip.drew_tc : (c.drew).tc = c.tc := rfl
@[simp] theorem Chip.drew_store : (c.drew).store = c.store := rfl
@[simp] theorem Chip.drew_boot : (c.drew).boot = c.boot := rfl
@[simp] theorem Chip.drew_queues : (c.drew).queues = c.queues := rfl
@[simp] theorem Chip.drew_sessions : (c.drew).sessions = c.sessions := rfl
@[simp] theorem Chip.drew_nextSession : (c.drew).nextSession = c.nextSession := rfl
@[simp] theorem Chip.drew_started : (c.drew).started = c.started := rfl
@[simp] theorem Chip.drew_lastStarted : (c.drew).lastStarted = c.lastStarted := rfl
@[simp] theorem Chip.drew_notices : (c.drew).notices = c.notices := rfl
@[simp] theorem Chip.drew_latchBar : (c.drew).latchBar = c.latchBar := rfl
@[simp] theorem Chip.drew_latchCore : (c.drew).latchCore = c.latchCore := rfl
@[simp] theorem Chip.drew_stageBar : (c.drew).stageBar = c.stageBar := rfl
@[simp] theorem Chip.drew_stageCore : (c.drew).stageCore = c.stageCore := rfl
@[simp] theorem Chip.drew_readData : (c.drew).readData = c.readData := rfl
@[simp] theorem Chip.drew_pcie : (c.drew).pcie = c.pcie := rfl
@[simp] theorem Chip.drew_cores : (c.drew).cores = c.cores := rfl
@[simp] theorem Chip.drew_host : (c.drew).host = c.host := rfl
@[simp] theorem Chip.drew_feeds : (c.drew).feeds = c.feeds := rfl
@[simp] theorem Chip.drew_eth : (c.drew).eth = c.eth := rfl
@[simp] theorem Chip.drew_units : (c.drew).units = c.units := rfl
@[simp] theorem Chip.drew_retired : (c.drew).retired = c.retired := rfl
@[simp] theorem Chip.drew_retiredNow : (c.drew).retiredNow = c.retiredNow := rfl
@[simp] theorem Chip.drew_buckets : (c.drew).buckets = c.buckets := rfl
@[simp] theorem Chip.drew_links : (c.drew).links = c.links := rfl
@[simp] theorem Chip.drew_cxl : (c.drew).cxl = c.cxl := rfl
@[simp] theorem Chip.drew_hotStacks : (c.drew).hotStacks = c.hotStacks := rfl
@[simp] theorem Chip.drew_hotChannels : (c.drew).hotChannels = c.hotChannels := rfl
@[simp] theorem Chip.drew_scaleMod : (c.drew).scaleMod = c.scaleMod := rfl
@[simp] theorem Chip.drew_scaleExp : (c.drew).scaleExp = c.scaleExp := rfl
@[simp] theorem Chip.drew_windows : (c.drew).windows = c.windows := rfl
@[simp] theorem Chip.drew_codes : (c.drew).codes = c.codes := rfl
@[simp] theorem Chip.drew_insts : (c.drew).insts = c.insts := rfl
@[simp] theorem Chip.drew_dram : (c.drew).dram = c.dram := rfl
@[simp] theorem Chip.drew_poison : (c.drew).poison = c.poison := rfl
@[simp] theorem Chip.drew_poisonReads : (c.drew).poisonReads = c.poisonReads := rfl
@[simp] theorem Chip.drew_tiles : (c.drew).tiles = c.tiles := rfl
@[simp] theorem Chip.drew_sigs : (c.drew).sigs = c.sigs := rfl
@[simp] theorem Chip.drew_acks : (c.drew).acks = c.acks := rfl
@[simp] theorem Chip.drew_engines : (c.drew).engines = c.engines := rfl
@[simp] theorem Chip.drew_front : (c.drew).front = c.front := rfl
@[simp] theorem Chip.drew_gatedHub : (c.drew).gatedHub = c.gatedHub := rfl
@[simp] theorem Chip.drew_bruinTurn : (c.drew).bruinTurn = c.bruinTurn := rfl
@[simp] theorem Chip.drew_groups : (c.drew).groups = c.groups := rfl
@[simp] theorem Chip.drew_txStreams : (c.drew).txStreams = c.txStreams := rfl
@[simp] theorem Chip.drew_rxStreams : (c.drew).rxStreams = c.rxStreams := rfl
@[simp] theorem Chip.drew_unplaced : (c.drew).unplaced = c.unplaced := rfl
@[simp] theorem Chip.drew_delivered : (c.drew).delivered = c.delivered := rfl
@[simp] theorem Chip.drew_fabricDrops : (c.drew).fabricDrops = c.fabricDrops := rfl
@[simp] theorem Chip.drew_moves : (c.drew).moves = c.moves := rfl
@[simp] theorem Chip.drew_side : (c.drew).side = c.side := rfl
@[simp] theorem Chip.drew_out : (c.drew).out = c.out := rfl
@[simp] theorem Chip.drew_queue (j : Nat) : (c.drew).queue j = c.queue j := rfl
@[simp] theorem Chip.drew_noticeQ (j : Nat) : (c.drew).noticeQ j = c.noticeQ j := rfl
@[simp] theorem Chip.drew_core (j : Nat) : (c.drew).core j = c.core j := rfl
@[simp] theorem Chip.drew_feed (j : Nat) : (c.drew).feed j = c.feed j := rfl
@[simp] theorem Chip.drew_ethPort (j : Nat) : (c.drew).ethPort j = c.ethPort j := rfl
@[simp] theorem Chip.drew_link (j : Nat) : (c.drew).link j = c.link j := rfl
@[simp] theorem Chip.drew_cxlPort (j : Nat) : (c.drew).cxlPort j = c.cxlPort j := rfl
@[simp] theorem Chip.drew_inst (j : Nat) : (c.drew).inst j = c.inst j := rfl
@[simp] theorem Chip.drew_job (j : Nat) : (c.drew).job j = c.job j := rfl
@[simp] theorem Chip.drew_tile (j : Nat) : (c.drew).tile j = c.tile j := rfl
@[simp] theorem Chip.drew_engine (j : Nat) : (c.drew).engine j = c.engine j := rfl
@[simp] theorem Chip.drew_group (j : Nat) : (c.drew).group j = c.group j := rfl
@[simp] theorem Chip.drew_session (j : Nat) : (c.drew).session j = c.session j := rfl
@[simp] theorem Chip.drew_sc : (c.drew).sc = c.sc := rfl
@[simp] theorem Chip.drew_bootNo : (c.drew).bootNo = c.bootNo := rfl
@[simp] theorem Chip.drew_starts : (c.drew).starts = c.starts := rfl
@[simp] theorem Chip.drew_calNext : (c.drew).calNext = c.calNext := rfl
@[simp] theorem Chip.drew_corrected : (c.drew).corrected = c.corrected := rfl
@[simp] theorem Chip.drew_frontTurn : (c.drew).frontTurn = c.frontTurn := rfl
@[simp] theorem Chip.drew_reqs : (c.drew).reqs = c.reqs := rfl

@[simp] theorem Chip.setQueue_queue_self (n : Nat) (v : Queue) : (c.setQueue n v).queue n = v := tget_tput_self _ _ _ _
theorem Chip.setQueue_queue_ne {n m : Nat} (v : Queue) (h : n ≠ m) : (c.setQueue n v).queue m = c.queue m := tget_tput_ne _ _ _ h
@[simp] theorem Chip.setNoticeQ_noticeQ_self (n : Nat) (v : NoticeQ) : (c.setNoticeQ n v).noticeQ n = v := tget_tput_self _ _ _ _
theorem Chip.setNoticeQ_noticeQ_ne {n m : Nat} (v : NoticeQ) (h : n ≠ m) : (c.setNoticeQ n v).noticeQ m = c.noticeQ m := tget_tput_ne _ _ _ h
@[simp] theorem Chip.setInst_inst_self (n : Nat) (v : Inst) : (c.setInst n v).inst n = v := tget_tput_self _ _ _ _
theorem Chip.setInst_inst_ne {n m : Nat} (v : Inst) (h : n ≠ m) : (c.setInst n v).inst m = c.inst m := tget_tput_ne _ _ _ h
@[simp] theorem Chip.setTile_tile_self (n : Nat) (v : Tile) : (c.setTile n v).tile n = v := tget_tput_self _ _ _ _
theorem Chip.setTile_tile_ne {n m : Nat} (v : Tile) (h : n ≠ m) : (c.setTile n v).tile m = c.tile m := tget_tput_ne _ _ _ h
@[simp] theorem Chip.setLink_link_self (n : Nat) (v : Link) : (c.setLink n v).link n = v := tget_tput_self _ _ _ _
theorem Chip.setLink_link_ne {n m : Nat} (v : Link) (h : n ≠ m) : (c.setLink n v).link m = c.link m := tget_tput_ne _ _ _ h
@[simp] theorem Chip.setGroup_group_self (n : Nat) (v : Group) : (c.setGroup n v).group n = v := tget_tput_self _ _ _ _
theorem Chip.setGroup_group_ne {n m : Nat} (v : Group) (h : n ≠ m) : (c.setGroup n v).group m = c.group m := tget_tput_ne _ _ _ h
@[simp] theorem Chip.setCore_core_self (n : Nat) (v : Core) : (c.setCore n v).core n = v := tget_tput_self _ _ _ _
theorem Chip.setCore_core_ne {n m : Nat} (v : Core) (h : n ≠ m) : (c.setCore n v).core m = c.core m := tget_tput_ne _ _ _ h
@[simp] theorem Chip.setFeed_feed_self (n : Nat) (v : Feed) : (c.setFeed n v).feed n = v := tget_tput_self _ _ _ _
theorem Chip.setFeed_feed_ne {n m : Nat} (v : Feed) (h : n ≠ m) : (c.setFeed n v).feed m = c.feed m := tget_tput_ne _ _ _ h
@[simp] theorem Chip.setEngine_engine_self (n : Nat) (v : Engine) : (c.setEngine n v).engine n = v := tget_tput_self _ _ _ _
theorem Chip.setEngine_engine_ne {n m : Nat} (v : Engine) (h : n ≠ m) : (c.setEngine n v).engine m = c.engine m := tget_tput_ne _ _ _ h
@[simp] theorem Chip.setCxl_cxlPort_self (n : Nat) (v : Cxl) : (c.setCxl n v).cxlPort n = v := tget_tput_self _ _ _ _
theorem Chip.setCxl_cxlPort_ne {n m : Nat} (v : Cxl) (h : n ≠ m) : (c.setCxl n v).cxlPort m = c.cxlPort m := tget_tput_ne _ _ _ h
@[simp] theorem Chip.setQueue_setQueue (n : Nat) (v w : Queue) : (c.setQueue n v).setQueue n w = c.setQueue n w := by
  simp [Chip.setQueue]
@[simp] theorem Chip.setNoticeQ_setNoticeQ (n : Nat) (v w : NoticeQ) : (c.setNoticeQ n v).setNoticeQ n w = c.setNoticeQ n w := by
  simp [Chip.setNoticeQ]
@[simp] theorem Chip.setInst_setInst (n : Nat) (v w : Inst) : (c.setInst n v).setInst n w = c.setInst n w := by
  simp [Chip.setInst]
@[simp] theorem Chip.setTile_setTile (n : Nat) (v w : Tile) : (c.setTile n v).setTile n w = c.setTile n w := by
  simp [Chip.setTile]
@[simp] theorem Chip.setLink_setLink (n : Nat) (v w : Link) : (c.setLink n v).setLink n w = c.setLink n w := by
  simp [Chip.setLink]
@[simp] theorem Chip.setGroup_setGroup (n : Nat) (v w : Group) : (c.setGroup n v).setGroup n w = c.setGroup n w := by
  simp [Chip.setGroup]

@[simp] theorem Chip.onQueue_eq (n : Nat) (f : Queue → Queue) : c.onQueue n f = c.setQueue n (f (c.queue n)) := rfl
@[simp] theorem Chip.onNoticeQ_eq (n : Nat) (f : NoticeQ → NoticeQ) : c.onNoticeQ n f = c.setNoticeQ n (f (c.noticeQ n)) := rfl
@[simp] theorem Chip.onInst_eq (n : Nat) (f : Inst → Inst) : c.onInst n f = c.setInst n (f (c.inst n)) := rfl
@[simp] theorem Chip.onTile_eq (n : Nat) (f : Tile → Tile) : c.onTile n f = c.setTile n (f (c.tile n)) := rfl
@[simp] theorem Chip.onLink_eq (n : Nat) (f : Link → Link) : c.onLink n f = c.setLink n (f (c.link n)) := rfl
@[simp] theorem Chip.onGroup_eq (n : Nat) (f : Group → Group) : c.onGroup n f = c.setGroup n (f (c.group n)) := rfl
@[simp] theorem Chip.onJob_eq (i : Nat) (f : Job → Job) :
    c.onJob i f = c.setInst i { c.inst i with job := f (c.inst i).job } := rfl

end Sys2Proof.Machine
end

