-- ==== Sys2Proof/Laws/Icp.lean ====
section
/-! SUPPORT. What the shared wrappers of the meanings answer: `onChip`, `onPins`, `icp`; what the start of a command
touches. -/

namespace Sys2Proof.Machine

/-- A booted module in its supply range carries the effect out. -/
theorem onChip_live {s : State} (h : s.Live) (f : Chip → Chip) : onChip s f = .next { s with chip := f s.chip } := by
  simp [onChip, h.1, h.2]

/-- A module that is not booted does nothing. -/
theorem onChip_idle {s : State} (h : s.power.broken = false) (k : s.power.phase ≠ .running) (f : Chip → Chip) :
    onChip s f = .next s := by
  simp [onChip, h, k]

/-- Outside the supply range every command stops. -/
theorem onChip_broken {s : State} (h : s.power.broken = true) (f : Chip → Chip) : onChip s f = .fault .supplyUndefined := by
  simp [onChip, h]

/-- All that a chip's meaning can answer: the supply fault, the state as it was, or the effect on the chip alone. -/
theorem onChip_cases (s : State) (f : Chip → Chip) :
    onChip s f = .fault .supplyUndefined ∨ onChip s f = .next s ∨ onChip s f = .next { s with chip := f s.chip } := by
  unfold onChip; split
  · exact .inl rfl
  · split
    · exact .inr (.inr rfl)
    · exact .inr (.inl rfl)

theorem onPins_sound {s : State} (h : s.power.broken = false) (f : State → State) : onPins s f = .next (f s) := by
  simp [onPins, h]

/-- All that a meaning at the pins can answer. -/
theorem onPins_cases (s : State) (f : State → State) :
    onPins s f = .fault .supplyUndefined ∨ onPins s f = .next (f s) := by
  unfold onPins; split
  · exact .inl rfl
  · exact .inr rfl

theorem run_of_runs {c : Chip} {op : Byte} {p : Icp} (h : c.runs op p = true) (f : Chip → Icp → Verdict) :
    c.run op p f = (c.begun op p).settle p (f (c.begun op p) p) := by
  simp [Chip.run, h]

/-- A command that runs now comes to what its verdict gives on the chip as it begins. -/
theorem icp_of_runs {s : State} {op : Byte} {p : Icp} (h : s.Live) (r : s.chip.runs op p = true)
    (f : Chip → Icp → Verdict) :
    icp op p s f = .next { s with chip := (s.chip.begun op p).settle p (f (s.chip.begun op p) p) } := by
  rw [icp, onChip_live h, run_of_runs r]

/-- The start of a command touches the list and the count of started commands and its queue, nothing else. -/
theorem begun_eq (c : Chip) (op : Byte) (p : Icp) :
    ∃ st n qs, c.begun op p = { c with started := st, starts := n, queues := qs } := by
  unfold Chip.begun; split
  · exact ⟨_, _, _, rfl⟩
  · unfold Chip.noteSec; split <;> exact ⟨_, _, _, rfl⟩

@[simp] theorem begun_freeCount (c : Chip) (op : Byte) (p : Icp) : (c.begun op p).freeCount = c.freeCount := by
  obtain ⟨_, _, _, h⟩ := begun_eq c op p; rw [h]
@[simp] theorem begun_tc (c : Chip) (op : Byte) (p : Icp) : (c.begun op p).tc = c.tc := by
  obtain ⟨_, _, _, h⟩ := begun_eq c op p; rw [h]
@[simp] theorem begun_store (c : Chip) (op : Byte) (p : Icp) : (c.begun op p).store = c.store := by
  obtain ⟨_, _, _, h⟩ := begun_eq c op p; rw [h]
@[simp] theorem begun_boot (c : Chip) (op : Byte) (p : Icp) : (c.begun op p).boot = c.boot := by
  obtain ⟨_, _, _, h⟩ := begun_eq c op p; rw [h]
@[simp] theorem begun_sessions (c : Chip) (op : Byte) (p : Icp) : (c.begun op p).sessions = c.sessions := by
  obtain ⟨_, _, _, h⟩ := begun_eq c op p; rw [h]
@[simp] theorem begun_nextSession (c : Chip) (op : Byte) (p : Icp) : (c.begun op p).nextSession = c.nextSession := by
  obtain ⟨_, _, _, h⟩ := begun_eq c op p; rw [h]
@[simp] theorem begun_lastStarted (c : Chip) (op : Byte) (p : Icp) : (c.begun op p).lastStarted = c.lastStarted := by
  obtain ⟨_, _, _, h⟩ := begun_eq c op p; rw [h]
@[simp] theorem begun_notices (c : Chip) (op : Byte) (p : Icp) : (c.begun op p).notices = c.notices := by
  obtain ⟨_, _, _, h⟩ := begun_eq c op p; rw [h]
@[simp] theorem begun_latchBar (c : Chip) (op : Byte) (p : Icp) : (c.begun op p).latchBar = c.latchBar := by
  obtain ⟨_, _, _, h⟩ := begun_eq c op p; rw [h]
@[simp] theorem begun_latchCore (c : Chip) (op : Byte) (p : Icp) : (c.begun op p).latchCore = c.latchCore := by
  obtain ⟨_, _, _, h⟩ := begun_eq c op p; rw [h]
@[simp] theorem begun_stageBar (c : Chip) (op : Byte) (p : Icp) : (c.begun op p).stageBar = c.stageBar := by
  obtain ⟨_, _, _, h⟩ := begun_eq c op p; rw [h]
@[simp] theorem begun_stageCore (c : Chip) (op : Byte) (p : Icp) : (c.begun op p).stageCore = c.stageCore := by
  obtain ⟨_, _, _, h⟩ := begun_eq c op p; rw [h]
@[simp] theorem begun_readData (c : Chip) (op : Byte) (p : Icp) : (c.begun op p).readData = c.readData := by
  obtain ⟨_, _, _, h⟩ := begun_eq c op p; rw [h]
@[simp] theorem begun_pcie (c : Chip) (op : Byte) (p : Icp) : (c.begun op p).pcie = c.pcie := by
  obtain ⟨_, _, _, h⟩ := begun_eq c op p; rw [h]
@[simp] theorem begun_cores (c : Chip) (op : Byte) (p : Icp) : (c.begun op p).cores = c.cores := by
  obtain ⟨_, _, _, h⟩ := begun_eq c op p; rw [h]
@[simp] theorem begun_host (c : Chip) (op : Byte) (p : Icp) : (c.begun op p).host = c.host := by
  obtain ⟨_, _, _, h⟩ := begun_eq c op p; rw [h]
@[simp] theorem begun_feeds (c : Chip) (op : Byte) (p : Icp) : (c.begun op p).feeds = c.feeds := by
  obtain ⟨_, _, _, h⟩ := begun_eq c op p; rw [h]
@[simp] theorem begun_eth (c : Chip) (op : Byte) (p : Icp) : (c.begun op p).eth = c.eth := by
  obtain ⟨_, _, _, h⟩ := begun_eq c op p; rw [h]
@[simp] theorem begun_units (c : Chip) (op : Byte) (p : Icp) : (c.begun op p).units = c.units := by
  obtain ⟨_, _, _, h⟩ := begun_eq c op p; rw [h]
@[simp] theorem begun_retired (c : Chip) (op : Byte) (p : Icp) : (c.begun op p).retired = c.retired := by
  obtain ⟨_, _, _, h⟩ := begun_eq c op p; rw [h]
@[simp] theorem begun_retiredNow (c : Chip) (op : Byte) (p : Icp) : (c.begun op p).retiredNow = c.retiredNow := by
  obtain ⟨_, _, _, h⟩ := begun_eq c op p; rw [h]
@[simp] theorem begun_buckets (c : Chip) (op : Byte) (p : Icp) : (c.begun op p).buckets = c.buckets := by
  obtain ⟨_, _, _, h⟩ := begun_eq c op p; rw [h]
@[simp] theorem begun_links (c : Chip) (op : Byte) (p : Icp) : (c.begun op p).links = c.links := by
  obtain ⟨_, _, _, h⟩ := begun_eq c op p; rw [h]
@[simp] theorem begun_cxl (c : Chip) (op : Byte) (p : Icp) : (c.begun op p).cxl = c.cxl := by
  obtain ⟨_, _, _, h⟩ := begun_eq c op p; rw [h]
@[simp] theorem begun_hotStacks (c : Chip) (op : Byte) (p : Icp) : (c.begun op p).hotStacks = c.hotStacks := by
  obtain ⟨_, _, _, h⟩ := begun_eq c op p; rw [h]
@[simp] theorem begun_hotChannels (c : Chip) (op : Byte) (p : Icp) : (c.begun op p).hotChannels = c.hotChannels := by
  obtain ⟨_, _, _, h⟩ := begun_eq c op p; rw [h]
@[simp] theorem begun_scaleMod (c : Chip) (op : Byte) (p : Icp) : (c.begun op p).scaleMod = c.scaleMod := by
  obtain ⟨_, _, _, h⟩ := begun_eq c op p; rw [h]
@[simp] theorem begun_scaleExp (c : Chip) (op : Byte) (p : Icp) : (c.begun op p).scaleExp = c.scaleExp := by
  obtain ⟨_, _, _, h⟩ := begun_eq c op p; rw [h]
@[simp] theorem begun_windows (c : Chip) (op : Byte) (p : Icp) : (c.begun op p).windows = c.windows := by
  obtain ⟨_, _, _, h⟩ := begun_eq c op p; rw [h]
@[simp] theorem begun_codes (c : Chip) (op : Byte) (p : Icp) : (c.begun op p).codes = c.codes := by
  obtain ⟨_, _, _, h⟩ := begun_eq c op p; rw [h]
@[simp] theorem begun_insts (c : Chip) (op : Byte) (p : Icp) : (c.begun op p).insts = c.insts := by
  obtain ⟨_, _, _, h⟩ := begun_eq c op p; rw [h]
@[simp] theorem begun_dram (c : Chip) (op : Byte) (p : Icp) : (c.begun op p).dram = c.dram := by
  obtain ⟨_, _, _, h⟩ := begun_eq c op p; rw [h]
@[simp] theorem begun_poison (c : Chip) (op : Byte) (p : Icp) : (c.begun op p).poison = c.poison := by
  obtain ⟨_, _, _, h⟩ := begun_eq c op p; rw [h]
@[simp] theorem begun_poisonReads (c : Chip) (op : Byte) (p : Icp) : (c.begun op p).poisonReads = c.poisonReads := by
  obtain ⟨_, _, _, h⟩ := begun_eq c op p; rw [h]
@[simp] theorem begun_tiles (c : Chip) (op : Byte) (p : Icp) : (c.begun op p).tiles = c.tiles := by
  obtain ⟨_, _, _, h⟩ := begun_eq c op p; rw [h]
@[simp] theorem begun_sigs (c : Chip) (op : Byte) (p : Icp) : (c.begun op p).sigs = c.sigs := by
  obtain ⟨_, _, _, h⟩ := begun_eq c op p; rw [h]
@[simp] theorem begun_acks (c : Chip) (op : Byte) (p : Icp) : (c.begun op p).acks = c.acks := by
  obtain ⟨_, _, _, h⟩ := begun_eq c op p; rw [h]
@[simp] theorem begun_engines (c : Chip) (op : Byte) (p : Icp) : (c.begun op p).engines = c.engines := by
  obtain ⟨_, _, _, h⟩ := begun_eq c op p; rw [h]
@[simp] theorem begun_front (c : Chip) (op : Byte) (p : Icp) : (c.begun op p).front = c.front := by
  obtain ⟨_, _, _, h⟩ := begun_eq c op p; rw [h]
@[simp] theorem begun_gatedHub (c : Chip) (op : Byte) (p : Icp) : (c.begun op p).gatedHub = c.gatedHub := by
  obtain ⟨_, _, _, h⟩ := begun_eq c op p; rw [h]
@[simp] theorem begun_bruinTurn (c : Chip) (op : Byte) (p : Icp) : (c.begun op p).bruinTurn = c.bruinTurn := by
  obtain ⟨_, _, _, h⟩ := begun_eq c op p; rw [h]
@[simp] theorem begun_groups (c : Chip) (op : Byte) (p : Icp) : (c.begun op p).groups = c.groups := by
  obtain ⟨_, _, _, h⟩ := begun_eq c op p; rw [h]
@[simp] theorem begun_txStreams (c : Chip) (op : Byte) (p : Icp) : (c.begun op p).txStreams = c.txStreams := by
  obtain ⟨_, _, _, h⟩ := begun_eq c op p; rw [h]
@[simp] theorem begun_rxStreams (c : Chip) (op : Byte) (p : Icp) : (c.begun op p).rxStreams = c.rxStreams := by
  obtain ⟨_, _, _, h⟩ := begun_eq c op p; rw [h]
@[simp] theorem begun_unplaced (c : Chip) (op : Byte) (p : Icp) : (c.begun op p).unplaced = c.unplaced := by
  obtain ⟨_, _, _, h⟩ := begun_eq c op p; rw [h]
@[simp] theorem begun_delivered (c : Chip) (op : Byte) (p : Icp) : (c.begun op p).delivered = c.delivered := by
  obtain ⟨_, _, _, h⟩ := begun_eq c op p; rw [h]
@[simp] theorem begun_fabricDrops (c : Chip) (op : Byte) (p : Icp) : (c.begun op p).fabricDrops = c.fabricDrops := by
  obtain ⟨_, _, _, h⟩ := begun_eq c op p; rw [h]
@[simp] theorem begun_moves (c : Chip) (op : Byte) (p : Icp) : (c.begun op p).moves = c.moves := by
  obtain ⟨_, _, _, h⟩ := begun_eq c op p; rw [h]
@[simp] theorem begun_side (c : Chip) (op : Byte) (p : Icp) : (c.begun op p).side = c.side := by
  obtain ⟨_, _, _, h⟩ := begun_eq c op p; rw [h]
@[simp] theorem begun_out (c : Chip) (op : Byte) (p : Icp) : (c.begun op p).out = c.out := by
  obtain ⟨_, _, _, h⟩ := begun_eq c op p; rw [h]
@[simp] theorem begun_calNext (c : Chip) (op : Byte) (p : Icp) : (c.begun op p).calNext = c.calNext := by
  obtain ⟨_, _, _, h⟩ := begun_eq c op p; rw [h]
@[simp] theorem begun_corrected (c : Chip) (op : Byte) (p : Icp) : (c.begun op p).corrected = c.corrected := by
  obtain ⟨_, _, _, h⟩ := begun_eq c op p; rw [h]
@[simp] theorem begun_frontTurn (c : Chip) (op : Byte) (p : Icp) : (c.begun op p).frontTurn = c.frontTurn := by
  obtain ⟨_, _, _, h⟩ := begun_eq c op p; rw [h]
@[simp] theorem begun_reqs (c : Chip) (op : Byte) (p : Icp) : (c.begun op p).reqs = c.reqs := by
  obtain ⟨_, _, _, h⟩ := begun_eq c op p; rw [h]
@[simp] theorem begun_inst (c : Chip) (op : Byte) (p : Icp) (i : Nat) : (c.begun op p).inst i = c.inst i := by
  simp [Chip.inst]
@[simp] theorem begun_job (c : Chip) (op : Byte) (p : Icp) (i : Nat) : (c.begun op p).job i = c.job i := by
  simp [Chip.job]
@[simp] theorem begun_group (c : Chip) (op : Byte) (p : Icp) (i : Nat) : (c.begun op p).group i = c.group i := by
  simp [Chip.group]

/-- What each verdict of a command that runs answers. -/
theorem icp_done {s : State} {op : Byte} {p : Icp} (h : s.Takes op p) {f : Chip → Icp → Verdict} {r : Nat} {data : List Byte}
    {g : Chip → Chip} (e : f (s.chip.begun op p) p = .done r data (g (s.chip.begun op p))) :
    icp op p s f = .next (s.oked op p g r data) := by
  rw [icp_of_runs h.1 h.2, e]; rfl

theorem icp_pending {s : State} {op : Byte} {p : Icp} (h : s.Takes op p) {f : Chip → Icp → Verdict}
    {g : Chip → Chip} (e : f (s.chip.begun op p) p = .pending (g (s.chip.begun op p))) :
    icp op p s f = .next (s.pended op p g) := by
  rw [icp_of_runs h.1 h.2, e]; rfl

theorem icp_refuse {s : State} {op : Byte} {p : Icp} (h : s.Takes op p) {f : Chip → Icp → Verdict} {st d : Nat}
    (e : f (s.chip.begun op p) p = .refuse st d) : icp op p s f = .next (s.refusedWith op p st d) := by
  rw [icp_of_runs h.1 h.2, e]; rfl

theorem icp_later {s : State} {op : Byte} {p : Icp} (h : s.Takes op p) {f : Chip → Icp → Verdict}
    {g : Chip → Chip} (e : f (s.chip.begun op p) p = .later (g (s.chip.begun op p))) :
    icp op p s f = .next (s.went op p g) := by
  rw [icp_of_runs h.1 h.2, e]; rfl

/-- With no reply owed there is none to pay. -/
theorem payOwed_nil (q n : Nat) {c : Chip} (h : (c.queue q).owed = []) : Chip.payOwed q n c = c := by
  cases n <;> simp [Chip.payOwed, h]

end Sys2Proof.Machine
end

