-- ==== Sys2Proof/Laws/Begun.lean ====
section
/-! SUPPORT. What a command can ask of the chip reads the same as the command begins. -/

namespace Sys2Proof.Machine

@[simp] theorem begun_quota (c : Chip) (op : Byte) (p : Icp) (i t : Nat) :
    (c.begun op p).quota i t = c.quota i t := by
  obtain ⟨_, _, _, h⟩ := begun_eq c op p; rw [h]; rfl
@[simp] theorem begun_pool (c : Chip) (op : Byte) (p : Icp) (t : Nat) : (c.begun op p).pool t = c.pool t := by
  obtain ⟨_, _, _, h⟩ := begun_eq c op p; rw [h]; rfl
@[simp] theorem begun_freeAddr (c : Chip) (op : Byte) (p : Icp) (i n : Nat) :
    (c.begun op p).freeAddr i n = c.freeAddr i n := by
  obtain ⟨_, _, _, h⟩ := begun_eq c op p; rw [h]; rfl
@[simp] theorem begun_usedAt (c : Chip) (op : Byte) (p : Icp) (t u : Nat) :
    (c.begun op p).usedAt t u = c.usedAt t u := by
  obtain ⟨_, _, _, h⟩ := begun_eq c op p; rw [h]; rfl
@[simp] theorem begun_capOf (c : Chip) (op : Byte) (p : Icp) (t u : Nat) :
    (c.begun op p).capOf t u = c.capOf t u := by
  obtain ⟨_, _, _, h⟩ := begun_eq c op p; rw [h]; rfl
@[simp] theorem begun_tierUnits (c : Chip) (op : Byte) (p : Icp) (i t : Nat) :
    (c.begun op p).tierUnits i t = c.tierUnits i t := by
  obtain ⟨_, _, _, h⟩ := begun_eq c op p; rw [h]; rfl
@[simp] theorem begun_hotUse (c : Chip) (op : Byte) (p : Icp) (i t : Nat) :
    (c.begun op p).hotUse i t = c.hotUse i t := by
  obtain ⟨_, _, _, h⟩ := begun_eq c op p; rw [h]; rfl
@[simp] theorem begun_placeFrom (c : Chip) (op : Byte) (p : Icp) (us : List Nat) (t k n a : Nat) (l : List Nat) :
    (c.begun op p).placeFrom us t k n a l = c.placeFrom us t k n a l := by
  induction n generalizing a l with
  | zero => rfl
  | succ n ih => simp only [Chip.placeFrom, begun_usedAt, begun_capOf, ih]
@[simp] theorem begun_placeIn (c : Chip) (op : Byte) (p : Icp) (i t k n : Nat) :
    (c.begun op p).placeIn i t k n = c.placeIn i t k n := by
  unfold Chip.placeIn Chip.stackedLeft Chip.groupCap Chip.livePcs Chip.isRetired
  simp only [begun_usedAt, begun_tierUnits, begun_placeFrom, begun_inst, begun_hotUse, begun_retired]
@[simp] theorem begun_quotaTakes (c : Chip) (op : Byte) (p : Icp) (i t k : Nat) :
    (c.begun op p).quotaTakes i t k = c.quotaTakes i t k := by
  obtain ⟨_, _, _, h⟩ := begun_eq c op p; rw [h]; rfl
@[simp] theorem begun_roomIn (c : Chip) (op : Byte) (p : Icp) (i t k n : Nat) :
    (c.begun op p).roomIn i t k n = c.roomIn i t k n := by
  unfold Chip.roomIn; simp only [begun_placeIn, begun_quotaTakes]
@[simp] theorem begun_objStart (c : Chip) (op : Byte) (p : Icp) (i a : Nat) :
    (c.begun op p).objStart i a = c.objStart i a := by
  obtain ⟨_, _, _, h⟩ := begun_eq c op p; rw [h]; rfl
@[simp] theorem begun_objAt (c : Chip) (op : Byte) (p : Icp) (i a : Nat) :
    (c.begun op p).objAt i a = c.objAt i a := by
  obtain ⟨_, _, _, h⟩ := begun_eq c op p; rw [h]; rfl
@[simp] theorem begun_objNear (c : Chip) (op : Byte) (p : Icp) (i a : Nat) :
    (c.begun op p).objNear i a = c.objNear i a := by
  obtain ⟨_, _, _, h⟩ := begun_eq c op p; rw [h]; rfl
@[simp] theorem begun_check (c : Chip) (op : Byte) (p : Icp) (i a n : Nat) :
    (c.begun op p).check i a n = c.check i a n := by
  obtain ⟨_, _, _, h⟩ := begun_eq c op p; rw [h]; rfl
@[simp] theorem begun_inExtents (c : Chip) (op : Byte) (p : Icp) (i a n : Nat) :
    (c.begun op p).inExtents i a n = c.inExtents i a n := by
  obtain ⟨_, _, _, h⟩ := begun_eq c op p; rw [h]; rfl
@[simp] theorem begun_jobRuns (c : Chip) (op : Byte) (p : Icp) (i : Nat) :
    (c.begun op p).jobRuns i = c.jobRuns i := by
  obtain ⟨_, _, _, h⟩ := begun_eq c op p; rw [h]; rfl
@[simp] theorem begun_cmdHeld (c : Chip) (op : Byte) (p : Icp) (i : Nat) (o : Obj) (a n : Nat) (w : Bool) :
    (c.begun op p).cmdHeld i o a n w = c.cmdHeld i o a n w := by
  obtain ⟨_, _, _, h⟩ := begun_eq c op p; rw [h]; rfl
@[simp] theorem begun_frontRead (c : Chip) (op : Byte) (p : Icp) (i : Nat) (o : Obj) (a n : Nat) :
    (c.begun op p).frontRead i o a n = c.frontRead i o a n := by
  obtain ⟨_, _, _, h⟩ := begun_eq c op p; rw [h]; rfl
@[simp] theorem begun_newObj (c : Chip) (op : Byte) (p : Icp) (a l k st : Nat) (pin : Bool) (ps : List Place) :
    (c.begun op p).newObj a l k st pin ps = c.newObj a l k st pin ps := by
  obtain ⟨_, _, _, h⟩ := begun_eq c op p; rw [h]; rfl
@[simp] theorem begun_blockRetired (c : Chip) (op : Byte) (p : Icp) (b : Nat) :
    (c.begun op p).blockRetired b = c.blockRetired b := by
  unfold Chip.blockRetired Chip.liveTile Chip.livePcs Chip.isRetired; simp only [begun_retired]
@[simp] theorem begun_derated (c : Chip) (op : Byte) (p : Icp) (i t : Nat) :
    (c.begun op p).derated i t = c.derated i t := by
  obtain ⟨_, _, _, h⟩ := begun_eq c op p; rw [h]; rfl
@[simp] theorem begun_otherGuar (c : Chip) (op : Byte) (p : Icp) (i t : Nat) :
    (c.begun op p).otherGuar i t = c.otherGuar i t := by
  obtain ⟨_, _, _, h⟩ := begun_eq c op p; rw [h]; rfl
@[simp] theorem begun_tableOf (c : Chip) (op : Byte) (p : Icp) (i n : Nat) :
    (c.begun op p).tableOf i n = c.tableOf i n := by
  obtain ⟨_, _, _, h⟩ := begun_eq c op p; rw [h]; rfl
@[simp] theorem begun_shareOf (c : Chip) (op : Byte) (p : Icp) (i n : Nat) :
    (c.begun op p).shareOf i n = c.shareOf i n := by
  obtain ⟨_, _, _, h⟩ := begun_eq c op p; rw [h]; rfl
@[simp] theorem begun_selfOf (c : Chip) (op : Byte) (p : Icp) (g : Nat) : (c.begun op p).selfOf g = c.selfOf g := by
  obtain ⟨_, _, _, h⟩ := begun_eq c op p; rw [h]; rfl
@[simp] theorem begun_selfIn (c : Chip) (op : Byte) (p : Icp) (l : List Half) :
    (c.begun op p).selfIn l = c.selfIn l := by
  obtain ⟨_, _, _, h⟩ := begun_eq c op p; rw [h]; rfl
@[simp] theorem begun_collOpen (c : Chip) (op : Byte) (p : Icp) (i : Nat) :
    (c.begun op p).collOpen i = c.collOpen i := by
  obtain ⟨_, _, _, h⟩ := begun_eq c op p; rw [h]; rfl
@[simp] theorem begun_closeReady (c : Chip) (op : Byte) (p : Icp) (i : Nat) :
    (c.begun op p).closeReady i = c.closeReady i := by
  obtain ⟨_, _, _, h⟩ := begun_eq c op p; rw [h]; rfl
@[simp] theorem begun_ownsTile (c : Chip) (op : Byte) (p : Icp) (i t : Nat) :
    (c.begun op p).ownsTile i t = c.ownsTile i t := by
  obtain ⟨_, _, _, h⟩ := begun_eq c op p; rw [h]; rfl
@[simp] theorem begun_liveCores (c : Chip) (op : Byte) (p : Icp)  : (c.begun op p).liveCores   = c.liveCores   := by
  obtain ⟨_, _, _, h⟩ := begun_eq c op p; rw [h]; rfl
@[simp] theorem begun_bobj (c : Chip) (op : Byte) (p : Icp) (i a : Nat) : (c.begun op p).bobj i a = c.bobj i a := by
  obtain ⟨_, _, _, h⟩ := begun_eq c op p; rw [h]; rfl
@[simp] theorem begun_ownedShards (c : Chip) (op : Byte) (p : Icp) (b : BObj) :
    (c.begun op p).ownedShards b = c.ownedShards b := by
  obtain ⟨_, _, _, h⟩ := begun_eq c op p; rw [h]; rfl
@[simp] theorem begun_bruinField (c : Chip) (op : Byte) (p : Icp) (i b n o : Nat) :
    (c.begun op p).bruinField i b n o = c.bruinField i b n o := by
  obtain ⟨_, _, _, h⟩ := begun_eq c op p; rw [h]; rfl
@[simp] theorem begun_groupSize (c : Chip) (op : Byte) (p : Icp) (g : Nat) :
    (c.begun op p).groupSize g = c.groupSize g := by
  obtain ⟨_, _, _, h⟩ := begun_eq c op p; rw [h]; rfl
@[simp] theorem begun_bstate (c : Chip) (op : Byte) (p : Icp) (i a : Nat) :
    (c.begun op p).bstate i a = c.bstate i a := by
  obtain ⟨_, _, _, h⟩ := begun_eq c op p; rw [h]; rfl
@[simp] theorem begun_groupInUse (c : Chip) (op : Byte) (p : Icp) (i g : Nat) :
    (c.begun op p).groupInUse i g = c.groupInUse i g := by
  obtain ⟨_, _, _, h⟩ := begun_eq c op p; rw [h]; rfl
@[simp] theorem begun_isRetired (c : Chip) (op : Byte) (p : Icp) (k n : Nat) :
    (c.begun op p).isRetired k n = c.isRetired k n := by
  obtain ⟨_, _, _, h⟩ := begun_eq c op p; rw [h]; rfl
@[simp] theorem begun_unit (c : Chip) (op : Byte) (p : Icp) (u : UnitId) : (c.begun op p).unit u = c.unit u := by
  obtain ⟨_, _, _, h⟩ := begun_eq c op p; rw [h]; rfl
@[simp] theorem begun_listUsed (c : Chip) (op : Byte) (p : Icp)  : (c.begun op p).listUsed   = c.listUsed   := by
  obtain ⟨_, _, _, h⟩ := begun_eq c op p; rw [h]; rfl
@[simp] theorem begun_liveInsts (c : Chip) (op : Byte) (p : Icp)  : (c.begun op p).liveInsts   = c.liveInsts   := by
  obtain ⟨_, _, _, h⟩ := begun_eq c op p; rw [h]; rfl
@[simp] theorem begun_launchFault (c : Chip) (op : Byte) (p : Icp) (q : Icp) :
    (c.begun op p).launchFault q = c.launchFault q := by
  obtain ⟨_, _, _, h⟩ := begun_eq c op p; rw [h]; rfl

end Sys2Proof.Machine
end

