-- ==== Sys2Proof/Laws/Memory.lean ====
section
/-! SUPPORT. Byte memories: the canonical form and its keeping, a read after a write. -/

namespace Sys2Proof.Machine

/-- The canonical form is that addresses rise from each cell to every later one. -/
theorem Mem.wf_iff (m : Mem) : Mem.wf m = true ↔ m.Pairwise (fun a b => a.1 < b.1) := by
  induction m with
  | nil => simp [Mem.wf]
  | cons a r ih =>
    cases r with
    | nil => simp [Mem.wf]
    | cons b r =>
      rw [Mem.wf, Bool.and_eq_true, decide_eq_true_iff, ih, List.pairwise_cons (a := a)]
      refine ⟨fun h => ⟨fun c hc => ?_, h.2⟩, fun h => ⟨h.1 b (by simp), h.2⟩⟩
      rcases List.mem_cons.1 hc with rfl | hc
      · exact h.1
      · exact Nat.lt_trans h.1 ((List.pairwise_cons.1 h.2).1 c hc)

theorem mrun_mem {bs : List Byte} {a : Nat} {c : Host.Cell} (h : c ∈ mrun a bs) : a ≤ c.1 ∧ c.1 < a + bs.length := by
  induction bs generalizing a with
  | nil => simp [mrun] at h
  | cons b bs ih =>
    rcases List.mem_cons.1 h with rfl | h
    · simp
    · have := ih h; simp; omega

theorem mrun_wf (bs : List Byte) (a : Nat) : (mrun a bs).Pairwise (fun a b => a.1 < b.1) := by
  induction bs generalizing a with
  | nil => simp [mrun]
  | cons b bs ih =>
    refine List.pairwise_cons.2 ⟨fun c hc => ?_, ih _⟩
    have := mrun_mem hc; simp only; omega

/-- Writing bytes keeps the canonical form. -/
theorem mwrite_wf {m : Mem} (a : Nat) (bs : List Byte) (h : m.wf = true) : (mwrite m a bs).wf = true := by
  rw [Mem.wf_iff] at h ⊢
  unfold mwrite
  refine List.pairwise_append.2 ⟨List.pairwise_append.2 ⟨h.filter _, mrun_wf bs a, fun x hx y hy => ?_⟩, h.filter _, fun x hx y hy => ?_⟩
  · have h1 := (List.mem_filter.1 hx).2; have h2 := mrun_mem hy; simp at h1; omega
  · have h2 := (List.mem_filter.1 hy).2; simp at h2
    rcases List.mem_append.1 hx with hx | hx
    · have h1 := (List.mem_filter.1 hx).2; simp at h1; omega
    · have h1 := mrun_mem hx; omega

/-- Forgetting bytes keeps the canonical form. -/
theorem mclear_wf {m : Mem} (a n : Nat) (h : m.wf = true) : (mclear m a n).wf = true := by
  rw [Mem.wf_iff] at h ⊢; exact h.filter _

theorem mfind_append (m k : Mem) (a : Nat) : mfind (m ++ k) a = (mfind m a).orElse (fun _ => mfind k a) := by
  induction m with
  | nil => simp [mfind]
  | cons c r ih => obtain ⟨x, v⟩ := c; by_cases h : x = a <;> simp [mfind, h, ih]

theorem mfind_filter (m : Mem) (p : Nat → Bool) (a : Nat) :
    mfind (m.filter (fun c => p c.1)) a = if p a then mfind m a else none := by
  induction m with
  | nil => simp [mfind]
  | cons c r ih =>
    obtain ⟨x, v⟩ := c
    by_cases hp : p x = true <;> by_cases hx : x = a <;> simp_all [mfind]

theorem mfind_mrun (bs : List Byte) (a k : Nat) :
    mfind (mrun a bs) k = if a ≤ k then bs[k - a]? else none := by
  induction bs generalizing a with
  | nil => simp [mrun, mfind]
  | cons b bs ih =>
    by_cases h : a = k
    · subst h; simp [mrun, mfind]
    · by_cases h2 : a ≤ k
      · have h3 : a + 1 ≤ k := by omega
        obtain ⟨j, hj⟩ : ∃ j, k - a = j + 1 := ⟨k - a - 1, by omega⟩
        have hj' : k - (a + 1) = j := by omega
        simp [mrun, mfind, h, ih, h2, h3, hj, hj']
      · have h3 : ¬ a + 1 ≤ k := by omega
        simp [mrun, mfind, h, ih, h2, h3]

/-- A byte after a write: the new one where the run covers the address, else the one before. -/
theorem mfind_mwrite (m : Mem) (a : Nat) (bs : List Byte) (k : Nat) :
    mfind (mwrite m a bs) k = if a ≤ k ∧ k < a + bs.length then bs[k - a]? else mfind m k := by
  unfold mwrite
  rw [mfind_append, mfind_append, mfind_filter m (fun x => decide (x < a)), mfind_mrun,
    mfind_filter m (fun x => decide (a + bs.length ≤ x))]
  by_cases h1 : k < a
  · have h2 : ¬ a ≤ k := by omega
    have h3 : ¬ a + bs.length ≤ k := by omega
    simp [h1, h2, h3]
  · by_cases h2 : k < a + bs.length
    · have h3 : a ≤ k := by omega
      have h4 : k - a < bs.length := by omega
      have h5 : ¬ a + bs.length ≤ k := by omega
      simp [h1, h2, h3, h5, List.getElem?_eq_getElem h4]
    · have h3 : a ≤ k := by omega
      have h4 : bs.length ≤ k - a := by omega
      have h5 : a + bs.length ≤ k := by omega
      simp [h1, h2, h3, h5, List.getElem?_eq_none h4]

/-- A read is byte by byte. -/
theorem mread_eq (m : Mem) (free : Nat → Byte) (a n : Nat) :
    mread m free a n = (List.range n).map (fun k => (mfind m (a + k)).getD (free (a + k))) := by
  unfold mread
  refine List.map_congr_left (fun k hk => ?_)
  have hk := List.mem_range.1 hk
  have h := mfind_filter m (fun x => decide (a ≤ x) && decide (x < a + n)) (a + k)
  simp only [h]
  simp [hk]

/-- Bytes written read back. -/
theorem mread_mwrite_same (m : Mem) (free : Nat → Byte) (a : Nat) (bs : List Byte) :
    mread (mwrite m a bs) free a bs.length = bs := by
  rw [mread_eq]
  apply List.ext_getElem (by simp)
  intro k h1 h2
  simp [mfind_mwrite, h2]

/-- A read that misses the run written is as before. -/
theorem mread_mwrite_other (m : Mem) (free : Nat → Byte) (a : Nat) (bs : List Byte) (b n : Nat)
    (h : b + n ≤ a ∨ a + bs.length ≤ b) : mread (mwrite m a bs) free b n = mread m free b n := by
  rw [mread_eq, mread_eq]
  refine List.map_congr_left (fun k hk => ?_)
  have hk := List.mem_range.1 hk
  have : ¬ (a ≤ b + k ∧ b + k < a + bs.length) := by omega
  simp [mfind_mwrite, this]

theorem mread_length (m : Mem) (free : Nat → Byte) (a n : Nat) : (mread m free a n).length = n := by simp [mread]

end Sys2Proof.Machine
end

