-- ==== Sys2Proof/Laws/PerInstr.lean ====
section
/-! SUPPORT. What a well-formed command that travels as an ICP packet names: a queue that exists in numbering (R45).
One lemma per constructor. -/

namespace Sys2Proof.Laws.Row

open Sys2Proof

/-- The ICP packet that a command is, if it is one. -/
def packetOf (i : Instr) : Option Icp :=
  match i with
  | .moduleResetWarm p => some p
  | .moduleResetCold p => some p
  | .nop p => some p
  | .openSession p => some p
  | .closeSession p => some p
  | .identify p => some p
  | .readReg p => some p
  | .writeReg p => some p
  | .keyAgree p => some p
  | .attest p => some p
  | .queueCreate p => some p
  | .queueDelete p => some p
  | .queueFlush p => some p
  | .noticeAck p => some p
  | .instanceCreate p => some p
  | .instanceModify p => some p
  | .instanceReset p => some p
  | .instanceDestroy p => some p
  | .quotaSet p => some p
  | .guaranteeSet p => some p
  | .alloc p => some p
  | .free p => some p
  | .write p => some p
  | .read p => some p
  | .migrate p => some p
  | .pin p => some p
  | .unpin p => some p
  | .fence p => some p
  | .tableCreate p => some p
  | .tableModify p => some p
  | .tableDestroy p => some p
  | .tableLoad p => some p
  | .hotSet p => some p
  | .jobStart p => some p
  | .jobEnd p => some p
  | .launch p => some p
  | .stepClose p => some p
  | .publish p => some p
  | .releaseSnapshot p => some p
  | .hostSignalTile p => some p
  | .hostSignalHub p => some p
  | .hostSignalWait p => some p
  | .hostSignalRead p => some p
  | .bruinSetJob p => some p
  | .bruinSetRegister p => some p
  | .bruinSetChange p => some p
  | .bruinSetRemove p => some p
  | .bruinSetStatus p => some p
  | .groupSet p => some p
  | .groupClear p => some p
  | .unitDisable p => some p
  | .unitEnable p => some p
  | .unitRetire p => some p
  | .countersRead p => some p
  | .debugOpen p => some p
  | .debugClose p => some p
  | .configRead p => some p
  | .configWrite p => some p
  | .configCommit p => some p
  | _ => none

/-- A well-formed command names a queue of R45 where it travels as a packet. -/
def Statement (i : Instr) : Prop := i.wf = true → ∀ p, packetOf i = some p → p.queue ≤ 256

/-- A command that is no packet. -/
theorem of_none {i : Instr} (h : packetOf i = none) : Statement i := by
  intro _ p hp; rw [h] at hp; exact nomatch hp

/-- A packet whose well-formedness begins with its queue. -/
theorem of_icpOk {i : Instr} {p : Icp} (h : packetOf i = some p) (w : i.wf = true → icpOk p = true) : Statement i := by
  intro hi q hq; rw [h] at hq; cases hq; exact of_decide_eq_true (w hi)

theorem powerInputInRange : Statement .powerInputInRange := of_none rfl
theorem pwrOkRise : Statement .pwrOkRise := of_none rfl
theorem pwrOkFall : Statement .pwrOkFall := of_none rfl
theorem coldHoldRelease : Statement .coldHoldRelease := of_none rfl
theorem coldBoot (devices : List CxlDevice) : Statement (.coldBoot devices) := of_none rfl
theorem iboonReadyTimeout : Statement .iboonReadyTimeout := of_none rfl
theorem thermalStop (sensor : Nat) (reading : Half) : Statement (.thermalStop sensor reading) := of_none rfl
theorem thermalRecover : Statement .thermalRecover := of_none rfl
theorem perst : Statement .perst := of_none rfl
theorem pcieLinkReturn : Statement .pcieLinkReturn := of_none rfl
theorem moduleResetWarm (c : Icp) : Statement (.moduleResetWarm c) := of_icpOk rfl (fun h => (Bool.and_eq_true_iff.1 h).1)
theorem moduleResetCold (c : Icp) : Statement (.moduleResetCold c) := of_icpOk rfl (fun h => (Bool.and_eq_true_iff.1 h).1)
theorem slotWrite (r : Route) (q pos : Nat) (slot : BitVec 512) : Statement (.slotWrite r q pos slot) := of_none rfl
theorem doorbell (r : Route) (q : Nat) (v : Double) : Statement (.doorbell r q v) := of_none rfl
theorem doorbellFlush (r : Route) (q : Nat) (v : Double) : Statement (.doorbellFlush r q v) := of_none rfl
theorem completionHeadWrite (r : Route) (q : Nat) (v : Double) : Statement (.completionHeadWrite r q v) := of_none rfl
theorem registerLowerHalfRead (p : Path) (addr size : Nat) : Statement (.registerLowerHalfRead p addr size) := of_none rfl
theorem registerUpperHalfRead (p : Path) (addr size : Nat) : Statement (.registerUpperHalfRead p addr size) := of_none rfl
theorem registerLowerHalfWrite (p : Path) (addr size : Nat) (v : Word) : Statement (.registerLowerHalfWrite p addr size v) := of_none rfl
theorem registerUpperHalfWrite (p : Path) (addr size : Nat) (v : Word) : Statement (.registerUpperHalfWrite p addr size v) := of_none rfl
theorem registerWrite (p : Path) (addr size : Nat) (v : Double) : Statement (.registerWrite p addr size v) := of_none rfl
theorem feedStreamEnable (stream : Nat) (v : Double) : Statement (.feedStreamEnable stream v) := of_none rfl
theorem feedStreamDisable (stream : Nat) (v : Double) : Statement (.feedStreamDisable stream v) := of_none rfl
theorem feedTailWrite (stream : Nat) (tail : Word) : Statement (.feedTailWrite stream tail) := of_none rfl
theorem feedDatagram (port : Nat) (f : Frame) (srcPort udpPort checksum : Half) (payload : List Byte) : Statement (.feedDatagram port f srcPort udpPort checksum payload) := of_none rfl
theorem feedInterruptTimer (stream : Nat) : Statement (.feedInterruptTimer stream) := of_none rfl
theorem udpSegment (port : Nat) (f : Frame) (srcPort checksum : Half) (hdr : BitVec 128) (seg : List Byte) : Statement (.udpSegment port f srcPort checksum hdr seg) := of_none rfl
theorem udpPartialTimeout (q : Nat) (msg : Word) : Statement (.udpPartialTimeout q msg) := of_none rfl
theorem udpNoticeResend (q : Nat) : Statement (.udpNoticeResend q) := of_none rfl
theorem owlItemStart (q : Nat) : Statement (.owlItemStart q) := of_none rfl
theorem noticeDeliver (nq : Nat) : Statement (.noticeDeliver nq) := of_none rfl
theorem nop (c : Icp) : Statement (.nop c) := of_icpOk rfl id
theorem openSession (c : Icp) : Statement (.openSession c) := of_icpOk rfl id
theorem closeSession (c : Icp) : Statement (.closeSession c) := of_icpOk rfl id
theorem identify (c : Icp) : Statement (.identify c) := of_icpOk rfl id
theorem readReg (c : Icp) : Statement (.readReg c) := of_icpOk rfl id
theorem writeReg (c : Icp) : Statement (.writeReg c) := of_icpOk rfl id
theorem keyAgree (c : Icp) : Statement (.keyAgree c) := of_icpOk rfl id
theorem attest (c : Icp) : Statement (.attest c) := of_icpOk rfl id
theorem queueCreate (c : Icp) : Statement (.queueCreate c) := of_icpOk rfl id
theorem queueDelete (c : Icp) : Statement (.queueDelete c) := of_icpOk rfl id
theorem queueFlush (c : Icp) : Statement (.queueFlush c) := of_icpOk rfl id
theorem noticeAck (c : Icp) : Statement (.noticeAck c) := of_icpOk rfl id
theorem instanceCreate (c : Icp) : Statement (.instanceCreate c) := of_icpOk rfl (fun h => (Bool.and_eq_true_iff.1 h).1)
theorem instanceModify (c : Icp) : Statement (.instanceModify c) := of_icpOk rfl (fun h => (Bool.and_eq_true_iff.1 h).1)
theorem instanceReset (c : Icp) : Statement (.instanceReset c) := of_icpOk rfl id
theorem instanceResetDrainEnd (i : Nat) : Statement (.instanceResetDrainEnd i) := of_none rfl
theorem instanceDestroy (c : Icp) : Statement (.instanceDestroy c) := of_icpOk rfl id
theorem quotaSet (c : Icp) : Statement (.quotaSet c) := of_icpOk rfl id
theorem guaranteeSet (c : Icp) : Statement (.guaranteeSet c) := of_icpOk rfl id
theorem alloc (c : Icp) : Statement (.alloc c) := of_icpOk rfl id
theorem free (c : Icp) : Statement (.free c) := of_icpOk rfl id
theorem write (c : Icp) : Statement (.write c) := of_icpOk rfl id
theorem read (c : Icp) : Statement (.read c) := of_icpOk rfl id
theorem migrate (c : Icp) : Statement (.migrate c) := of_icpOk rfl id
theorem pin (c : Icp) : Statement (.pin c) := of_icpOk rfl (fun h => (Bool.and_eq_true_iff.1 h).1)
theorem unpin (c : Icp) : Statement (.unpin c) := of_icpOk rfl (fun h => (Bool.and_eq_true_iff.1 h).1)
theorem fence (c : Icp) : Statement (.fence c) := of_icpOk rfl id
theorem tableCreate (c : Icp) : Statement (.tableCreate c) := of_icpOk rfl id
theorem tableModify (c : Icp) : Statement (.tableModify c) := of_icpOk rfl id
theorem tableDestroy (c : Icp) : Statement (.tableDestroy c) := of_icpOk rfl id
theorem tableLoad (c : Icp) : Statement (.tableLoad c) := of_icpOk rfl id
theorem hotSet (c : Icp) : Statement (.hotSet c) := of_icpOk rfl id
theorem jobStart (c : Icp) : Statement (.jobStart c) := of_icpOk rfl id
theorem jobEnd (c : Icp) : Statement (.jobEnd c) := of_icpOk rfl id
theorem launch (c : Icp) : Statement (.launch c) := of_icpOk rfl id
theorem launchStart (i : Nat) (tag : Word) (q : Nat) : Statement (.launchStart i tag q) := of_none rfl
theorem stepClose (c : Icp) : Statement (.stepClose c) := of_icpOk rfl id
theorem stepCloseEffect (i : Nat) : Statement (.stepCloseEffect i) := of_none rfl
theorem publish (c : Icp) : Statement (.publish c) := of_icpOk rfl id
theorem releaseSnapshot (c : Icp) : Statement (.releaseSnapshot c) := of_icpOk rfl id
theorem hostSignalTile (c : Icp) : Statement (.hostSignalTile c) := of_icpOk rfl (fun h => (Bool.and_eq_true_iff.1 h).1)
theorem hostSignalHub (c : Icp) : Statement (.hostSignalHub c) := of_icpOk rfl (fun h => (Bool.and_eq_true_iff.1 h).1)
theorem hostSignalWait (c : Icp) : Statement (.hostSignalWait c) := of_icpOk rfl (fun h => (Bool.and_eq_true_iff.1 h).1)
theorem hostSignalRead (c : Icp) : Statement (.hostSignalRead c) := of_icpOk rfl (fun h => (Bool.and_eq_true_iff.1 h).1)
theorem bruinSetJob (c : Icp) : Statement (.bruinSetJob c) := of_icpOk rfl (fun h => (Bool.and_eq_true_iff.1 h).1)
theorem bruinSetRegister (c : Icp) : Statement (.bruinSetRegister c) := of_icpOk rfl (fun h => (Bool.and_eq_true_iff.1 h).1)
theorem bruinSetChange (c : Icp) : Statement (.bruinSetChange c) := of_icpOk rfl (fun h => (Bool.and_eq_true_iff.1 h).1)
theorem bruinSetRemove (c : Icp) : Statement (.bruinSetRemove c) := of_icpOk rfl (fun h => (Bool.and_eq_true_iff.1 h).1)
theorem bruinSetStatus (c : Icp) : Statement (.bruinSetStatus c) := of_icpOk rfl (fun h => (Bool.and_eq_true_iff.1 h).1)
theorem groupSet (c : Icp) : Statement (.groupSet c) := of_icpOk rfl id
theorem groupClear (c : Icp) : Statement (.groupClear c) := of_icpOk rfl id
theorem unitDisable (c : Icp) : Statement (.unitDisable c) := of_icpOk rfl id
theorem unitEnable (c : Icp) : Statement (.unitEnable c) := of_icpOk rfl id
theorem unitRetire (c : Icp) : Statement (.unitRetire c) := of_icpOk rfl id
theorem unitShutdownComplete (u : UnitId) : Statement (.unitShutdownComplete u) := of_none rfl
theorem unitEnablingComplete (u : UnitId) (dev : CxlDevice) : Statement (.unitEnablingComplete u dev) := of_none rfl
theorem countersRead (c : Icp) : Statement (.countersRead c) := of_icpOk rfl id
theorem debugOpen (c : Icp) : Statement (.debugOpen c) := of_icpOk rfl id
theorem debugClose (c : Icp) : Statement (.debugClose c) := of_icpOk rfl id
theorem configRead (c : Icp) : Statement (.configRead c) := of_icpOk rfl id
theorem configWrite (c : Icp) : Statement (.configWrite c) := of_icpOk rfl id
theorem configCommit (c : Icp) : Statement (.configCommit c) := of_icpOk rfl id
theorem copy (t : Nat) (d : Desc) : Statement (.copy t d) := of_none rfl
theorem copy2d (t : Nat) (d : Desc) : Statement (.copy2d t d) := of_none rfl
theorem fill (t : Nat) (d : Desc) : Statement (.fill t d) := of_none rfl
theorem gather (t : Nat) (d : Desc) : Statement (.gather t d) := of_none rfl
theorem scatter (t : Nat) (d : Desc) : Statement (.scatter t d) := of_none rfl
theorem stashPut (t : Nat) (d : Desc) : Statement (.stashPut t d) := of_none rfl
theorem stashGet (t : Nat) (d : Desc) : Statement (.stashGet t d) := of_none rfl
theorem matmul (t : Nat) (d : Desc) : Statement (.matmul t d) := of_none rfl
theorem matmulBt (t : Nat) (d : Desc) : Statement (.matmulBt t d) := of_none rfl
theorem matmulSplit (t : Nat) (d : Desc) : Statement (.matmulSplit t d) := of_none rfl
theorem vadd (t : Nat) (d : Desc) : Statement (.vadd t d) := of_none rfl
theorem vsub (t : Nat) (d : Desc) : Statement (.vsub t d) := of_none rfl
theorem vmul (t : Nat) (d : Desc) : Statement (.vmul t d) := of_none rfl
theorem vfma (t : Nat) (d : Desc) : Statement (.vfma t d) := of_none rfl
theorem vmax (t : Nat) (d : Desc) : Statement (.vmax t d) := of_none rfl
theorem vmin (t : Nat) (d : Desc) : Statement (.vmin t d) := of_none rfl
theorem vneg (t : Nat) (d : Desc) : Statement (.vneg t d) := of_none rfl
theorem vabs (t : Nat) (d : Desc) : Statement (.vabs t d) := of_none rfl
theorem vrelu (t : Nat) (d : Desc) : Statement (.vrelu t d) := of_none rfl
theorem vclamp (t : Nat) (d : Desc) : Statement (.vclamp t d) := of_none rfl
theorem vselect (t : Nat) (d : Desc) : Statement (.vselect t d) := of_none rfl
theorem vrecip (t : Nat) (d : Desc) : Statement (.vrecip t d) := of_none rfl
theorem vrsqrt (t : Nat) (d : Desc) : Statement (.vrsqrt t d) := of_none rfl
theorem vexp (t : Nat) (d : Desc) : Statement (.vexp t d) := of_none rfl
theorem vlog (t : Nat) (d : Desc) : Statement (.vlog t d) := of_none rfl
theorem vtanh (t : Nat) (d : Desc) : Statement (.vtanh t d) := of_none rfl
theorem vsigmoid (t : Nat) (d : Desc) : Statement (.vsigmoid t d) := of_none rfl
theorem vgelu (t : Nat) (d : Desc) : Statement (.vgelu t d) := of_none rfl
theorem vsumRow (t : Nat) (d : Desc) : Statement (.vsumRow t d) := of_none rfl
theorem vmaxRow (t : Nat) (d : Desc) : Statement (.vmaxRow t d) := of_none rfl
theorem vamaxRow (t : Nat) (d : Desc) : Statement (.vamaxRow t d) := of_none rfl
theorem vrand (t : Nat) (d : Desc) : Statement (.vrand t d) := of_none rfl
theorem vrandBits (t : Nat) (d : Desc) : Statement (.vrandBits t d) := of_none rfl
theorem cvt (t : Nat) (d : Desc) : Statement (.cvt t d) := of_none rfl
theorem scalePass (t : Nat) (d : Desc) : Statement (.scalePass t d) := of_none rfl
theorem cvtGrad (t : Nat) (d : Desc) : Statement (.cvtGrad t d) := of_none rfl
theorem lookup (t : Nat) (d : Desc) : Statement (.lookup t d) := of_none rfl
theorem rowGrad (t : Nat) (d : Desc) : Statement (.rowGrad t d) := of_none rfl
theorem collAllReduce (t : Nat) (d : Desc) : Statement (.collAllReduce t d) := of_none rfl
theorem collReduceScatter (t : Nat) (d : Desc) : Statement (.collReduceScatter t d) := of_none rfl
theorem collAllGather (t : Nat) (d : Desc) : Statement (.collAllGather t d) := of_none rfl
theorem collBroadcast (t : Nat) (d : Desc) : Statement (.collBroadcast t d) := of_none rfl
theorem collBarrier (t : Nat) (d : Desc) : Statement (.collBarrier t d) := of_none rfl
theorem collAllToAll (t : Nat) (d : Desc) : Statement (.collAllToAll t d) := of_none rfl
theorem collAllToAllV (t : Nat) (d : Desc) : Statement (.collAllToAllV t d) := of_none rfl
theorem collSplitOpen (t : Nat) (d : Desc) : Statement (.collSplitOpen t d) := of_none rfl
theorem nopDescriptor (t : Nat) (d : Desc) : Statement (.nopDescriptor t d) := of_none rfl
theorem repeatSpan (t : Nat) (d : Desc) : Statement (.repeatSpan t d) := of_none rfl
theorem wait (t : Nat) (d : Desc) : Statement (.wait t d) := of_none rfl
theorem signal (t : Nat) (d : Desc) : Statement (.signal t d) := of_none rfl
theorem branchSem (t : Nat) (d : Desc) : Statement (.branchSem t d) := of_none rfl
theorem jump (t : Nat) (d : Desc) : Statement (.jump t d) := of_none rfl
theorem fenceDescriptor (t : Nat) (d : Desc) : Statement (.fenceDescriptor t d) := of_none rfl
theorem stepCloseDescriptor (t : Nat) (d : Desc) : Statement (.stepCloseDescriptor t d) := of_none rfl
theorem hostSignalDescriptor (t : Nat) (d : Desc) : Statement (.hostSignalDescriptor t d) := of_none rfl
theorem endProgram (t : Nat) (d : Desc) : Statement (.endProgram t d) := of_none rfl
theorem descriptorComplete (t u : Nat) : Statement (.descriptorComplete t u) := of_none rfl
theorem programEnd (t : Nat) : Statement (.programEnd t) := of_none rfl
theorem semaphoreSignalReceived (t sender : Nat) : Statement (.semaphoreSignalReceived t sender) := of_none rfl
theorem signalAckReceived (t source : Nat) : Statement (.signalAckReceived t source) := of_none rfl
theorem waitRelease (t : Nat) : Statement (.waitRelease t) := of_none rfl
theorem tileClockGate (t : Nat) : Statement (.tileClockGate t) := of_none rfl
theorem engineClockGate (unit : Nat) : Statement (.engineClockGate unit) := of_none rfl
theorem randomGeneratorAdvance : Statement .randomGeneratorAdvance := of_none rfl
theorem voteComplete (i : Nat) : Statement (.voteComplete i) := of_none rfl
theorem rowApply (i e table : Nat) : Statement (.rowApply i e table) := of_none rfl
theorem logEntriesFree (i e table : Nat) : Statement (.logEntriesFree i e table) := of_none rfl
theorem flipBarrierEnter (i : Nat) : Statement (.flipBarrierEnter i) := of_none rfl
theorem flip (i : Nat) : Statement (.flip i) := of_none rfl
theorem denseSwap (i obj : Nat) : Statement (.denseSwap i obj) := of_none rfl
theorem bruinProgramStart (i : Nat) : Statement (.bruinProgramStart i) := of_none rfl
theorem bruinStageComplete (i : Nat) : Statement (.bruinStageComplete i) := of_none rfl
theorem bruinShardCommit (i : Nat) : Statement (.bruinShardCommit i) := of_none rfl
theorem updateCoreUpset (core : Nat) : Statement (.updateCoreUpset core) := of_none rfl
theorem engineRequestMessage (e : Nat) (arrived : List (Nat × ReqMsg)) : Statement (.engineRequestMessage e arrived) := of_none rfl
theorem lookupResultReceived (r : LookupResult) : Statement (.lookupResultReceived r) := of_none rfl
theorem hotRowValueReceived (i table row : Nat) (slot : List Byte) : Statement (.hotRowValueReceived i table row slot) := of_none rfl
theorem replicaSlotWrite (i table row : Nat) (slot : List Byte) : Statement (.replicaSlotWrite i table row slot) := of_none rfl
theorem leaf (p : PackPkt) : Statement (.leaf p) := of_none rfl
theorem result (p : PackPkt) : Statement (.result p) := of_none rfl
theorem counts (p : PackPkt) : Statement (.counts p) := of_none rfl
theorem token (p : PackPkt) : Statement (.token p) := of_none rfl
theorem credit (p : PackPkt) : Statement (.credit p) := of_none rfl
theorem refuse (p : PackPkt) : Statement (.refuse p) := of_none rfl
theorem abort (p : PackPkt) : Statement (.abort p) := of_none rfl
theorem split (p : PackPkt) : Statement (.split p) := of_none rfl
theorem handoff (p : PackPkt) : Statement (.handoff p) := of_none rfl
theorem collComplete (g : Nat) : Statement (.collComplete g) := of_none rfl
theorem holdTokenTimer (i : Nat) : Statement (.holdTokenTimer i) := of_none rfl
theorem groupTimeout (g m : Nat) : Statement (.groupTimeout g m) := of_none rfl
theorem timeProbeTimer (i : Nat) : Statement (.timeProbeTimer i) := of_none rfl
theorem fabricPacketReceived (k : Nat) (hdr : BitVec 192) (body : List Byte) : Statement (.fabricPacketReceived k hdr body) := of_none rfl
theorem dataFlit (k : Nat) (flit : List Byte) : Statement (.dataFlit k flit) := of_none rfl
theorem idleFlit (k : Nat) (flit : List Byte) : Statement (.idleFlit k flit) := of_none rfl
theorem retry (k : Nat) (flit : List Byte) : Statement (.retry k flit) := of_none rfl
theorem retryRepeatTimer (k : Nat) : Statement (.retryRepeatTimer k) := of_none rfl
theorem flitGroupReceived (k offset valid : Nat) (marker : Bool) : Statement (.flitGroupReceived k offset valid marker) := of_none rfl
theorem alignmentSearchTimeout (k : Nat) : Statement (.alignmentSearchTimeout k) := of_none rfl
theorem tapRequest (k : Nat) (w : BitVec 80) : Statement (.tapRequest k w) := of_none rfl
theorem tapAnswer (k : Nat) (w : BitVec 80) : Statement (.tapAnswer k w) := of_none rfl
theorem tapStepEvaluate (k lane corrected : Nat) (uncorrectable : Bool) : Statement (.tapStepEvaluate k lane corrected uncorrectable) := of_none rfl
theorem laneRetire (k : Nat) (w : BitVec 80) : Statement (.laneRetire k w) := of_none rfl
theorem retireAnswer (k : Nat) (w : BitVec 80) : Statement (.retireAnswer k w) := of_none rfl
theorem latencyProbe (k : Nat) (w : BitVec 80) (holding : Nat) : Statement (.latencyProbe k w holding) := of_none rfl
theorem probeEcho (k : Nat) (w : BitVec 80) (roundTrip : Nat) : Statement (.probeEcho k w roundTrip) := of_none rfl
theorem trainingWordsReceived (k : Nat) (tw : TrainingWords) : Statement (.trainingWordsReceived k tw) := of_none rfl
theorem linkTrainingDone (k : Nat) : Statement (.linkTrainingDone k) := of_none rfl
theorem fastRetrain (k : Nat) : Statement (.fastRetrain k) := of_none rfl
theorem laneLossOfSignal (k lane : Nat) : Statement (.laneLossOfSignal k lane) := of_none rfl
theorem linkShutdownComplete (k : Nat) : Statement (.linkShutdownComplete k) := of_none rfl
theorem faultEvent (u : UnitId) (w : FaultWeight) (granule : Option Nat) : Statement (.faultEvent u w granule) := of_none rfl
theorem bucketLeak (u : UnitId) : Statement (.bucketLeak u) := of_none rfl
theorem poisonedRead (i addr : Nat) : Statement (.poisonedRead i addr) := of_none rfl
theorem extentAgeTick : Statement .extentAgeTick := of_none rfl
theorem quotaEvictionTick (i tier : Nat) : Statement (.quotaEvictionTick i tier) := of_none rfl
theorem migrationPanelCopyDone (i obj ext : Nat) : Statement (.migrationPanelCopyDone i obj ext) := of_none rfl
theorem migrationCommit (i obj ext : Nat) : Statement (.migrationCommit i obj ext) := of_none rfl
theorem migrationRelease (i obj ext : Nat) : Statement (.migrationRelease i obj ext) := of_none rfl
theorem calibrationWindowStart (pc : Nat) : Statement (.calibrationWindowStart pc) := of_none rfl
theorem calibrationWindowEnd (pc : Nat) (moved belowFloor : Bool) : Statement (.calibrationWindowEnd pc moved belowFloor) := of_none rfl
theorem channelRetune (ch : Nat) (moved belowFloor : Bool) : Statement (.channelRetune ch moved belowFloor) := of_none rfl
theorem temperatureHot (channel : Bool) (idx : Nat) : Statement (.temperatureHot channel idx) := of_none rfl
theorem temperatureCool (channel : Bool) (idx : Nat) : Statement (.temperatureCool channel idx) := of_none rfl
theorem i2cPollTimer (bus : Nat) (faults : List BusFault) (readings : List Half) : Statement (.i2cPollTimer bus faults readings) := of_none rfl
theorem i2cBusRecovery (bus : Nat) (sdaHighAfter : Nat) : Statement (.i2cBusRecovery bus sdaHighAfter) := of_none rfl
theorem identity (pec : Bool) : Statement (.identity pec) := of_none rfl
theorem serial (pec : Bool) : Statement (.serial pec) := of_none rfl
theorem status (pec : Bool) : Statement (.status pec) := of_none rfl
theorem temps (pec : Bool) (dies : List Half) : Statement (.temps pec dies) := of_none rfl
theorem power (pec : Bool) : Statement (.power pec) := of_none rfl
theorem rails (pec : Bool) : Statement (.rails pec) := of_none rfl
theorem alertResponseAddressRead : Statement .alertResponseAddressRead := of_none rfl
theorem bypass : Statement .bypass := of_none rfl
theorem idcode : Statement .idcode := of_none rfl
theorem samplePreload : Statement .samplePreload := of_none rfl
theorem extest : Statement .extest := of_none rfl
theorem clamp : Statement .clamp := of_none rfl
theorem jtagDebugInstruction (code : Nat) : Statement (.jtagDebugInstruction code) := of_none rfl
theorem msixPendingSend (entry : Nat) : Statement (.msixPendingSend entry) := of_none rfl
theorem flushingReadComplete (q : Nat) (tag : Word) : Statement (.flushingReadComplete q tag) := of_none rfl
theorem linkDown (k : Nat) : Statement (.linkDown k) := of_none rfl
theorem linkSignalDetect (k : Nat) : Statement (.linkSignalDetect k) := of_none rfl
theorem pcieLinkDown : Statement .pcieLinkDown := of_none rfl
theorem coldHoldAssert : Statement .coldHoldAssert := of_none rfl
theorem inputLeavesRange : Statement .inputLeavesRange := of_none rfl
theorem dataMoveComplete (q : Nat) (tag : Word) (data : List Byte) : Statement (.dataMoveComplete q tag data) := of_none rfl
theorem pcieRequestFailure (q : Nat) (tag : Word) : Statement (.pcieRequestFailure q tag) := of_none rfl
theorem arpRequest (port : Nat) (vlan : Option Nat) (target sender : Word) (senderMac : BitVec 48) : Statement (.arpRequest port vlan target sender senderMac) := of_none rfl
theorem neighborSolicitation (port : Nat) (vlan : Option Nat) (target sender : BitVec 128) (senderMac : BitVec 48) : Statement (.neighborSolicitation port vlan target sender senderMac) := of_none rfl
theorem echoRequest (port : Nat) (f : Frame) (body : List Byte) : Statement (.echoRequest port f body) := of_none rfl
theorem unmatchedFrame (port : Nat) (malformed : Bool) : Statement (.unmatchedFrame port malformed) := of_none rfl

end Sys2Proof.Laws.Row
end

