-- ==== Sys2Proof/Laws/Seq.lean ====
section
/-! SUPPORT. A descriptor taken by a tile's sequencer: when it issues, and what running it at once on an empty unit comes
to. -/

namespace Sys2Proof.Machine

theorem refBump_zero (r : RefBits) : refBump r 0 = r := by
  unfold refBump; split
  · rfl
  · have h : ∀ w : Nat, r - r % 2 ^ w + ((((r % 2 ^ w : Nat) : Int) + 0) % ((2 ^ w : Nat) : Int)).toNat = r := by
      intro w
      have : ((((r % 2 ^ w : Nat) : Int) + 0) % ((2 ^ w : Nat) : Int)).toNat = r % 2 ^ w := by
        rw [Int.add_zero, ← Int.natCast_emod, Int.toNat_natCast, Nat.mod_mod]
      rw [this]; exact Nat.sub_add_cancel (Nat.mod_le _ _)
    exact h _

/-- With no REPEAT open a descriptor runs as it was fetched. -/
theorem bumped_nil (d : Desc) : bumped d (loopIncs []) = d := by
  unfold bumped; split
  · rfl
  · have e : loopIncs [] = (0, 0, 0) := rfl
    rw [e]; simp only [refBump_zero]
    apply BitVec.eq_of_toNat_eq
    rw [BitVec.toNat_ofNat]
    have hd := d.isLt
    simp only [dRef, dbits, bits]
    simp only [Nat.reduceAdd, Nat.reduceMul, Nat.reduceSub]
    omega

/-- A descriptor of a unit that shows no fault as it is fetched shows none of its own. -/
theorem unitFault_of_fetch {c : Chip} {i slot : Nat} {d : Desc} (h : c.fetchFault i slot [] d = none)
    (k : opClass (dOp d) ≠ some .control) : c.unitFault i d = none := by
  unfold Chip.fetchFault at h
  simp only [k, if_false, bumped_nil, List.isEmpty_nil, if_true] at h
  revert h
  generalize firstFault _ = x
  cases x with
  | some _ => intro h; simp at h
  | none => intro h; simp at h; exact h

/-- A fence that has passed touches the kept old writes of its tile, nothing else. -/
theorem passFence_eq (c : Chip) (t : Nat) (d : Desc) :
    c.passFence t d = c ∨
      c.passFence t d = c.setTile t { c.tile t with before := (c.tile t).before.filter (fun b => !b.closed) } := by
  unfold Chip.passFence; split
  · exact .inr rfl
  · exact .inl rfl

theorem passFence_plain {c : Chip} {t : Nat} {d : Desc} (h : fences d = false) : c.passFence t d = c := by
  simp [Chip.passFence, h]

/-- A descriptor that the tile takes starts, past its fence. -/
theorem issue_of_fetches {s : State} {i t : Nat} {d : Desc} (h : s.Fetches i t d) :
    s.chip.issue t d = (s.chip.passFence t d).start i t d := by
  obtain ⟨-, h1, h2, h3, h4, h5, -, hs, h7, h8, h9⟩ := h
  simp only [Chip.issue, h1, h2, h3, h4, h5, h7, h8, h9, hs, ne_eq, not_true_eq_false, decide_false, Option.isSome_none,
    Bool.or_self, Bool.false_eq_true, if_false, Bool.not_false, Bool.not_true, if_true, reduceCtorEq, Bool.false_and]

/-- A descriptor of an empty unit, with no REPEAT open, stands at its head and runs at once. -/
theorem start_unit {c : Chip} {i t u : Nat} {d : Desc} (hu : unitOf d = some u) (hl : (c.tile t).loops = [])
    (hq : (c.tile t).unitQ u = []) (hp : (c.tile t).pc + 64 < storeBytes) :
    c.start i t d = Chip.runHead i t u 1 (c.setTile t { c.tile t with
      units := tput (c.tile t).units u [{ slot := (c.tile t).pc, desc := d, ran := false, awaits := false, lexp := (c.job i).lexp }]
      pc := (c.tile t).pc + 64 }) := by
  simp only [Chip.start, hu, hl, bumped_nil, hq, List.nil_append, List.isEmpty_nil, if_true, Chip.advance, Chip.goTo,
    Chip.setTile_tile_self, loopNext, Nat.not_le.2 hp, if_false, Chip.onTile, Chip.setTile_setTile]

/-- On an empty unit it runs at once. -/
theorem start_of_issues {s : State} {i t u : Nat} {d : Desc} (h : s.Issues i t u d) :
    (s.chip.passFence t d).start i t d = Chip.runHead i t u 1 (s.chip.past i t u d) := by
  obtain ⟨⟨-, h1, h2, h3, h4, h5, h6, hs, h7, h8, h9⟩, hu, hq⟩ := h
  unfold Chip.past
  rcases passFence_eq s.chip t d with e | e <;> rw [e]
  · exact start_unit hu h5 hq h6
  · exact start_unit hu (by simpa using h5) (by simpa [Tile.unitQ] using hq) (by simpa using h6)

/-- The pc of a tile once its fence has passed. -/
theorem passFence_pc (c : Chip) (t : Nat) (d : Desc) : ((c.passFence t d).tile t).pc = (c.tile t).pc := by
  rcases passFence_eq c t d with e | e <;> rw [e]
  simp

theorem passFence_job (c : Chip) (t : Nat) (d : Desc) (i : Nat) : (c.passFence t d).job i = c.job i := by
  rcases passFence_eq c t d with e | e <;> rw [e]
  rfl

/-- What the unit makes of a descriptor that stands at its head, not yet run. -/
theorem runHead_past {s : State} {i t u : Nat} {d : Desc} (r : Ran)
    (e : (s.chip.past i t u d).view.runDesc i t (s.chip.job i).lexp d = r) :
    Chip.runHead i t u 1 (s.chip.past i t u d) = match r with
      | .held => s.chip.past i t u d
      | .fault cause => ((s.chip.past i t u d).fault t (s.chip.tile t).pc cause).popUnit t u
      | .gone c => ((s.chip.past i t u d).landed (s.chip.past i t u d).view c t u).settleWrites t u
      | .done c => ((s.chip.past i t u d).landed (s.chip.past i t u d).view c t u).marked t u false
      | .awaits c => ((s.chip.past i t u d).landed (s.chip.past i t u d).view c t u).marked t u true := by
  have hq : ((s.chip.past i t u d).tile t).unitQ u =
      [{ slot := (s.chip.tile t).pc, desc := d, ran := false, awaits := false, lexp := (s.chip.job i).lexp }] := by
    simp [Chip.past, Tile.unitQ, passFence_pc, passFence_job]
  simp only [Chip.runHead, hq, e, Bool.false_eq_true, if_false]
  cases r <;> rfl

/-- What a descriptor's row answers once its unit has carried it out. -/
theorem issue_done {s : State} {i t u : Nat} {d : Desc} (h : s.Issues i t u d) {f : Chip → Chip}
    (e : (s.seen i t u d).runDesc i t (s.chip.job i).lexp d = .done (f (s.seen i t u d))) :
    onChip s (fun c => c.issue t d) = .next (s.ran i t u d f false) := by
  rw [onChip_live h.1.1, issue_of_fetches h.1, start_of_issues h, runHead_past _ e]; rfl

theorem issue_awaits {s : State} {i t u : Nat} {d : Desc} (h : s.Issues i t u d) {f : Chip → Chip}
    (e : (s.seen i t u d).runDesc i t (s.chip.job i).lexp d = .awaits (f (s.seen i t u d))) :
    onChip s (fun c => c.issue t d) = .next (s.ran i t u d f true) := by
  rw [onChip_live h.1.1, issue_of_fetches h.1, start_of_issues h, runHead_past _ e]; rfl

theorem issue_gone {s : State} {i t u : Nat} {d : Desc} (h : s.Issues i t u d) {f : Chip → Chip}
    (e : (s.seen i t u d).runDesc i t (s.chip.job i).lexp d = .gone (f (s.seen i t u d))) :
    onChip s (fun c => c.issue t d) = .next (s.left i t u d f) := by
  rw [onChip_live h.1.1, issue_of_fetches h.1, start_of_issues h, runHead_past _ e]; rfl

/-- What a unit sees differs from the chip in the tiles' stores and the count of free values alone. -/
theorem view_eq (c : Chip) : ∃ ts n, c.view = { c with tiles := ts, freeCount := n } := by
  unfold Chip.view; extract_lets bs
  cases bs.isEmpty
  case true => exact ⟨_, _, rfl⟩
  case false =>
    suffices h : ∀ d : Chip, (∃ ts n, d = { c with tiles := ts, freeCount := n }) →
        ∃ ts n, bs.foldl (fun (d : Chip) e =>
          (if d.freeNow % 2 = 0 then d else d.storeWrite e.1 e.2.granule e.2.old).drew) d =
            { c with tiles := ts, freeCount := n } from h c ⟨_, _, rfl⟩
    induction bs with
    | nil => intro d h; exact h
    | cons b bs ih =>
      rintro d ⟨ts, n, rfl⟩
      refine ih _ ?_
      by_cases k : Chip.freeNow { c with tiles := ts, freeCount := n } % 2 = 0
      · exact ⟨_, _, by simp only [if_pos k]; rfl⟩
      · exact ⟨_, _, by simp only [if_neg k]; rfl⟩

theorem past_eq (c : Chip) (i t u : Nat) (d : Desc) : ∃ ts, c.past i t u d = { c with tiles := ts } := by
  unfold Chip.past
  rcases passFence_eq c t d with e | e <;> rw [e] <;> exact ⟨_, rfl⟩

/-- The chip as a unit sees it that runs a descriptor at once differs from the chip in the tiles and the count of free
values alone. -/
theorem seen_eq (s : State) (i t u : Nat) (d : Desc) : ∃ ts n, s.seen i t u d = { s.chip with tiles := ts, freeCount := n } := by
  obtain ⟨ts, h⟩ := past_eq s.chip i t u d
  obtain ⟨us, n, k⟩ := view_eq (s.chip.past i t u d)
  exact ⟨us, n, by rw [State.seen, k, h]⟩

/-- A descriptor that shows no fault as it is fetched shows none of its own to its unit. -/
theorem seen_unitFault {s : State} {i t u : Nat} {d : Desc} (h : s.Issues i t u d) : (s.seen i t u d).unitFault i d = none := by
  have k : opClass (dOp d) ≠ some .control := by
    intro k; have := h.2.1; simp [unitOf, k] at this
  have := unitFault_of_fetch h.1.2.2.2.2.2.2.2.2.1 k
  obtain ⟨ts, n, e⟩ := seen_eq s i t u d
  rw [e]; exact this

/-- With no write in progress a unit sees the stores as they stand. -/
theorem view_quiet {c : Chip} (h : ∀ e ∈ c.tiles, e.2.before = []) : c.view = c := by
  have : c.tiles.flatMap (fun e => (e.2.before.filter c.inProgress).map (fun b => (e.1, b))) = [] := by
    rw [List.flatMap_eq_nil_iff]; intro e he; rw [h e he]; rfl
  simp [Chip.view, this]

end Sys2Proof.Machine
end

