-- ==== Sys2Proof/Tests/Slice0.lean ====
section
/-! SUPPORT. Tests: ill-formed commands refused, small steps checked against the manual, and a state and operands for the
hypotheses of every statement. -/

namespace Sys2Proof.Tests

open Sys2Proof Sys2Proof.Machine

set_option Elab.async false

/-- A booted module with instance 0, its queue 0 (PCIe-bound, 64 slots) and OQ, each with a session. -/
def ready : State :=
  { State.reset with chip := { Chip.initial with
      insts := [(0, { Inst.initial with live := true, blocks := 1, pcGroups := 1, weights := [1, 1, 1, 1, 1, 1] })]
      queues := [(0, { Queue.initial 0 with depthLog2 := 6, route := .pcie, wepoch := 1, session := some 0 }),
                 (256, { Queue.initial 256 with session := some 1 })]
      sessions := [(0, { inst := 0, version := 0x32, ident := 1, secRequired := false, key := none, queues := [0] }),
                   (1, { inst := 16, version := 0x32, ident := 2, secRequired := false, key := none, queues := [256] })] } }

/-- A command of instance 0 on queue 0. -/
def mine (params : List Byte) : Icp := { queue := 0, version := 0x32, inst := 0, flags := 0, tag := 1, params := params }

/-- A command of the operator on OQ, acting on an instance number. -/
def oper (inst : Byte) (params : List Byte) : Icp :=
  { queue := 256, version := 0x32, inst := inst, flags := 0, tag := 1, params := params }

/-! Each `met_` theorem applies a statement to concrete states and operands: evaluation discharges every hypothesis of the
clauses it reaches, so they can be met. -/

theorem met_live : ready.Live := by decide +kernel
theorem met_nop : ready.chip.runs 0x00 (mine []) = true := by decide +kernel
theorem met_reset : ready.chip.runs 0x93 (oper 255 [1,0,0,0]) = true := by decide +kernel

/-- The command ends in a next state. -/
def Goes (o : Host.Outcome State Fault Refusal) : Prop := ∃ t, o = .next t

/-- `ready` with its chip changed. -/
def with' (f : Chip → Chip) : State := { ready with chip := f ready.chip }

/-- `ready` with its supply changed. -/
def supply (p : Power) : State := { ready with power := p }

theorem met_EmptyQueueIdles (h : Obligations.EmptyQueueIdles) : Goes (step ready) := ⟨_, h _ rfl⟩

/-! What a computation in a premise finds. -/

theorem found {α : Type} {v : Option α} {P : α → Prop} (h : ∀ a, v = some a → P a) (ok : v.isSome = true) : ∃ a, P a := by
  cases v with
  | none => cases ok
  | some a => exact ⟨a, h a rfl⟩

theorem foundPair {α β : Type} {v : Option (α × β)} {P : α → β → Prop} (h : ∀ a b, v = some (a, b) → P a b)
    (ok : v.isSome = true) : ∃ a b, P a b := by
  cases v with
  | none => cases ok
  | some a => exact ⟨a.1, a.2, h a.1 a.2 rfl⟩

theorem foundLeft {α β γ : Type} {v : (α × β) ⊕ γ} {P : α → β → Prop} (h : ∀ a b, v = .inl (a, b) → P a b)
    (ok : v.isLeft = true) : ∃ a b, P a b := by
  cases v with
  | inl a => exact ⟨a.1, a.2, h a.1 a.2 rfl⟩
  | inr _ => cases ok

theorem foundRight {α β γ : Type} {v : γ ⊕ (α × β)} {P : α → β → Prop} (h : ∀ a b, v = .inr (a, b) → P a b)
    (ok : v.isRight = true) : ∃ a b, P a b := by
  cases v with
  | inl _ => cases ok
  | inr a => exact ⟨a.1, a.2, h a.1 a.2 rfl⟩

theorem foundRoom {α β γ δ : Type} {v : Option (α × ((β × γ) ⊕ δ))} {P : α → β → γ → Prop}
    (h : ∀ a b c, v = some (a, .inl (b, c)) → P a b c) (ok : v.any (·.2.isLeft) = true) : ∃ a b c, P a b c := by
  match v, h, ok with
  | some (a, .inl (b, c)), h, _ => exact ⟨a, b, c, h a b c rfl⟩

theorem foundFull {α β γ δ : Type} {v : Option (α × (δ ⊕ (β × γ)))} {P : α → β → γ → Prop}
    (h : ∀ a b c, v = some (a, .inr (b, c)) → P a b c) (ok : v.any (·.2.isRight) = true) : ∃ a b c, P a b c := by
  match v, h, ok with
  | some (a, .inr (b, c)), h, _ => exact ⟨a, b, c, h a b c rfl⟩

theorem foundFault {α β : Type} {v : α ⊕ β} {P : α → Prop} (h : ∀ a, v = .inl a → P a) (ok : v.isLeft = true) : ∃ a, P a := by
  cases v with
  | inl a => exact ⟨a, h a rfl⟩
  | inr _ => cases ok

theorem met_SupplyCommandsComplete (h : Obligations.SupplyCommandsComplete) :
    let off : Power := { Power.initial with phase := .off, pwrOk := false, rails := 0x80 }
    let dark : Power := { off with inputOk := false, rails := 0 }
    let hot : Power := { off with therm := true }
    Goes (exec .inputLeavesRange (supply off)) ∧ Goes (exec .inputLeavesRange ready) ∧ Goes (exec .pwrOkRise ready) ∧
    Goes (exec .pwrOkRise (supply off)) ∧ Goes (exec .pwrOkRise (supply dark)) ∧ Goes (exec .pwrOkRise (supply hot)) ∧
    Goes (exec .coldHoldAssert ready) ∧ Goes (exec .coldHoldAssert (supply off)) ∧ Goes (exec .coldHoldRelease ready) ∧
    Goes (exec (.thermalStop 0 920) ready) ∧ Goes (exec (.thermalStop 0 919) ready) ∧
    Goes (exec (.thermalStop 0 920) (supply dark)) ∧ Goes (exec .thermalRecover ready) ∧
    Goes (exec .thermalRecover (supply hot)) ∧ Goes (exec .thermalRecover (supply { hot with pwrOk := true })) := by
  intro off dark hot
  obtain ⟨_, _, r3, r4, _, _, _, r8, _, r10, r11, r12, r13, _⟩ := h ready rfl
  obtain ⟨_, o2, _, _, o5, _, _, _, o9, _⟩ := h (supply off) rfl
  obtain ⟨_, _, _, _, _, d6, _, _, _, _, _, d12, _⟩ := h (supply dark) rfl
  obtain ⟨_, _, _, _, _, t6, _, _, _, _, _, _, _, t14⟩ := h (supply hot) rfl
  obtain ⟨_, _, _, _, _, _, _, _, _, _, _, _, _, u14⟩ := h (supply { hot with pwrOk := true }) rfl
  obtain ⟨_, _, t14, _⟩ := t14 rfl
  obtain ⟨_, _, _, u14⟩ := u14 rfl
  exact ⟨⟨_, o2 rfl⟩, ⟨_, r3 (by decide)⟩, ⟨_, r4 rfl⟩, ⟨_, o5 rfl rfl rfl⟩, ⟨_, d6 rfl (.inl rfl)⟩, ⟨_, t6 rfl (.inr rfl)⟩,
    ⟨_, r8 rfl⟩, ⟨_, o9 (by decide)⟩, ⟨_, r10⟩, ⟨_, r11 0 920 rfl (by decide)⟩, ⟨_, r12 0 919 (.inr (by decide))⟩,
    ⟨_, d12 0 920 (.inl rfl)⟩, ⟨_, r13 rfl⟩, ⟨_, t14 rfl⟩, ⟨_, u14 rfl⟩⟩

theorem met_BootAndResetComplete (h : Obligations.BootAndResetComplete) :
    let cold : Power := { Power.initial with phase := .coldReset }
    let down : State := with' fun c => { c with pcie := { c.pcie with linkUp := false } }
    let spare : Store → Store := fun t => { t with copyB := { t.copyA with seq := 0, shipped := false } }
    Goes (exec (.coldBoot []) (supply cold)) ∧ Goes (exec (.coldBoot []) ready) ∧
    Goes (exec (.coldBoot []) (supply { cold with coldHold := true })) ∧
    Goes (exec .iboonReadyTimeout { supply cold with chip := { ready.chip with store := spare ready.chip.store } }) ∧
    Goes (exec .iboonReadyTimeout (with' fun c => { c with store := spare c.store })) ∧ Goes (exec .iboonReadyTimeout ready) ∧
    Goes (exec .perst ready) ∧ Goes (exec .pcieLinkDown ready) ∧ Goes (exec .pcieLinkReturn ready) ∧
    Goes (exec .pcieLinkReturn down) ∧ Goes (exec (.moduleResetWarm (oper 255 [0,0,0,0])) ready) ∧
    Goes (exec (.moduleResetCold (oper 255 [1,0,0,0])) ready) := by
  intro cold down spare
  have r := h ready rfl
  have c := h (supply cold) rfl
  have d := h down rfl
  have t1 := h { supply cold with chip := { ready.chip with store := spare ready.chip.store } } rfl
  have t2 := h (with' fun c => { c with store := spare c.store }) rfl
  exact ⟨⟨_, c.1 [] rfl rfl⟩, ⟨_, r.2.1 [] (.inl (by decide))⟩,
    ⟨_, (h (supply { cold with coldHold := true }) rfl).2.1 [] (.inr rfl)⟩,
    ⟨_, t1.2.2.1 (by decide +kernel) rfl⟩, ⟨_, t2.2.2.2.1 (by decide +kernel) rfl rfl⟩, ⟨_, r.2.2.2.2.1 (by decide +kernel)⟩,
    ⟨_, (r.2.2.2.2.2.1 rfl).1⟩, ⟨_, (r.2.2.2.2.2.1 rfl).2⟩, ⟨_, r.2.2.2.2.2.2.1 rfl rfl⟩, ⟨_, d.2.2.2.2.2.2.2.1 rfl rfl⟩,
    ⟨_, (r.2.2.2.2.2.2.2.2 (oper 255 [0,0,0,0]) rfl (by decide +kernel)).1 (by decide +kernel)⟩,
    ⟨_, (r.2.2.2.2.2.2.2.2 (oper 255 [1,0,0,0]) rfl (by decide +kernel)).2 (by decide +kernel)⟩⟩

/-- The bytes of a packet: the header's first 12 bytes, its CRC (R48), the parameters. -/
def wire (head params : List Byte) : List Byte := head ++ leBytes 4 (crc32c (head ++ params)) ++ params

/-- `ready` with one item waiting on queue 0, received as these bytes. -/
def withItem (bs : List Byte) : State :=
  with' fun c => c.onQueue 0 fun u => { u with items := [{ start := 0, count := 1, udp := some (5, bs) }] }

/-- `ready` with its PCIe function in D3hot. -/
def asleep : State := with' fun c => { c with pcie := { c.pcie with d3hot := true } }

theorem met_SlotAndDoorbellWritesComplete (h : Obligations.SlotAndDoorbellWritesComplete) :
    let full : State := with' fun c => c.onQueue 0 fun u => { u with items := [⟨0, 1, none⟩] }
    let last : State := with' fun c => c.onQueue 0 fun u => { u with committed := 63 }
    Goes (exec (.slotWrite .pcie 0 63 0) asleep) ∧ Goes (exec (.doorbell .pcie 0 0) asleep) ∧
    Goes (exec (.slotWrite .onDie 0 5 0) ready) ∧ Goes (exec (.slotWrite .pcie 0 63 0) ready) ∧
    Goes (exec (.slotWrite .pcie 0 0 (1#512 <<< 480)) full) ∧
    Goes (exec (.slotWrite .pcie 0 63 (1#512 <<< 480)) ready) ∧
    Goes (exec (.slotWrite .pcie 0 63 (1#512 <<< 480 ||| 1#512 <<< 511)) last) ∧
    Goes (exec (.doorbell .onDie 0 0) ready) ∧ Goes (exec (.doorbell .pcie 0 0) ready) ∧
    Goes (exec (.doorbell .pcie 0 0x000100000000003F) ready) ∧ Goes (exec (.doorbell .pcie 0 0x0001000000000040) ready) ∧
    Goes (exec (.doorbellFlush .pcie 0 0x0001000000000000) ready) ∧ Goes (exec (.completionHeadWrite .pcie 0 63) ready) := by
  intro full last
  have at' := fun s r (ok : s.Live ∧ (s.chip.queue 0).depthLog2 ≠ 0 ∧ (s.chip.queue 0).fenced = false) =>
    h s r 0 ok.1 (by decide) ok.2.1 ok.2.2
  obtain ⟨z, _⟩ := at' asleep .pcie (by decide +kernel)
  obtain ⟨_, r⟩ := at' ready .pcie (by decide +kernel)
  obtain ⟨_, f⟩ := at' full .pcie (by decide +kernel)
  obtain ⟨_, l⟩ := at' last .pcie (by decide +kernel)
  obtain ⟨_, o⟩ := at' ready .onDie (by decide +kernel)
  obtain ⟨_, r2, r3, r4, r5, r6⟩ := r (by decide +kernel)
  obtain ⟨_, f2, _⟩ := f (by decide +kernel)
  obtain ⟨_, l2, _⟩ := l (by decide +kernel)
  obtain ⟨o1, _, o3, _⟩ := o (by decide +kernel)
  obtain ⟨z1, z2⟩ := z (by decide +kernel)
  refine ⟨⟨_, z1 63 0⟩, ⟨_, (z2 0).1⟩, ⟨_, o1 5 0 ?_ ?_⟩, ⟨_, (r2 63 0 ?_ ?_ ?_).1 ?_⟩, ⟨_, (f2 0 (1#512 <<< 480) ?_ ?_ ?_).2.1 ?_ ?_⟩,
    ⟨_, (r2 63 (1#512 <<< 480) ?_ ?_ ?_).2.2.1 ?_ ?_ ?_⟩,
    ⟨_, (l2 63 (1#512 <<< 480 ||| 1#512 <<< 511) ?_ ?_ ?_).2.2.2 ?_ ?_ ?_ ?_⟩, ⟨_, o3 0 ?_⟩, ⟨_, r3 0 ?_⟩,
    ⟨_, (r4 0x000100000000003F ?_ ?_ ?_).1 ?_⟩, ⟨_, (r4 0x0001000000000040 ?_ ?_ ?_).2 ?_⟩,
    ⟨_, r5 0x0001000000000000 ?_ ?_⟩, ⟨_, r6 63 ?_ ?_ ?_ ?_⟩⟩ <;> decide +kernel

theorem met_OwlStartsItemsInTurn (h : Obligations.OwlStartsItemsInTurn) :
    let nop := withItem (wire [0x32,0,0,0, 1,0,0,0, 16,0,0,0] [])
    let odd := withItem (wire [0x24,0,0,0, 1,0,0,0, 16,0,0,0] [])
    let torn := withItem (wire [0x32,0,0,0, 1,0,0,0, 20,0,0,0] [])
    let told := with' fun c => (c.notify [0] 1 0 0).onNoticeQ 0 fun n => { n with receiver := some 0 }
    Goes (exec (.owlItemStart 0) ready) ∧ Goes (exec (.owlItemStart 0) nop) ∧ Goes (exec (.owlItemStart 0) odd) ∧
    Goes (exec (.owlItemStart 0) torn) ∧ Goes (exec (.noticeDeliver 0) told) := by
  intro nop odd torn told
  have a := (h nop (by decide +kernel)).2.1 0 ((nop.chip.queue 0).items.getD 0 ⟨0, 0, none⟩) [] (by decide +kernel)
    (by decide +kernel)
  have b := (h odd (by decide +kernel)).2.1 0 ((odd.chip.queue 0).items.getD 0 ⟨0, 0, none⟩) [] (by decide +kernel)
    (by decide +kernel)
  have c := (h torn (by decide +kernel)).2.1 0 ((torn.chip.queue 0).items.getD 0 ⟨0, 0, none⟩) [] (by decide +kernel)
    (by decide +kernel)
  refine ⟨⟨_, (h ready (by decide +kernel)).1 0 (by decide +kernel)⟩, ⟨_, a.1 (by decide +kernel)⟩,
    ⟨_, b.2.1 (257, 36) (by decide +kernel) (by decide) (by decide)⟩,
    ⟨_, c.2.2 (stBadLength, 20) (by decide +kernel) (.inl rfl)⟩, ?_⟩
  exact ⟨_, (h told (by decide +kernel)).2.2 0 0 ((told.chip.session 0).getD default)
    ((told.chip.noticeQ 0).entries.getD 0 default) (by decide)
    (by decide +kernel) (by decide +kernel) (by decide +kernel) (by decide +kernel) (by decide +kernel)⟩

/-- The n low bytes of a value, as parameters. -/
def le (n v : Nat) : List Byte := leBytes n v

/-- `ready` with queue 0 on UDP, and with port 1 at an IPv4 address. -/
def onUdp (f : Queue → Queue) : State :=
  let s := with' fun c => c.onQueue 0 fun u => f { u with route := .udp }
  { s with chip := { s.chip with boot := { s.chip.boot with ipv4 := [0, 0x0A000001] } } }

/-- A frame to that address, from ::5. -/
def frame : Frame := { vlan := none, mac := Config.mac 1, dst := mapped 0x0A000001, src := 5 }

theorem met_UdpRowsComplete (h : Obligations.UdpRowsComplete) :
    let udp := onUdp id
    let part := onUdp fun u => { u with partials := [⟨7, 2, 0, 1, [(0, [])]⟩] }
    let heard := onUdp fun u => { u with peer := some ⟨1, 5, 9⟩ }
    let told : State := { heard with chip := heard.chip.onNoticeQ 0 (
      fun n => { n with receiver := some 0, entries := [{ (default : NEntry) with sent := some (3, 0) }], deliveredNow := [3] }) }
    let hdr : BitVec 128 := BitVec.ofNat 128 (packed [(0x1CF0, 0), (4, 16), (1, 40), (63, 48), (64, 56), (1, 64)])
    Goes (exec (.udpSegment 1 frame 9 0 0 []) udp) ∧ Goes (exec (.udpSegment 1 frame 9 0 hdr [0,0,0,0]) udp) ∧
    Goes (exec (.udpSegment 1 frame 9 0 hdr [0,0,0,0]) heard) ∧
    Goes (exec (.udpPartialTimeout 0 7) part) ∧ Goes (exec (.udpPartialTimeout 0 7) udp) ∧
    Goes (exec (.udpNoticeResend 0) told) := by
  intro udp part heard told hdr
  obtain ⟨u1, _, u3, _⟩ := h udp (by decide +kernel)
  obtain ⟨e1, _⟩ := h heard (by decide +kernel)
  obtain ⟨_, p2, _⟩ := h part (by decide +kernel)
  obtain ⟨_, _, _, t4⟩ := h told (by decide +kernel)
  have sent : ∀ e ∈ (told.chip.noticeQ 0).entries,
      e.sent.all (fun sd => (told.chip.noticeQ 0).deliveredNow.contains sd.1) = true := by decide +kernel
  refine ⟨⟨_, (u1 1 frame 9 0 0 [] ⟨?_, rfl, ?_⟩).1 ?_⟩,
    ⟨_, (u1 1 frame 9 0 hdr [0,0,0,0] ⟨?_, rfl, ?_⟩).2 ?_ ?_ ?_ ?_ ?_ (.inl ?_) ?_⟩,
    ⟨_, (e1 1 frame 9 0 hdr [0,0,0,0] ⟨?_, rfl, ?_⟩).2 ?_ ?_ ?_ ?_ ?_ (.inr ?_) ?_⟩,
    ⟨_, p2 0 7 ⟨7, 2, 0, 1, [(0, [])]⟩ ?_⟩, ⟨_, u3 0 7 ?_⟩,
    ⟨_, t4 0 ((told.chip.session 0).getD default) ?_ ?_ ?_ ?_ (fun e he sd hs => by simpa [hs] using sent e he)⟩⟩ <;>
  decide +kernel

theorem met_RegisterHalvesComplete (h : Obligations.RegisterHalvesComplete) :
    let held := with' fun c => c.setStage .bar0 0x4008 (some 5)
    Goes (exec (.registerLowerHalfRead .bar0 0xFFF8 8) ready) ∧
    Goes (exec (.registerLowerHalfRead (.core 15) 0x100000FFF8 4) ready) ∧
    Goes (exec (.registerUpperHalfRead .bar0 0xFFFC 4) ready) ∧ Goes (exec (.registerLowerHalfWrite .bar0 0x4008 4 1) ready) ∧
    Goes (exec (.registerLowerHalfWrite .bar0 0 4 1) ready) ∧ Goes (exec (.registerUpperHalfWrite .bar0 4 4 1) ready) ∧
    Goes (exec (.registerUpperHalfWrite .bar0 0x400C 4 1) held) ∧ Goes (exec (.registerUpperHalfWrite .bar0 0x400C 4 1) ready) ∧
    Goes (exec (.registerLowerHalfRead (.core 15) (hostTop - 1) 1) ready) ∧
    Goes (exec (.registerLowerHalfRead .bar2 0x6000800 4) ready) ∧
    Goes (exec (.registerLowerHalfRead (.core 0) hostTop 4) ready) ∧
    Goes (exec (.registerUpperHalfWrite (.core 15) 0x1000000002 4 1) ready) ∧
    Goes (exec (.registerLowerHalfWrite .bar0 0x10000 4 1) ready) := by
  intro held
  have v1 := (h ready .bar0 0xFFF8 (by decide +kernel)).2.1 0xFFF8
  obtain ⟨_, _, v2, _⟩ := h ready (.core 15) 0x100000FFF8 (by decide +kernel)
  obtain ⟨_, _, _, v3, _⟩ := h ready .bar0 0xFFFC (by decide +kernel)
  obtain ⟨_, _, v4, _⟩ := h ready .bar0 0x4008 (by decide +kernel)
  obtain ⟨_, _, v5, _⟩ := h ready .bar0 0 (by decide +kernel)
  obtain ⟨_, _, _, v6, _⟩ := h ready .bar0 4 (by decide +kernel)
  obtain ⟨_, _, _, v7, _⟩ := h held .bar0 0x400C (by decide +kernel)
  obtain ⟨_, _, _, v8, _⟩ := h ready .bar0 0x400C (by decide +kernel)
  obtain ⟨_, _, _, _, v9, _⟩ := h ready (.core 15) (hostTop - 1) (by decide +kernel)
  obtain ⟨_, _, _, _, _, v10, _⟩ := h ready .bar2 0x6000800 (by decide +kernel)
  obtain ⟨_, _, _, _, _, _, v11⟩ := h ready (.core 0) hostTop (by decide +kernel)
  obtain ⟨_, _, _, _, _, _, v12⟩ := h ready (.core 15) 0x1000000002 (by decide +kernel)
  obtain ⟨_, _, _, _, _, _, v13⟩ := h ready .bar0 0x10000 (by decide +kernel)
  refine ⟨⟨_, v1 ?_⟩, ⟨_, (v2 0xFFF8 ?_ ?_).1⟩, ⟨_, (v3 0xFFF8 ?_ ?_).1⟩, ⟨_, (v4 0x4008 ?_ ?_).2.1 1 ?_⟩,
    ⟨_, (v5 0 ?_ ?_).2.2 1 ?_⟩, ⟨_, (v6 0 ?_ ?_).2.1 1 ?_⟩, ⟨_, (v7 0x4008 ?_ ?_).2.2.1 1 5 ?_ ?_⟩,
    ⟨_, (v8 0x4008 ?_ ?_).2.2.2 1 ?_ ?_⟩, ⟨_, v9 1 (hostTop - 1) ?_⟩,
    ⟨_, v10 4 (.head .pcie 256) ?_ ?_ (fun _ e => nomatch e) (fun _ e => nomatch e)⟩,
    ⟨_, ((v11 4 0 ?_).1 0 rfl ?_).1⟩, ⟨_, ((v12 4 1 ?_).1 15 rfl ?_).2.2.2⟩, ⟨_, ((v13 4 1 ?_).2 ?_).2.2.1⟩⟩ <;> decide +kernel

theorem met_RegisterWritesComplete (h : Obligations.RegisterWritesComplete) :
    let due := with' fun c => { c with pcie := { c.pcie with msixEnable := true, msix := [(256, ⟨0, 0, false, true⟩)] } }
    Goes (exec (.registerWrite .bar0 0x5008 8 1) ready) ∧ Goes (exec (.registerWrite .bar0 0x1F10 8 1) ready) ∧
    Goes (exec (.registerWrite .bar0 0x5010 8 1) ready) ∧ Goes (exec (.registerWrite (.core 0) 0x1000008800 8 1) ready) ∧
    Goes (exec (.registerWrite .bar0 0xFFF8 8 1) ready) ∧ Goes (exec (.registerWrite (.core 15) 0x100001F000 8 1) ready) ∧
    Goes (exec (.registerWrite (.core 15) 0x100001F008 8 1) ready) ∧ Goes (exec (.registerWrite (.core 0) 0x10000207C8 8 1) ready) ∧
    Goes (exec (.registerWrite (.core 0) 0x10000207D8 8 1) ready) ∧ Goes (exec (.registerWrite .bar4 0x1000 8 1) ready) ∧
    Goes (exec (.registerWrite .bar4 0x1008 8 1) ready) ∧ Goes (exec (.registerWrite .config 0xB0 8 1) ready) ∧
    Goes (exec (.registerWrite .bar2 0x6000800 4 1) ready) ∧ Goes (exec (.registerWrite .bar2 0x403FFFC 4 1) ready) ∧
    Goes (exec (.registerWrite (.core 0) (hostTop - 8) 8 1) ready) ∧ Goes (exec (.registerWrite .bar4 0x2020 8 1) ready) ∧
    Goes (exec (.registerWrite .bar2 0x4040000 8 1) ready) ∧ Goes (exec (.registerWrite (.core 1) hostTop 8 1) ready) ∧
    Goes (exec (.registerWrite .bar2 0 8 1) asleep) ∧ Goes (exec (.msixPendingSend 256) due) ∧ Goes (exec (.msixPendingSend 256) ready) := by
  intro due
  have r := fun p a => h ready p a 1 (by decide +kernel)
  obtain ⟨w1, _⟩ := r .bar0 0x5008
  obtain ⟨_, w2, _⟩ := r .bar0 0x1F10
  obtain ⟨_, _, w3, _⟩ := r .bar0 0x5010
  obtain ⟨_, _, _, w4, _⟩ := r (.core 0) 0x1000008800
  obtain ⟨_, _, _, _, w5, _⟩ := r .bar0 0xFFF8
  obtain ⟨_, _, _, _, _, w6, _⟩ := r (.core 15) 0x100001F000
  obtain ⟨_, _, _, _, _, _, w7, _⟩ := r (.core 15) 0x100001F008
  obtain ⟨_, _, _, _, _, _, _, w8, _⟩ := r (.core 0) 0x10000207C8
  obtain ⟨_, _, _, _, _, _, _, _, w9, _⟩ := r (.core 0) 0x10000207D8
  obtain ⟨_, _, _, _, _, _, _, _, _, w10, _⟩ := r .bar4 0x1000
  obtain ⟨_, _, _, _, _, _, _, _, _, _, w11, _⟩ := r .bar4 0x1008
  obtain ⟨_, _, _, _, _, _, _, _, _, _, _, w12, _⟩ := r .config 0xB0
  obtain ⟨_, _, _, _, _, _, _, _, _, _, _, _, w13, _⟩ := r .bar2 0x6000800
  obtain ⟨_, _, _, _, _, _, _, _, _, _, _, _, _, w14, _⟩ := r .bar2 0x403FFFC
  obtain ⟨_, _, _, _, _, _, _, _, _, _, _, _, _, _, w15, _⟩ := r (.core 0) (hostTop - 8)
  obtain ⟨_, _, _, _, _, _, _, _, _, _, _, _, _, _, _, w16, _⟩ := r .bar4 0x2020
  obtain ⟨_, _, _, _, _, _, _, _, _, _, _, _, _, _, _, w17, _⟩ := r .bar2 0x4040000
  obtain ⟨_, _, _, _, _, _, _, _, _, _, _, _, _, _, _, _, w18, _⟩ := r (.core 1) hostTop
  obtain ⟨_, _, _, _, _, _, _, _, _, _, _, _, _, _, _, _, w19, _⟩ := h asleep .bar2 0 1 (by decide +kernel)
  obtain ⟨_, _, _, _, _, _, _, _, _, _, _, _, _, _, _, _, _, w20, _⟩ := h due .bar0 0 1 (by decide +kernel)
  obtain ⟨_, _, _, _, _, _, _, _, _, _, _, _, _, _, _, _, _, _, w21⟩ := r .bar0 0
  refine ⟨⟨_, w1 256 ?_ ?_⟩, ⟨_, w2 15 ?_ ?_⟩, ⟨_, w3 ?_⟩, ⟨_, w4 256 ?_ ?_⟩, ⟨_, w5 0xFFF8 ?_ ?_ ?_⟩, ⟨_, w6 15 ?_⟩, ⟨_, w7 15 8 ?_ ?_⟩,
    ⟨_, w8 31 ?_ ?_ ?_⟩, ⟨_, w9 31 ?_ ?_⟩, ⟨_, w10 256 ?_ ?_⟩, ⟨_, w11 256 ?_ ?_⟩, ⟨_, w12 ?_⟩, ⟨_, w13 4 .pcie 256 ?_ ?_⟩,
    ⟨_, w14 4 256 4095 56 ?_⟩, ⟨_, w15 8 (hostTop - 8) ?_⟩, ⟨_, w16 8 (.inr ⟨4, ?_⟩)⟩, ⟨_, w17 8 (.inl ?_)⟩,
    ⟨_, (w18 8 ?_).1 1 rfl ?_⟩, ⟨_, (w19 8 ?_).2 ?_⟩, ⟨_, w20 256 ?_ ?_ ?_⟩, ⟨_, w21 256 (.inl ?_)⟩⟩ <;> decide +kernel

theorem met_FeedStreamsComplete (h : Obligations.FeedStreamsComplete) :
    let on (tail : Word) : State :=
      let f : Feed := { Feed.initial with en := true, udpPort := 0x8000, log2Slots := 6, tail := tail }
      { onUdp id with chip := (onUdp id).chip.setFeed 31 f }
    let due := with' fun c => c.setFeed 31 { Feed.initial with unsignalled := 1 }
    Goes (exec (.feedStreamEnable 31 0x800000060001) ready) ∧ Goes (exec (.feedStreamDisable 31 0x800000060001) ready) ∧
    Goes (exec (.feedTailWrite 31 1) ready) ∧ Goes (exec (.feedDatagram 1 frame 9 0x7FFF 0 []) (on 1)) ∧
    Goes (exec (.feedDatagram 1 frame 9 0x8000 0 []) (on 1)) ∧ Goes (exec (.feedDatagram 1 frame 9 0x8000 0 []) (on 0)) ∧
    Goes (exec (.feedInterruptTimer 31) due) ∧ Goes (exec (.feedInterruptTimer 31) ready) := by
  intro on due
  obtain ⟨r1, r2, _, _, r5⟩ := h ready (by decide +kernel)
  obtain ⟨_, _, a3, _⟩ := h (on 1) (by decide +kernel)
  obtain ⟨_, _, b3, _⟩ := h (on 0) (by decide +kernel)
  obtain ⟨_, _, _, d4, _⟩ := h due (by decide +kernel)
  refine ⟨⟨_, (r1 31 0x800000060001 ?_).1 ?_⟩, ⟨_, (r1 31 0x800000060001 ?_).2⟩, ⟨_, r2 31 1 ?_⟩,
    ⟨_, (a3 1 frame 9 0x7FFF 0 [] ⟨?_, rfl, ?_⟩).1 ?_⟩, ⟨_, ((a3 1 frame 9 0x8000 0 [] ⟨?_, rfl, ?_⟩).2 31 ?_).1 ?_⟩,
    ⟨_, ((b3 1 frame 9 0x8000 0 [] ⟨?_, rfl, ?_⟩).2 31 ?_).2 ?_⟩, ⟨_, d4 31 ?_⟩, ⟨_, r5 31 ?_⟩⟩ <;> decide +kernel

theorem met_PlainCommandsComplete (h : Obligations.PlainCommandsComplete) :
    let behind := with' fun c => { c with started := [{ (default : Started) with op := 0x33, cmd := { mine [] with tag := 9 } }] }
    let look (off n : Nat) := mine (le 8 (off + 2 ^ 32 * n))
    let set (off : Nat) := mine (le 24 off)
    let count (a n : Nat) := mine (le 4 (a + 2 ^ 16 * n))
    Goes (exec (.nop (mine [])) ready) ∧ Goes (exec (.fence (mine [])) ready) ∧ Goes (exec (.fence (mine [])) behind) ∧
    Goes (exec (.identify (mine [])) ready) ∧ Goes (exec (.readReg (look 1 1)) ready) ∧
    Goes (exec (.readReg (look 0xFFF8 2)) ready) ∧ Goes (exec (.readReg (look 0x1F8 2)) ready) ∧
    Goes (exec (.readReg (look 0x1F8 1)) ready) ∧ Goes (exec (.readReg (oper 255 (le 8 (0xF000 + 2 ^ 32 * 512)))) ready) ∧
    Goes (exec (.writeReg (set 0x10000)) ready) ∧ Goes (exec (.writeReg (set 0x200)) ready) ∧
    Goes (exec (.writeReg (set 0x4008)) ready) ∧ Goes (exec (.writeReg (oper 255 (le 24 0xFFF8))) ready) ∧
    Goes (exec (.countersRead (count 0 513)) ready) ∧ Goes (exec (.countersRead (count 0x300 1)) ready) ∧
    Goes (exec (.countersRead (count 0 2)) ready) := by
  intro behind look set count
  obtain ⟨n1, n2, n3, _⟩ := h ready (mine [])
  obtain ⟨_, b2, _⟩ := h behind (mine [])
  have read := fun p => (h ready p).2.2.2.1
  have write := fun p => (h ready p).2.2.2.2.1
  have num := fun p => (h ready p).2.2.2.2.2
  refine ⟨⟨_, n1 ?_⟩, ⟨_, (n2 ?_).1 ?_⟩,
    ⟨_, (b2 ?_).2 { (default : Started) with op := 0x33, cmd := { mine [] with tag := 9 } } ?_ ?_ ?_⟩, ⟨_, n3 ?_⟩,
    ⟨_, (read (look 1 1) ?_).1 ?_⟩, ⟨_, (read (look 0xFFF8 2) ?_).2.1 ?_ ?_⟩, ⟨_, (read (look 0x1F8 2) ?_).2.2.1 ?_ ?_ ?_ ?_ ?_⟩,
    ⟨_, (read (look 0x1F8 1) ?_).2.2.2 ?_ ?_ ?_ ?_ ?_⟩, ⟨_, (read (oper 255 (le 8 (0xF000 + 2 ^ 32 * 512))) ?_).2.2.2 ?_ ?_ ?_ ?_ ?_⟩,
    ⟨_, (write (set 0x10000) ?_).1 ?_⟩, ⟨_, (write (set 0x200) ?_).2.1 ?_ ?_ ?_ ?_⟩, ⟨_, (write (set 0x4008) ?_).2.2 ?_ ?_ ?_⟩,
    ⟨_, (write (oper 255 (le 24 0xFFF8)) ?_).2.2 ?_ ?_ ?_⟩, ⟨_, (num (count 0 513) ?_).1 ?_⟩,
    ⟨_, (num (count 0x300 1) ?_).2.1 0 ?_ ?_ ?_⟩, ⟨_, (num (count 0 2) ?_).2.2 ?_ ?_ ?_⟩⟩ <;> decide +kernel

/-- `ready` with instance 0 changed. -/
def withInst (f : Inst → Inst) : State := with' fun c => c.onInst 0 f

/-- A job in its compute phase. -/
def busy : Job := { Job.initial with phase := .compute, epoch := 4, group := 3 }

theorem met_SessionCommandsComplete (h : Obligations.SessionCommandsComplete) :
    let fresh := with' fun c => c.onQueue 0 fun u => { u with session := none }
    let both := mine [1,0,0x33,0x20,1,0,0,0]
    let none' := mine [0,0,0x11,0,1,0,0,0]
    let on := mine (beBytes 48 p384Gx ++ beBytes 48 p384Gy)
    Goes (exec (.openSession none') fresh) ∧ Goes (exec (.openSession both) fresh) ∧
    Goes (exec (.closeSession (mine [])) ready) ∧ Goes (exec (.keyAgree (mine (le 96 0))) ready) ∧
    Goes (exec (.keyAgree on) ready) ∧ Goes (exec (.attest (oper 255 (le 48 0))) ready) ∧
    Goes (exec (.attest (mine (le 48 0))) ready) := by
  intro fresh both none' on
  have key := fun p => (h ready p).2.2.2.1
  have sign := fun p => (h ready p).2.2.2.2
  refine ⟨⟨_, (h fresh none').1 ?_ ?_⟩, ⟨_, (h fresh both).2.1 0x32 ?_ ?_ ?_ ?_ ?_ ?_⟩, ⟨_, (h ready (mine [])).2.2.1 ?_ 0 ?_⟩,
    ⟨_, (key (mine (le 96 0)) ?_ 0 ((ready.chip.session 0).getD default) ?_ ?_).1 ?_⟩,
    ⟨_, (key on ?_ 0 ((ready.chip.session 0).getD default) ?_ ?_).2 ?_⟩,
    ⟨_, sign (oper 255 (le 48 0)) ?_ ?_⟩, ⟨_, sign (mine (le 48 0)) ?_ ?_⟩⟩ <;> decide +kernel

theorem met_QueueCommandsComplete (h : Obligations.QueueCommandsComplete) :
    let two := with' fun c => c.setQueue 1 { Queue.initial 1 with depthLog2 := 6, route := .pcie }
    let make (q : Nat) := mine (le 28 (packed [(q, 0), (4096, 16), (1, 32)]))
    Goes (exec (.queueCreate (make 0)) ready) ∧ Goes (exec (.queueCreate (make 15)) ready) ∧
    Goes (exec (.queueDelete (mine (le 4 0))) ready) ∧ Goes (exec (.queueDelete (mine (le 4 1))) two) ∧
    Goes (exec (.queueFlush (mine (le 4 1))) two) ∧ Goes (exec (.noticeAck (mine (le 4 1))) ready) := by
  intro two make
  refine ⟨⟨_, ((h ready (make 0)).1 ?_ ?_ ?_).1 ?_⟩, ⟨_, ((h ready (make 15)).1 ?_ ?_ ?_).2 ?_⟩,
    ⟨_, ((h ready (mine (le 4 0))).2.1 ?_ ?_ ?_).1 ?_⟩, ⟨_, ((h two (mine (le 4 1))).2.1 ?_ ?_ ?_).2 ?_ ?_ ?_⟩,
    ⟨_, (h two (mine (le 4 1))).2.2.1 ?_ ?_ ?_ ?_⟩, ⟨_, (h ready (mine (le 4 1))).2.2.2 ?_⟩⟩ <;> decide +kernel

theorem met_InstanceCommandsComplete (h : Obligations.InstanceCommandsComplete) :
    let make := le 64 (packed [(2 ^ 99, 64), (2 ^ 63, 192), (0x111111, 296), (1, 344), (64, 352)])
    let change := le 64 (packed [(1, 0), (0xF11111, 296)])
    let going := withInst fun x => { x with resetting := some ⟨oper 0 [], false⟩ }
    let quota (v : Nat) := oper 0 (le 16 (packed [(1, 0), (v, 64)]))
    let guar (v : Nat) := oper 0 (le 16 (packed [(2, 0), (v, 64)]))
    Goes (exec (.instanceCreate (oper 0 make)) ready) ∧ Goes (exec (.instanceCreate (oper 15 make)) ready) ∧
    Goes (exec (.instanceModify (oper 0 change)) ready) ∧ Goes (exec (.instanceReset (oper 0 [])) ready) ∧
    Goes (exec (.instanceDestroy (oper 0 [])) ready) ∧ Goes (exec (.instanceResetDrainEnd 0) ready) ∧
    Goes (exec (.instanceResetDrainEnd 0) going) ∧ Goes (exec (.quotaSet (quota (2 ^ 63))) ready) ∧
    Goes (exec (.quotaSet (quota 0)) ready) ∧ Goes (exec (.guaranteeSet (guar 1)) ready) ∧
    Goes (exec (.guaranteeSet (guar 0)) ready) := by
  intro make change going quota guar
  have r := fun p => h ready p
  refine ⟨⟨_, ((r (oper 0 make)).1 ?_ ?_ ?_).1 ?_⟩, ⟨_, ((r (oper 15 make)).1 ?_ ?_ ?_).2 ?_ ?_ ?_ ?_ ?_ ?_ ?_⟩,
    ⟨_, (r (oper 0 change)).2.1 ?_ ?_ ?_ ?_ ?_ ?_⟩, ⟨_, (r (oper 0 [])).2.2.1 ?_ ?_ ?_ ?_ ?_⟩,
    ⟨_, (r (oper 0 [])).2.2.2.1 ?_ ?_ ?_ ?_ ?_⟩, ⟨_, (r (oper 0 [])).2.2.2.2.1 0 ?_ ?_⟩,
    ⟨_, (h going (oper 0 [])).2.2.2.2.2.1 0 ⟨oper 0 [], false⟩ ?_ ?_⟩,
    ⟨_, ((r (quota (2 ^ 63))).2.2.2.2.2.2.1 ?_ ?_ ?_ ?_).1 ?_⟩, ⟨_, ((r (quota 0)).2.2.2.2.2.2.1 ?_ ?_ ?_ ?_).2 ?_⟩,
    ⟨_, ((r (guar 1)).2.2.2.2.2.2.2 ?_ ?_ ?_ ?_).1 ?_ ?_⟩, ⟨_, ((r (guar 0)).2.2.2.2.2.2.2 ?_ ?_ ?_ ?_).2 ?_⟩⟩ <;>
  decide +kernel

/-- A dense or plain object of one extent at 40000h. -/
def box (cls : Nat) : Obj :=
  { (default : Obj) with addr := 0x40000, length := 0x40000, cls := cls, extents := [Extent.new false ⟨0, 0⟩] }

/-- The same while its extent is in the commit of a move. -/
def stuck : Obj := { box 0 with extents := [{ Extent.new false ⟨0, 0⟩ with stage := some .commit }] }

/-- `ready` with that object, under a job or none. -/
def boxed (cls : Nat) (j : Job) : State := withInst fun x => { x with objs := [box cls], job := j }

theorem met_MemoryCommandsComplete (h : Obligations.MemoryCommandsComplete) :
    let plain := boxed 0 Job.initial
    let dense := boxed 1 busy
    let held := withInst fun x => { x with objs := [stuck] }
    let get (tier : Nat) := mine (le 24 (packed [(tier, 16), (4096, 64)]))
    let stash := mine (le 24 (packed [(4, 20), (4096, 64), (0x40000, 128)]))
    let put (n how addr : Nat) := mine (le (if how = 0 then 16 + n else 24) (packed [(0x80000 - n, 0), (n, 64), (how, 96), (addr, 128)]))
    let take (n how : Nat) := mine (le 24 (packed [(0x80000 - n, 0), (n, 64), (how, 96)]))
    let pin (v : Nat) := mine (le 20 (packed [(0x40000, 0), (0x40000, 64), (v, 128)]))
    Goes (exec (.alloc (get 0)) ready) ∧ Goes (exec (.alloc (get 1)) ready) ∧ Goes (exec (.alloc stash) ready) ∧
    Goes (exec (.free (mine (le 8 0x40000))) plain) ∧ Goes (exec (.free (mine (le 8 0x40000))) dense) ∧
    Goes (exec (.write (put 4 0 0)) dense) ∧ Goes (exec (.write (put 4 0 0)) plain) ∧ Goes (exec (.write (put 4 0 0)) held) ∧
    Goes (exec (.write (put 4096 1 (hostTop - 4096))) plain) ∧ Goes (exec (.write (put 4096 2 8)) plain) ∧
    Goes (exec (.read (take 2048 0)) plain) ∧ Goes (exec (.read (take 4 0)) held) ∧ Goes (exec (.read (take 4 2)) plain) ∧
    Goes (exec (.read (take 4 0)) ready) ∧ Goes (exec (.migrate (pin 1)) plain) ∧ Goes (exec (.pin (pin 1)) plain) ∧
    Goes (exec (.unpin (pin 0)) plain) := by
  intro plain dense held get stash put take pin
  obtain ⟨_, _, a1⟩ := foundLeft ((h ready (get 0)).1 (by decide +kernel) (by decide +kernel) (by decide +kernel) 0x40000
    (by decide +kernel)).1 (by decide +kernel)
  obtain ⟨_, _, a2⟩ := foundRight ((h ready (get 1)).1 (by decide +kernel) (by decide +kernel) (by decide +kernel) 0x40000
    (by decide +kernel)).2 (by decide +kernel)
  have a3 : ∃ _ _, _ := foundPair (fun ps rot => (h ready stash).2.1 (by decide +kernel) (by decide +kernel) (by decide +kernel)
    0x40000 ps rot (by decide +kernel) (by decide +kernel)) (by decide +kernel)
  obtain ⟨_, _, a3⟩ := a3
  have free := fun s => (h s (mine (le 8 0x40000))).2.2.1
  have write := fun s p => (h s p).2.2.2.1
  have long := fun p => (h plain p).2.2.2.2.1
  have read := fun s p => (h s p).2.2.2.2.2.1
  obtain ⟨_, _, _, _, _, _, fault, _⟩ := h ready (take 4 0)
  obtain ⟨_, _, _, _, _, _, _, move, on⟩ := h plain (pin 1)
  obtain ⟨_, _, _, _, _, _, _, _, off⟩ := h plain (pin 0)
  refine ⟨⟨_, a1⟩, ⟨_, a2⟩, ⟨_, a3⟩, ⟨_, (free plain (box 0) ?_ ?_ ?_).1 ?_ ?_⟩, ⟨_, (free dense (box 1) ?_ ?_ ?_).2 ?_⟩,
    ⟨_, (write dense (put 4 0 0) (box 1) ?_ ?_ ?_ ?_ ?_).1 ?_ ?_⟩, ⟨_, (write plain (put 4 0 0) (box 0) ?_ ?_ ?_ ?_ ?_).2.1 ?_ (box 0) ?_ ?_⟩,
    ⟨_, (write held (put 4 0 0) stuck ?_ ?_ ?_ ?_ ?_).2.2 ?_ stuck ?_ ?_⟩,
    ⟨_, long (put 4096 1 (hostTop - 4096)) (box 0) (box 0) ?_ ?_ ?_ ?_ ?_ ?_⟩, ⟨_, long (put 4096 2 8) (box 0) (box 0) ?_ ?_ ?_ ?_ ?_ ?_⟩,
    ⟨_, (read plain (take 2048 0) (box 0) (box 0) ?_ ?_ ?_ ?_).1 ?_ ?_ ?_⟩,
    ⟨_, (read held (take 4 0) stuck stuck ?_ ?_ ?_ ?_).2.1 ?_ ?_ ?_⟩, ⟨_, (read plain (take 4 2) (box 0) (box 0) ?_ ?_ ?_ ?_).2.2 ?_⟩,
    ⟨_, fault 0 ?_ ?_ ?_ ?_ ?_⟩, ⟨_, move (box 0) ?_ ?_ ?_ ?_ ?_ ?_ ?_ ?_ ?_⟩, ⟨_, (on (box 0) ?_ ?_).1 ?_⟩, ⟨_, (off (box 0) ?_ ?_).2 ?_⟩⟩ <;>
  decide +kernel

/-- A command on the mover. -/
def mover (op : Byte) (n how : Nat) : Started :=
  { (default : Started) with op := op, cmd := mine (le 24 (packed [(0x80000 - n, 0), (n, 64), (how, 96)])), replySlots := 1 }

/-- `ready` with objects and that command, a WRITE or READ of n bytes, under way. -/
def moving (xs : List Obj) (op : Byte) (n how : Nat) (flushing : Bool) : State :=
  let s := withInst fun x => { x with objs := xs }
  { s with chip := { s.chip with started := [mover op n how], moves := [{ cmd := (mover op n how).ref, flushing := flushing }] } }

theorem met_MoverRowsComplete (h : Obligations.MoverRowsComplete) :
    let freed (op : Byte) : State :=
      { moving [] op 4 1 false with chip := (moving [] op 4 1 false).chip.onInst 0 fun x =>
        { x with freed := [{ obj := box 0, users := [(⟨0, 1, 0⟩, [1,2,3,4])] }] } }
    Goes (exec (.dataMoveComplete 0 1 []) (freed 0x32)) ∧ Goes (exec (.dataMoveComplete 0 1 []) (freed 0x33)) ∧
    Goes (exec (.dataMoveComplete 0 1 []) (moving [] 0x33 4 1 false)) ∧
    Goes (exec (.dataMoveComplete 0 1 []) (moving [box 0] 0x32 4 1 false)) ∧
    Goes (exec (.dataMoveComplete 0 1 [1,2,3,4]) (moving [box 0] 0x32 4 2 false)) ∧
    Goes (exec (.dataMoveComplete 0 1 []) (moving [box 0] 0x33 4 1 false)) ∧
    Goes (exec (.dataMoveComplete 0 1 []) (moving [box 0] 0x33 4 2 false)) ∧
    Goes (exec (.flushingReadComplete 0 1) (moving [box 0] 0x33 4 2 true)) ∧
    Goes (exec (.pcieRequestFailure 0 1) (moving [box 0] 0x33 4 2 true)) := by
  intro freed
  let m : Move := { cmd := ⟨0, 1, 0⟩, flushing := false }
  have gone := fun op (ok : (freed op).Live) (hm : (freed op).chip.moved m.cmd = some (mover op 4 1)) =>
    (h (freed op) 0 1 [] m (mover op 4 1) ok hm).1
  have here := fun op how data (ok : (moving [box 0] op 4 how false).Live)
    (hm : (moving [box 0] op 4 how false).chip.moved m.cmd = some (mover op 4 how)) =>
    (h (moving [box 0] op 4 how false) 0 1 data m (mover op 4 how) ok hm).1
  obtain ⟨none', _⟩ := h (moving [] 0x33 4 1 false) 0 1 [] m (mover 0x33 4 1) (by decide +kernel) (by decide +kernel)
  obtain ⟨_, flush, fail⟩ := h (moving [box 0] 0x33 4 2 true) 0 1 [] { m with flushing := true } (mover 0x33 4 2)
    (by decide +kernel) (by decide +kernel)
  refine ⟨⟨_, ((gone 0x32 ?_ ?_ ?_ ?_ ?_).1 [1,2,3,4] ?_).1 ?_⟩, ⟨_, ((gone 0x33 ?_ ?_ ?_ ?_ ?_).1 [1,2,3,4] ?_).2 ?_⟩,
    ⟨_, ((none' ?_ ?_ ?_).2 ?_).1 0 ?_ ?_⟩,
    ⟨_, ((((here 0x32 1 [] ?_ ?_ ?_ ?_ ?_).2 ?_).2 (box 0) ?_).1 ?_ ?_ ?_).1 ?_⟩,
    ⟨_, ((((here 0x32 2 [1,2,3,4] ?_ ?_ ?_ ?_ ?_).2 ?_).2 (box 0) ?_).1 ?_ ?_ ?_).2 ?_ ?_⟩,
    ⟨_, ((((here 0x33 1 [] ?_ ?_ ?_ ?_ ?_).2 ?_).2 (box 0) ?_).2 ?_ ?_).1 ?_⟩,
    ⟨_, ((((here 0x33 2 [] ?_ ?_ ?_ ?_ ?_).2 ?_).2 (box 0) ?_).2 ?_ ?_).2 ?_⟩,
    ⟨_, flush ?_ ?_⟩, ⟨_, fail ?_ ?_ ?_⟩⟩ <;> decide +kernel

/-- A state with group 3 of this device alone, a module quota of 1 TB, and a job. -/
def grouped (j : Job) : State :=
  let s := withInst fun x => { x with quotaMod := 10 ^ 12, job := j }
  { s with chip := s.chip.setGroup 3 { Group.initial with owner := some 0, members := [0] } }

/-- The parameters of a table of one row of 8 elements in group 3, MODIFY as given. -/
def tableParams (modify lr : Nat) : List Byte :=
  le 64 (packed [(modify, 18), (1, 80), (3, 96), (8, 192), (1, 224), (1, 256), (lr, 480)])

/-- The table that `tableParams 0` makes, and its share. -/
def shared : Table := { (default : Table) with block := BitVec.ofNat 512 (leNat (tableParams 0 0)) }
def share : Obj := { box 0 with addr := windowBase, table := some 0 }

/-- `grouped` with that table. -/
def tabled (j : Job) : State :=
  let s := grouped j
  { s with chip := s.chip.onInst 0 fun x => { x with tables := [shared], objs := [share] } }

theorem met_TableCommandsComplete (h : Obligations.TableCommandsComplete) :
    let make := mine (tableParams 0 0)
    let big := mine (le 64 (packed [(1, 16), (1, 80), (3, 96), (4096, 192), (1, 224), (2 ^ 30, 256)]))
    let poor : State := { grouped Job.initial with chip := (grouped Job.initial).chip.onInst 0 fun x => { x with quotaMod := 0 } }
    let change := mine (tableParams 1 0x3F800000)
    let load (kind n addr : Nat) := mine (le 40 (packed [(1 - n, 64), (n, 128), (kind, 192), (addr, 256)]))
    let hot (e n : Nat) := mine (le 24 (packed [(3, 0), (e, 16), (0x80000, 64), (n, 128)]))
    let list (q : Nat) : State :=
      let c := (tabled busy).chip.onInst 0 fun x => { x with quotaMod := q, objs := x.objs ++ [{ box 0 with addr := 0x80000 }] }
      { tabled busy with chip := c.copyWrite 0 0 0x80000 (le 8 0) }
    Goes (exec (.tableCreate big) (grouped Job.initial)) ∧ Goes (exec (.tableCreate make) (grouped Job.initial)) ∧
    Goes (exec (.tableCreate make) poor) ∧ Goes (exec (.tableModify change) (tabled busy)) ∧
    Goes (exec (.tableDestroy (mine (le 4 0))) (tabled busy)) ∧ Goes (exec (.tableDestroy (mine (le 4 0))) (tabled Job.initial)) ∧
    Goes (exec (.tableLoad (load 1 1 0)) (tabled Job.initial)) ∧ Goes (exec (.tableLoad (load 0 1 (hostTop - 32))) (tabled Job.initial)) ∧
    Goes (exec (.hotSet (hot 5 0)) (tabled busy)) ∧ Goes (exec (.hotSet (hot 6 0)) (tabled { busy with close := .pending })) ∧
    Goes (exec (.hotSet (hot 6 1)) (list (10 ^ 12))) ∧ Goes (exec (.hotSet (hot 6 1)) (list 0)) := by
  intro make big poor change load hot list
  have made := fun s p (ok : s.Takes 0x40 p ∧ p.bits 18 18 = 0) => (h s p).1 ok.1 ok.2
  obtain ⟨c1, _⟩ := made (grouped Job.initial) big (by decide +kernel) (by decide +kernel) (by decide +kernel)
    (by decide +kernel) (by decide +kernel)
  obtain ⟨_, c2, _⟩ := made poor make (by decide +kernel) (by decide +kernel) (by decide +kernel)
    (by decide +kernel) (by decide +kernel)
  obtain ⟨_, _, c3⟩ := made (grouped Job.initial) make (by decide +kernel) (by decide +kernel) (by decide +kernel) (by decide +kernel)
    (by decide +kernel)
  obtain ⟨_, _, _, c3⟩ := foundRoom c3 (by decide +kernel)
  obtain ⟨_, _, _, c2⟩ := foundFull c2 (by decide +kernel)
  have load' := fun p => (h (tabled Job.initial) p).2.2.2.1 shared
  have hot' := fun s p => (h s p).2.2.2.2
  obtain ⟨_, full⟩ := found ((hot' (list 0) (hot 6 1) (by decide +kernel) (by decide +kernel) (by decide +kernel)
    (by decide +kernel) (by decide +kernel) (by decide +kernel)).2 { box 0 with addr := 0x80000 } [(0, 0)] (by decide +kernel)
    (by decide +kernel) (by decide +kernel) (by decide +kernel) (fun r hr => ⟨shared, by
      rw [List.mem_singleton.1 hr]; decide +kernel⟩) (by decide +kernel)).2 (by decide +kernel)
  refine ⟨⟨_, c1 ?_⟩, ⟨_, c3⟩, ⟨_, c2⟩, ⟨_, (h (tabled busy) change).2.1 shared ?_ ?_ ?_ ?_⟩,
    ⟨_, ((h (tabled busy) (mine (le 4 0))).2.2.1 shared share ?_ ?_ ?_).1 ?_⟩,
    ⟨_, ((h (tabled Job.initial) (mine (le 4 0))).2.2.1 shared share ?_ ?_ ?_).2 ?_⟩,
    ⟨_, load' (load 1 1 0) ?_ ?_ ?_ ?_ ?_ ?_ (.inl ?_)⟩, ⟨_, load' (load 0 1 (hostTop - 32)) ?_ ?_ ?_ ?_ ?_ ?_ (.inr (.inl ?_))⟩,
    ⟨_, (hot' (tabled busy) (hot 5 0) ?_ ?_ ?_ ?_ ?_ ?_).1 ?_⟩,
    ⟨_, (hot' (tabled { busy with close := .pending }) (hot 6 0) ?_ ?_ ?_ ?_ ?_ ?_).1 ?_⟩,
    ⟨_, ((hot' (list (10 ^ 12)) (hot 6 1) ?_ ?_ ?_ ?_ ?_ ?_).2 { box 0 with addr := 0x80000 } [(0, 0)] ?_ ?_ ?_ ?_
      (fun r hr => ⟨shared, ?_⟩) ?_).1 ?_⟩, ⟨_, full⟩⟩ <;>
  first | decide +kernel | (rw [List.mem_singleton.1 hr]; decide +kernel)

theorem met_JobCommandsComplete (h : Obligations.JobCommandsComplete) :
    let on (j : Job) := grouped j
    let idle := on Job.initial
    let busyTile := withInst fun x => { x with job := busy, launches := [default] }
    let start := mine (le 20 (packed [(1, 0), (0xFFFFFFFFFFFE, 64), (3, 128), (24, 144)]))
    let step (e : Nat) := mine (le 8 e)
    let shut := on { busy with close := .closed }
    let due := on { busy with close := .pending }
    let vote := on { busy with phase := .vote }
    let ending := on { busy with phase := .flip, ending := some ⟨0, 7, 0⟩ }
    let early := on { busy with publish := some (9, ⟨0, 7, 0⟩) }
    Goes (exec (.jobStart start) idle) ∧ Goes (exec (.jobEnd (mine [])) idle) ∧ Goes (exec (.jobEnd (mine [])) busyTile) ∧
    Goes (exec (.jobEnd (mine [])) (on busy)) ∧ Goes (exec (.jobEnd (mine [])) vote) ∧ Goes (exec (.jobEnd (mine [])) ending) ∧
    Goes (exec (.stepClose (step 4)) idle) ∧ Goes (exec (.stepClose (step 5)) (on busy)) ∧ Goes (exec (.stepClose (step 4)) shut) ∧
    Goes (exec (.stepClose (step 4)) (on busy)) ∧ Goes (exec (.stepClose (step 4)) due) ∧
    Goes (exec (.stepCloseEffect 0) due) ∧ Goes (exec (.publish (step 4)) (on busy)) ∧ Goes (exec (.publish (step 5)) shut) ∧
    Goes (exec (.publish (step 5)) (on busy)) ∧ Goes (exec (.publish (step 5)) due) ∧
    Goes (exec (.publish (step 0xFFFFFFFFFFFF)) early) ∧ Goes (exec (.releaseSnapshot (mine [])) (on busy)) := by
  intro on idle busyTile start step shut due vote ending early
  have ends := fun s => (h s (mine [])).2.1
  have close := fun s e => (h s (step e)).2.2.1
  have publish := fun s e => (h s (step e)).2.2.2.2.1
  refine ⟨⟨_, (h idle start).1 ?_ ?_ ?_ ?_ ?_ ?_ ?_ ?_ ?_ ?_⟩, ⟨_, (ends idle ?_).1 ?_⟩, ⟨_, (ends busyTile ?_).2.1 ?_ ?_⟩,
    ⟨_, (ends (on busy) ?_).2.2.1 ?_ ?_ ?_⟩, ⟨_, ((ends vote ?_).2.2.2 ?_).1 ?_⟩, ⟨_, ((ends ending ?_).2.2.2 ?_).2 ?_⟩,
    ⟨_, (close idle 4 ?_).1 ?_⟩, ⟨_, (close (on busy) 5 ?_).2.1 ?_ ?_⟩, ⟨_, (close shut 4 ?_).2.2.1 ?_ ?_ ?_⟩,
    ⟨_, (close (on busy) 4 ?_).2.2.2.1 ?_ ?_ ?_ ?_⟩, ⟨_, (close due 4 ?_).2.2.2.2 ?_ ?_ ?_⟩,
    ⟨_, (h due (mine [])).2.2.2.1 0 ?_ ?_ ?_ ?_⟩, ⟨_, (publish (on busy) 4 ?_).1 ?_⟩, ⟨_, (publish shut 5 ?_).1 ?_⟩,
    ⟨_, ((publish (on busy) 5 ?_).2 ?_ ?_ ?_).1 ?_⟩, ⟨_, ((publish due 5 ?_).2 ?_ ?_ ?_).1 ?_⟩,
    ⟨_, ((publish early 0xFFFFFFFFFFFF ?_).2 ?_ ?_ ?_).2 9 ⟨0, 7, 0⟩ ?_⟩, ⟨_, (h (on busy) (mine [])).2.2.2.2.2 ?_⟩⟩ <;>
  decide +kernel

theorem met_HostSignalsComplete (h : Obligations.HostSignalsComplete) :
    let sig (op tile sem count addr n : Nat) :=
      mine (le (32 + n) (packed [(op, 0), (tile, 16), (sem, 40), (count, 64), (addr, 96), (n, 128)]))
    let full := withInst fun x => { x with hubSems := [(63, 0xFFFFFFFF)] }
    let held := withInst fun x => { x with waits := [⟨63, 1, ⟨0, 0, 0⟩⟩], hubSems := [(63, 9)] }
    Goes (exec (.hostSignalTile (sig 0 0 63 65535 0 0)) ready) ∧
    Goes (exec (.hostSignalTile (sig 0 0 63 (2 ^ 32 - 65535) 1048512 64)) ready) ∧
    Goes (exec (.hostSignalHub (sig 1 0 63 (2 ^ 32 - 1) 0 0)) ready) ∧ Goes (exec (.hostSignalHub (sig 1 0 63 1 0 0)) full) ∧
    Goes (exec (.hostSignalHub (sig 1 0 63 (2 ^ 31 - 1) 0 0)) ready) ∧ Goes (exec (.hostSignalWait (sig 2 0 63 1 0 0)) full) ∧
    Goes (exec (.hostSignalWait (sig 2 0 63 1 0 0)) ready) ∧ Goes (exec (.hostSignalWait (sig 2 0 63 9 0 0)) held) ∧
    Goes (exec (.hostSignalRead (sig 3 0 63 0 0 0)) full) := by
  intro sig full held
  have at' := fun s p (ok : s.Takes 0x56 p) => h s p ok
  refine ⟨⟨_, (at' ready (sig 0 0 63 65535 0 0) ?_).1 ?_ ?_ ?_ ?_ ?_ ?_ ?_ ?_ ?_ ?_⟩,
    ⟨_, (at' ready (sig 0 0 63 (2 ^ 32 - 65535) 1048512 64) ?_).1 ?_ ?_ ?_ ?_ ?_ ?_ ?_ ?_ ?_ ?_⟩,
    ⟨_, ((at' ready (sig 1 0 63 (2 ^ 32 - 1) 0 0) ?_).2.1 ?_ ?_ ?_).1 ?_⟩,
    ⟨_, ((at' full (sig 1 0 63 1 0 0) ?_).2.1 ?_ ?_ ?_).2.1 ?_⟩,
    ⟨_, ((at' ready (sig 1 0 63 (2 ^ 31 - 1) 0 0) ?_).2.1 ?_ ?_ ?_).2.2 ?_ ?_ ?_⟩,
    ⟨_, ((at' full (sig 2 0 63 1 0 0) ?_).2.2.1 ?_ ?_ ?_ ?_).1 ?_ ?_⟩,
    ⟨_, ((at' ready (sig 2 0 63 1 0 0) ?_).2.2.1 ?_ ?_ ?_ ?_).2 (.inl ?_)⟩,
    ⟨_, ((at' held (sig 2 0 63 9 0 0) ?_).2.2.1 ?_ ?_ ?_ ?_).2 (.inr ⟨⟨63, 1, ⟨0, 0, 0⟩⟩, ?_, ?_⟩)⟩,
    ⟨_, (at' full (sig 3 0 63 0 0 0) ?_).2.2.2 ?_ ?_⟩⟩ <;> decide +kernel

/-- A dense object at 40000h and two plain ones at 80000h and C0000h for its Bruin block. -/
def bruinObjs : List Obj := [box 1, { box 0 with addr := 0x80000 }, { box 0 with addr := 0xC0000 }]

/-- A kind 1 block of one shard, rule 00b, R = K = 1, GROUP none. -/
def bruinParams (kind lim : Nat) : List Byte :=
  le 128 (packed [(kind, 0), (1, 330), (1, 368), (1, 384), (1, 416), (0x40000, 448), (0x80000, 512), (0xC0000, 576), (lim, 800)])

/-- The object that block registers. -/
def bruinObj : BObj := { (default : BObj) with addr := 0x40000, block := BitVec.ofNat 1024 (leNat (bruinParams 1 1)) }

theorem met_BruinCommandsComplete (h : Obligations.BruinCommandsComplete) :
    let new := withInst fun x => { x with objs := bruinObjs }
    let had := withInst fun x => { x with objs := bruinObjs, bobjs := [bruinObj] }
    let work := withInst fun x => { x with objs := bruinObjs, bobjs := [bruinObj], job := busy }
    Goes (exec (.bruinSetJob (mine (le 8 0))) work) ∧ Goes (exec (.bruinSetRegister (mine (bruinParams 1 1))) work) ∧
    Goes (exec (.bruinSetRegister (mine (bruinParams 1 1))) had) ∧ Goes (exec (.bruinSetRegister (mine (bruinParams 1 1))) new) ∧
    Goes (exec (.bruinSetChange (mine (bruinParams 2 0x7F7FFFFF))) work) ∧
    Goes (exec (.bruinSetRemove (mine (le 16 (3 + 2 ^ 64 * 0x40000)))) had) ∧
    Goes (exec (.bruinSetStatus (mine (le 16 (4 + 2 ^ 64 * 0x40000)))) work) := by
  intro new had work
  have at' := fun s p (ok : s.Takes 0x58 p) => h s p ok
  refine ⟨⟨_, (at' work (mine (le 8 0)) ?_).1 ?_⟩, ⟨_, ((at' work (mine (bruinParams 1 1)) ?_).2.1 ?_ ?_).1 ?_⟩,
    ⟨_, ((at' had (mine (bruinParams 1 1)) ?_).2.1 ?_ ?_).1 ?_⟩, ⟨_, ((at' new (mine (bruinParams 1 1)) ?_).2.1 ?_ ?_).2 ?_ ?_ ?_ ?_ ?_⟩,
    ⟨_, (at' work (mine (bruinParams 2 0x7F7FFFFF)) ?_).2.2.1 bruinObj ?_ ?_ ?_ ?_ ?_ ?_⟩,
    ⟨_, (at' had (mine (le 16 (3 + 2 ^ 64 * 0x40000))) ?_).2.2.2.1 bruinObj ?_ ?_ ?_ ?_⟩,
    ⟨_, (at' work (mine (le 16 (4 + 2 ^ 64 * 0x40000))) ?_).2.2.2.2 bruinObj ?_ ?_⟩⟩ <;> decide +kernel

/-- `ready` with a unit in a state. -/
def unitIn (u : UnitId) (st : UnitSt) : State := with' fun c => c.setUnit u { UnitCtl.initial with st := st }

theorem met_GroupAndUnitCommandsComplete (h : Obligations.GroupAndUnitCommandsComplete) :
    let make := mine (le 32 (packed [(1023, 0), (1, 128), (0x7FFFE, 192)]))
    let plain := boxed 0 Job.initial
    let taken : State := { plain with chip := plain.chip.setGroup 1023 { Group.initial with owner := some 1 } }
    let unit (cls k : Nat) := oper 255 (le 4 (cls + 2 ^ 16 * k))
    let far := withInst fun x => { x with objs := [{ box 0 with extents := [Extent.new false ⟨2, 3⟩] }] }
    Goes (exec (.groupSet make) taken) ∧ Goes (exec (.groupSet make) plain) ∧ Goes (exec (.groupClear (mine (le 4 3))) ready) ∧
    Goes (exec (.groupClear (mine (le 4 3))) (grouped Job.initial)) ∧
    Goes (exec (.unitDisable (unit 0 31)) ready) ∧ Goes (exec (.unitDisable (unit 2 3)) (unitIn ⟨2, 3⟩ .shuttingDown)) ∧
    Goes (exec (.unitDisable (unit 0 31)) (unitIn ⟨0, 31⟩ .shutdownEnablePending)) ∧
    Goes (exec (.unitDisable (unit 0 31)) (unitIn ⟨0, 31⟩ .enabling)) ∧ Goes (exec (.unitEnable (unit 1 1)) ready) ∧
    Goes (exec (.unitEnable (unit 0 31)) (unitIn ⟨0, 31⟩ .disabled)) ∧
    Goes (exec (.unitEnable (unit 0 31)) (unitIn ⟨0, 31⟩ .shuttingDown)) ∧ Goes (exec (.unitRetire (unit 5 95)) ready) ∧
    Goes (exec (.unitShutdownComplete ⟨1, 1⟩) (unitIn ⟨1, 1⟩ .shuttingDown)) ∧ Goes (exec (.unitShutdownComplete ⟨2, 3⟩) far) ∧
    Goes (exec (.unitEnablingComplete ⟨1, 1⟩ ⟨0, 0, 0⟩) (unitIn ⟨1, 1⟩ .enabling)) := by
  intro make plain taken unit far
  have set := fun s => (h s make).1 (box 0)
  have clear := fun s => (h s (mine (le 4 3))).2.1
  have dis := fun s p => (h s p).2.2.1
  have en := fun s p => (h s p).2.2.2.1
  obtain ⟨_, _, _, _, retire, _⟩ := h ready (unit 5 95)
  obtain ⟨_, _, _, _, _, shut, _⟩ := h (unitIn ⟨1, 1⟩ .shuttingDown) make
  obtain ⟨_, _, _, _, _, _, stay, _⟩ := h far make
  obtain ⟨_, _, _, _, _, _, _, enabled⟩ := h (unitIn ⟨1, 1⟩ .enabling) make
  refine ⟨⟨_, (set taken ?_ ?_ ?_ ?_ ?_ ?_ ?_).1 1 ?_ ?_⟩, ⟨_, (set plain ?_ ?_ ?_ ?_ ?_ ?_ ?_).2 ?_ ?_⟩, ⟨_, (clear ready ?_).1 ?_⟩,
    ⟨_, (clear (grouped Job.initial) ?_).2 ?_ ?_⟩, ⟨_, (dis ready (unit 0 31) ?_ ?_ ?_ ?_).1 ?_⟩,
    ⟨_, (dis (unitIn ⟨2, 3⟩ .shuttingDown) (unit 2 3) ?_ ?_ ?_ ?_).2.1 ?_⟩,
    ⟨_, (dis (unitIn ⟨0, 31⟩ .shutdownEnablePending) (unit 0 31) ?_ ?_ ?_ ?_).2.2.1 ?_⟩,
    ⟨_, (dis (unitIn ⟨0, 31⟩ .enabling) (unit 0 31) ?_ ?_ ?_ ?_).2.2.2 ?_⟩, ⟨_, (en ready (unit 1 1) ?_ ?_ ?_ ?_).1 ?_⟩,
    ⟨_, (en (unitIn ⟨0, 31⟩ .disabled) (unit 0 31) ?_ ?_ ?_ ?_).2.1 ?_⟩,
    ⟨_, (en (unitIn ⟨0, 31⟩ .shuttingDown) (unit 0 31) ?_ ?_ ?_ ?_).2.2 ?_⟩, ⟨_, retire ?_ ?_ ?_⟩, ⟨_, shut 1 ?_ ?_⟩, ⟨_, stay 3 ?_ ?_ ?_⟩,
    ⟨_, enabled 1 ⟨0, 0, 0⟩ ?_ ?_ ?_ ?_⟩⟩ <;> decide +kernel

theorem met_DebugAndStoreCommandsComplete (h : Obligations.DebugAndStoreCommandsComplete) :
    let open' := with' fun c => { c with side := { c.side with debugOpen := true } }
    let edit := with' fun c => { c with store := c.store.openEdit }
    let op := oper 255
    let put (a : Nat) := op (le 12 (packed [(a, 0), (4, 32)]))
    Goes (exec (.debugOpen (op (le 4 1))) open') ∧ Goes (exec (.debugOpen (op (le 4 1))) ready) ∧
    Goes (exec (.debugClose (op [])) open') ∧ Goes (exec (.configRead (op (le 8 (4097 * 2 ^ 32)))) ready) ∧
    Goes (exec (.configRead (op (le 8 (0x3FFFFFC + 4 * 2 ^ 32)))) ready) ∧ Goes (exec (.configWrite (put 63)) ready) ∧
    Goes (exec (.configWrite (put 0x800000)) ready) ∧ Goes (exec (.configWrite (put 64)) ready) ∧
    Goes (exec (.configWrite (put 0x7FFFFC)) ready) ∧ Goes (exec (.configCommit (op [])) ready) ∧
    Goes (exec (.configCommit (op [])) edit) := by
  intro open' edit op put
  let e : Edit := (ready.chip.store.openEdit.edit).getD default
  have read := fun p => (h ready p).2.2.1
  have write := fun a => (h ready (put a)).2.2.2.1
  have commit := fun s => (h s (op [])).2.2.2.2
  refine ⟨⟨_, ((h open' (op (le 4 1))).1 ?_).1 ?_⟩, ⟨_, ((h ready (op (le 4 1))).1 ?_).2 ?_⟩, ⟨_, (h open' (op [])).2.1 ?_ ?_⟩,
    ⟨_, (read (op (le 8 (4097 * 2 ^ 32))) ?_).1 ?_⟩, ⟨_, (read (op (le 8 (0x3FFFFFC + 4 * 2 ^ 32))) ?_).2 ?_ ?_ ?_⟩,
    ⟨_, (write 63 ?_ ?_ ?_).1 ?_⟩, ⟨_, (write 0x800000 ?_ ?_ ?_).1 ?_⟩, ⟨_, (write 64 ?_ ?_ ?_).2 e ?_ ?_ ?_ rfl⟩,
    ⟨_, (write 0x7FFFFC ?_ ?_ ?_).2 e ?_ ?_ ?_ rfl⟩, ⟨_, (commit ready ?_).1 ?_⟩, ⟨_, (commit edit ?_).2 e rfl⟩⟩ <;> decide +kernel

/-- `ready` with tile 0 changed. -/
def tiled (k : Tile) : State := with' fun c => c.setTile 0 k

/-- A tile that runs the LAUNCH with tag 1 on queue 0. -/
def runs : Tile := { Tile.initial with run := .running, launch := some ⟨0, 1, 0⟩ }

theorem met_LaunchRowsComplete (h : Obligations.LaunchRowsComplete) :
    let go (x : Nat) := mine (le 40 (packed [(0x40000, 0), (64, 64), (1048512, 96), (1048512, 128), (x, 160), (1, 176), (1, 184)]))
    let plain := boxed 0 busy
    let held := withInst fun x => { x with objs := [stuck], job := busy }
    let begun (v : Bool) := withInst fun x => { x with launches := [{ (default : Launch) with cmd := ⟨0, 1, 0⟩, started := v }] }
    let hold : Hold := { (default : Hold) with satisfied := false }
    let fed := with' fun c => c.setEngine 23 { Engine.initial with queue := [default] }
    let empty := with' fun c => { c with insts := [] }
    Goes (exec (.launch (go 41)) plain) ∧ Goes (exec (.launch (go 0)) plain) ∧ Goes (exec (.launch (go 0)) held) ∧
    Goes (exec (.launchStart 0 1 0) (begun true)) ∧ Goes (exec (.launchStart 0 1 0) (begun false)) ∧
    Goes (exec (.programEnd 0) (tiled { runs with run := .stopping })) ∧ Goes (exec (.programEnd 0) (tiled { runs with ended := true })) ∧
    Goes (exec (.programEnd 0) (tiled { runs with ended := true, sems := [(63, 1)] })) ∧
    Goes (exec (.programEnd 0) (tiled runs)) ∧ Goes (exec (.programEnd 0) (tiled { runs with unacked := 1 })) ∧
    Goes (exec (.programEnd 0) (tiled { runs with units := [(0, [default])] })) ∧
    Goes (exec (.tileClockGate 1599) ready) ∧ Goes (exec (.tileClockGate 0) (tiled { runs with hold := some hold })) ∧
    Goes (exec (.tileClockGate 0) (tiled { runs with ended := true })) ∧ Goes (exec (.engineClockGate 23) ready) ∧
    Goes (exec (.engineClockGate 23) fed) ∧ Goes (exec (.engineClockGate 28) ready) ∧
    Goes (exec (.engineClockGate 28) (with' fun c => { c with gatedHub := [4] })) ∧ Goes (exec .randomGeneratorAdvance empty) := by
  intro go plain held begun hold fed empty
  obtain ⟨_, bad⟩ := found ((h plain).1 (go 41) · (by decide +kernel)) (by decide +kernel)
  have start := fun s => (h s).2.2.1 0 1 0
  have ends := fun k => (h (tiled k)).2.2.2.1 0 0 ⟨0, 1, 0⟩
  have gate := fun s => (h s).2.2.2.2.1
  have engine := fun s => (h s).2.2.2.2.2.1 23
  have hub := fun s => (h s).2.2.2.2.2.2.1 4
  refine ⟨⟨_, bad⟩, ⟨_, ((h plain).2.1 (go 0) (box 0) ?_ ?_ ?_).2 ?_⟩, ⟨_, ((h held).2.1 (go 0) stuck ?_ ?_ ?_).1 ?_⟩,
    ⟨_, (start (begun true) ?_).1 ?_⟩, ⟨_, (start (begun false) ?_).2 { (default : Launch) with cmd := ⟨0, 1, 0⟩, started := false } ?_⟩,
    ⟨_, (ends { runs with run := .stopping } ?_ ?_ ?_).1 ?_ ?_ ?_ |>.1 ?_⟩,
    ⟨_, (ends { runs with ended := true } ?_ ?_ ?_).1 ?_ ?_ ?_ |>.1 ?_⟩,
    ⟨_, (ends { runs with ended := true, sems := [(63, 1)] } ?_ ?_ ?_).1 ?_ ?_ ?_ |>.2 ?_ ?_ ?_⟩,
    ⟨_, (ends runs ?_ ?_ ?_).2 ?_⟩, ⟨_, (ends { runs with unacked := 1 } ?_ ?_ ?_).2 ?_⟩,
    ⟨_, (ends { runs with units := [(0, [default])] } ?_ ?_ ?_).2 ?_⟩, ⟨_, (gate ready 1599 ?_ ?_).1 ?_ (.inl ?_)⟩,
    ⟨_, (gate (tiled { runs with hold := some hold }) 0 ?_ ?_).1 ?_ (.inr ⟨hold, ?_, rfl⟩)⟩,
    ⟨_, (gate (tiled { runs with ended := true }) 0 ?_ ?_).2 (.inr (.inl ?_))⟩, ⟨_, (engine ready ?_ ?_).1 ?_⟩,
    ⟨_, (engine fed ?_ ?_).2 ?_⟩, ⟨_, (hub ready ?_ ?_).1 ?_ ?_⟩, ⟨_, (hub (with' fun c => { c with gatedHub := [4] }) ?_ ?_).2 ?_⟩,
    ⟨_, ((h empty).2.2.2.2.2.2.2 ?_).1⟩⟩ <;> decide +kernel

theorem met_SequencerEventsComplete (h : Obligations.SequencerEventsComplete) :
    let sent (f : Sender) (k : Tile) :=
      ({ tiled k with chip := { (tiled k).chip with sigs := [⟨0, 63, 65536, f⟩] } } : State)
    let acked (cause : Nat) := ({ tiled runs with chip := { (tiled runs).chip with acks := [⟨0, 1599, 0, cause⟩] } } : State)
    let held (ok hd : Bool) : Hold := { (default : Hold) with satisfied := ok, header := hd }
    let waits (ok hd : Bool) := tiled { runs with hold := some (held ok hd) }
    let done : Issued := { (default : Issued) with ran := true }
    let due : Due := { rank := 5, sem := 0, count := 1, sender := .host ⟨0, 1, 0⟩ }
    Goes (exec (.semaphoreSignalReceived 0 1599) ready) ∧
    Goes (exec (.semaphoreSignalReceived 0 1599) (sent (.tile 1599 64) { runs with due := [due] })) ∧
    Goes (exec (.semaphoreSignalReceived 0 1599) (sent (.tile 1599 64) Tile.initial)) ∧
    Goes (exec (.semaphoreSignalReceived 0 1600) (sent (.host ⟨0, 1, 0⟩) Tile.initial)) ∧
    Goes (exec (.semaphoreSignalReceived 0 1599) (sent (.tile 1599 64) runs)) ∧ Goes (exec (.signalAckReceived 0 1599) ready) ∧
    Goes (exec (.signalAckReceived 0 1599) (acked 0)) ∧ Goes (exec (.signalAckReceived 0 1599) (acked 9)) ∧
    Goes (exec (.waitRelease 0) (waits false false)) ∧ Goes (exec (.waitRelease 0) (waits true false)) ∧
    Goes (exec (.waitRelease 0) (waits true true)) ∧ Goes (exec (.descriptorComplete 0 3) (tiled { runs with units := [(3, [done])] })) := by
  intro sent acked held waits done due
  have sig := fun s n (ok : s.Live) => (h s 0 ok).1 n
  have one := fun f k (ok : (sent f k).Live) => (h (sent f k) 0 ok).1 f.origin
  have back := fun s (ok : s.Live) => (h s 0 ok).2.1 1599
  have wait := fun ok x (live : (waits ok x).Live) => (h (waits ok x) 0 live).2.2.1 (held ok x) 0
  refine ⟨⟨_, (sig ready 1599 ?_).1 ?_⟩,
    ⟨_, ((one (.tile 1599 64) { runs with due := [due] } ?_).2 ⟨0, 63, 65536, .tile 1599 64⟩ ?_).1 ?_⟩,
    ⟨_, (((one (.tile 1599 64) Tile.initial ?_).2 ⟨0, 63, 65536, .tile 1599 64⟩ ?_).2.1 ?_ ?_).1 1599 64 rfl ?_⟩,
    ⟨_, (((one (.host ⟨0, 1, 0⟩) Tile.initial ?_).2 ⟨0, 63, 65536, .host ⟨0, 1, 0⟩⟩ ?_).2.1 ?_ ?_).2 ⟨0, 1, 0⟩ rfl⟩,
    ⟨_, ((one (.tile 1599 64) runs ?_).2 ⟨0, 63, 65536, .tile 1599 64⟩ ?_).2.2 ?_ ?_⟩, ⟨_, (back ready ?_).1 ?_⟩,
    ⟨_, ((back (acked 0) ?_).2 ⟨0, 1599, 0, 0⟩ ?_).1 ?_⟩, ⟨_, ((back (acked 9) ?_).2 ⟨0, 1599, 0, 9⟩ ?_).2 ?_⟩,
    ⟨_, (wait false false ?_ ?_ ?_).1 rfl⟩, ⟨_, (wait true false ?_ ?_ ?_).2.1 rfl rfl ?_ ?_ ?_⟩,
    ⟨_, (wait true true ?_ ?_ ?_).2.2 rfl rfl⟩,
    ⟨_, (h (tiled { runs with units := [(3, [done])] }) 0 ?_).2.2.2 3 done 0 ?_ ?_ rfl rfl ?_⟩⟩ <;> decide +kernel

/-- A descriptor from fields, each a value and its lowest bit. -/
def desc (fs : List (Nat × Nat)) : Desc := BitVec.ofNat 512 (packed fs)

/-- A state with the descriptor in the store of tile 0, where the tile is to fetch it. -/
def holding (s : State) (d : Desc) : State :=
  { s with chip := s.chip.storeWrite 0 (s.chip.tile 0).pc (leBytes 64 d.toNat) }

/-- A running tile whose store reads 0 where nothing was written but for a 1 at 2000h. -/
def clear : Tile := { runs with zeroed := true, cells := [(0x2000, 1)] }

/-- A state whose tile 0 fetches, under group 3, a job, table 0 and a 256 KiB object of class 4h. -/
def work : State :=
  let s := tabled busy
  { s with chip := (s.chip.setTile 0 clear).onInst 0 fun x => { x with objs := x.objs ++ [box 4] } }

/-- A vector descriptor of 16 elements, unused references none, and further fields. -/
def vec (op : Nat) (more : List (Nat × Nat)) : Desc :=
  desc ([(op, 0), (16, 320), (0x3000, 192)] ++ (if vRandom op then [(3, 126)] else []) ++
    (if vHasB op || 0x41 ≤ op then [] else [(3, 190)]) ++ (if vHasC op || op = 0x42 then [] else [(3, 318)]) ++ more)

theorem met_ElementwiseComplete (h : Obligations.ElementwiseComplete) :
    let at' (op : Nat) := holding work (vec op [])
    Goes (exec (.vadd 0 (vec 0x20 [])) (at' 0x20)) ∧ Goes (exec (.vsub 0 (vec 0x21 [])) (at' 0x21)) ∧
    Goes (exec (.vmul 0 (vec 0x22 [])) (at' 0x22)) ∧ Goes (exec (.vfma 0 (vec 0x23 [])) (at' 0x23)) ∧
    Goes (exec (.vmax 0 (vec 0x24 [])) (at' 0x24)) ∧ Goes (exec (.vmin 0 (vec 0x25 [])) (at' 0x25)) ∧
    Goes (exec (.vneg 0 (vec 0x26 [])) (at' 0x26)) ∧ Goes (exec (.vabs 0 (vec 0x27 [])) (at' 0x27)) ∧
    Goes (exec (.vrelu 0 (vec 0x28 [])) (at' 0x28)) ∧ Goes (exec (.vclamp 0 (vec 0x29 [])) (at' 0x29)) ∧
    Goes (exec (.vselect 0 (vec 0x2A [])) (at' 0x2A)) ∧ Goes (exec (.vrecip 0 (vec 0x2B [])) (at' 0x2B)) ∧
    Goes (exec (.vrsqrt 0 (vec 0x2C [])) (at' 0x2C)) ∧ Goes (exec (.vexp 0 (vec 0x2D [])) (at' 0x2D)) ∧
    Goes (exec (.vlog 0 (vec 0x2E [])) (at' 0x2E)) ∧ Goes (exec (.vtanh 0 (vec 0x2F [])) (at' 0x2F)) ∧
    Goes (exec (.vsigmoid 0 (vec 0x30 [])) (at' 0x30)) ∧ Goes (exec (.vgelu 0 (vec 0x31 [])) (at' 0x31)) := by
  intro at'
  have v := fun op (ok : (at' op).Issues 0 0 1 (vec op [])) => h (at' op) 0 0 (vec op []) ok
  obtain ⟨a, _⟩ := v 0x20 (by decide +kernel)
  obtain ⟨_, b, _⟩ := v 0x21 (by decide +kernel)
  obtain ⟨_, _, c, _⟩ := v 0x22 (by decide +kernel)
  obtain ⟨_, _, _, d, _⟩ := v 0x23 (by decide +kernel)
  obtain ⟨_, _, _, _, e, _⟩ := v 0x24 (by decide +kernel)
  obtain ⟨_, _, _, _, _, f, _⟩ := v 0x25 (by decide +kernel)
  obtain ⟨_, _, _, _, _, _, g, _⟩ := v 0x26 (by decide +kernel)
  obtain ⟨_, _, _, _, _, _, _, i, _⟩ := v 0x27 (by decide +kernel)
  obtain ⟨_, _, _, _, _, _, _, _, j, _⟩ := v 0x28 (by decide +kernel)
  obtain ⟨_, _, _, _, _, _, _, _, _, k, _⟩ := v 0x29 (by decide +kernel)
  obtain ⟨_, _, _, _, _, _, _, _, _, _, l, _⟩ := v 0x2A (by decide +kernel)
  obtain ⟨_, _, _, _, _, _, _, _, _, _, _, m, _⟩ := v 0x2B (by decide +kernel)
  obtain ⟨_, _, _, _, _, _, _, _, _, _, _, _, n, _⟩ := v 0x2C (by decide +kernel)
  obtain ⟨_, _, _, _, _, _, _, _, _, _, _, _, _, o, _⟩ := v 0x2D (by decide +kernel)
  obtain ⟨_, _, _, _, _, _, _, _, _, _, _, _, _, _, p, _⟩ := v 0x2E (by decide +kernel)
  obtain ⟨_, _, _, _, _, _, _, _, _, _, _, _, _, _, _, q, _⟩ := v 0x2F (by decide +kernel)
  obtain ⟨_, _, _, _, _, _, _, _, _, _, _, _, _, _, _, _, r, _⟩ := v 0x30 (by decide +kernel)
  obtain ⟨_, _, _, _, _, _, _, _, _, _, _, _, _, _, _, _, _, w⟩ := v 0x31 (by decide +kernel)
  refine ⟨⟨_, a ?_⟩, ⟨_, b ?_⟩, ⟨_, c ?_⟩, ⟨_, d ?_⟩, ⟨_, e ?_⟩, ⟨_, f ?_⟩, ⟨_, g ?_⟩, ⟨_, i ?_⟩, ⟨_, j ?_⟩, ⟨_, k ?_⟩,
    ⟨_, l ?_⟩, ⟨_, m ?_⟩, ⟨_, n ?_⟩, ⟨_, o ?_⟩, ⟨_, p ?_⟩, ⟨_, q ?_⟩, ⟨_, r ?_⟩, ⟨_, w ?_⟩⟩ <;> decide +kernel

theorem met_RowsAndRandomComplete (h : Obligations.RowsAndRandomComplete) :
    let on (op : Nat) (more : List (Nat × Nat)) := holding work (vec op more)
    Goes (exec (.vsumRow 0 (vec 0x32 [(4, 400)])) (on 0x32 [(4, 400)])) ∧
    Goes (exec (.vmaxRow 0 (vec 0x33 [(4, 400)])) (on 0x33 [(4, 400)])) ∧
    Goes (exec (.vamaxRow 0 (vec 0x34 [(16, 400)])) (on 0x34 [(16, 400)])) ∧ Goes (exec (.vrand 0 (vec 0x35 [])) (on 0x35 [])) ∧
    Goes (exec (.vrandBits 0 (vec 0x36 [])) (on 0x36 [])) := by
  intro on
  have v := fun op m (ok : (on op m).Issues 0 0 1 (vec op m)) => h (on op m) 0 0 (vec op m) ok
  refine ⟨⟨_, (v 0x32 [(4, 400)] ?_).1 ?_⟩, ⟨_, (v 0x33 [(4, 400)] ?_).2.1 ?_⟩, ⟨_, (v 0x34 [(16, 400)] ?_).2.2.1 ?_⟩,
    ⟨_, (v 0x35 [] ?_).2.2.2.1 ?_⟩, ⟨_, (v 0x36 [] ?_).2.2.2.2 ?_⟩⟩ <;> decide +kernel

theorem met_ConvertsComplete (h : Obligations.ConvertsComplete) :
    let plain := vec 0x40 [(9, 380)]
    let scaled := desc [(0x40, 0), (16, 320), (0x3000, 192), (0x4000, 128), (3, 318), (4, 380), (16, 400)]
    let pass := desc [(0x41, 0), (16, 320), (3, 254), (0x4000, 128), (3, 318), (4, 380), (16, 400)]
    let grad := desc [(0x42, 0), (16, 320), (0x3000, 192), (0x4000, 128), (0x5000, 256), (4, 380), (16, 400)]
    Goes (exec (.cvt 0 plain) (holding work plain)) ∧ Goes (exec (.cvt 0 scaled) (holding work scaled)) ∧
    Goes (exec (.scalePass 0 pass) (holding work pass)) ∧ Goes (exec (.cvtGrad 0 grad) (holding work grad)) := by
  intro plain scaled pass grad
  have v := fun d (ok : (holding work d).Issues 0 0 1 d) => h (holding work d) 0 0 d ok
  refine ⟨⟨_, (v plain ?_).1 ?_ ?_⟩, ⟨_, (v scaled ?_).2.1 ?_ ?_⟩, ⟨_, (v pass ?_).2.2.1 ?_⟩, ⟨_, (v grad ?_).2.2.2 ?_⟩⟩ <;>
  decide +kernel

/-- A move of one 64-byte row, or none, from 0 to 3000h, on channel 1. -/
def mv (op rows : Nat) (more : List (Nat × Nat)) : Desc := desc ([(op, 0), (1, 8), (0x3000, 128), (64, 256), (rows, 288)] ++ more)

/-- STASH_PUT of one row of 64 bytes from 0 to 40000h, and STASH_GET of rows from there. -/
def put (cmp : Nat) : Desc := desc [(5, 0), (1, 8), (0x40000, 128), (2, 190), (3, 254), (64, 256), (1, 288), (cmp, 368)]
def get (cmp rows dist : Nat) : Desc :=
  desc [(6, 0), (1, 8), (0x40000, 64), (2, 126), (3, 254), (64, 256), (rows, 288), (cmp, 368), (dist, 372), (9, 376)]

theorem met_MovesComplete (h : Obligations.MovesComplete) :
    let copy := mv 0 0 [(3, 254)]
    let rect := mv 1 1 [(3, 254)]
    let fill := mv 2 0 [(3, 126), (3, 254)]
    let gather := mv 3 1 [(0x4000, 192)]
    let scatter := mv 4 1 [(0x4000, 192)]
    Goes (exec (.copy 0 copy) (holding work copy)) ∧ Goes (exec (.copy2d 0 rect) (holding work rect)) ∧
    Goes (exec (.fill 0 fill) (holding work fill)) ∧ Goes (exec (.gather 0 gather) (holding work gather)) ∧
    Goes (exec (.scatter 0 scatter) (holding work scatter)) ∧ Goes (exec (.stashPut 0 (put 0)) (holding work (put 0))) ∧
    Goes (exec (.stashGet 0 (get 0 1 0)) (holding work (get 0 1 0))) := by
  intro copy rect fill gather scatter
  have v := fun d (ok : (holding work d).Issues 0 0 (2 + dCh d) d) => h (holding work d) 0 0 d ok
  refine ⟨⟨_, (v copy ?_).1 ?_ ?_⟩, ⟨_, (v rect ?_).2.1 ?_ ?_⟩, ⟨_, (v fill ?_).2.2.1 ?_ ?_ ?_⟩,
    ⟨_, ((v gather ?_).2.2.2.1 ?_ ?_).1 ?_ ?_⟩, ⟨_, ((v scatter ?_).2.2.2.1 ?_ ?_).2 ?_ ?_⟩, ⟨_, (v (put 0) ?_).2.2.2.2.1 ?_ ?_ ?_⟩,
    ⟨_, (v (get 0 1 0) ?_).2.2.2.2.2 (box 4) ?_ ?_ ?_ ?_ ?_⟩⟩ <;> decide +kernel

theorem met_StashFormsComplete (h : Obligations.StashFormsComplete) :
    let full : State := { work with chip := work.chip.onInst 0 fun x => { x with stash := List.replicate 4096 default } }
    Goes (exec (.stashPut 0 (put 0)) (holding full (put 0))) ∧ Goes (exec (.stashPut 0 (put 1)) (holding work (put 1))) ∧
    Goes (exec (.stashGet 0 (get 1 1 0)) (holding work (get 1 1 0))) ∧
    Goes (exec (.stashGet 0 (get 0 0 15)) (holding work (get 0 0 15))) := by
  intro full
  have v := fun d (ok : (holding work d).Issues 0 0 (2 + dCh d) d) => h (holding work d) 0 0 d ok
  refine ⟨⟨_, (h (holding full (put 0)) 0 0 (put 0) ?_).1 ?_ ?_ ?_⟩, ⟨_, (v (put 1) ?_).2.1 ?_ ?_ ?_⟩,
    ⟨_, (v (get 1 1 0) ?_).2.2.1 (box 4) ?_ ?_ ?_ ?_ ?_⟩, ⟨_, (v (get 0 0 15) ?_).2.2.2 ?_ ?_⟩⟩ <;> decide +kernel

/-- A product of an M x K and a K x N matrix of F32 values, M = K = 1. -/
def mat (op n : Nat) (more : List (Nat × Nat)) : Desc := desc ([(op, 0), (0x4000, 128), (1, 320), (n, 336), (1, 352)] ++ more)

/-- The split stream 0 of 1 row of 32 columns in group 3, open in its turn. -/
def stream : Coll := { (default : Coll) with kind := 7, active := true, desc := desc [(65568, 256), (3, 392), (7, 408)] }

/-- `work` with split streams in group 3. -/
def splitting (x : Coll) : State :=
  { work with chip := work.chip.setGroup 3 { work.chip.group 3 with split := true, colls := [x] } }

theorem met_MatrixComplete (h : Obligations.MatrixComplete) :
    let plain := mat 0x10 1 [(0x3000, 192)]
    let turned := mat 0x11 1 [(0x3000, 192)]
    let split := mat 0x12 32 [(3, 254)]
    let again : Coll := { stream with out := [{ (default : SplitOut) with row := 0, col := 0 }] }
    Goes (exec (.matmul 0 plain) (holding work plain)) ∧ Goes (exec (.matmulBt 0 turned) (holding work turned)) ∧
    Goes (exec (.matmulSplit 0 split) (holding (splitting stream) split)) ∧
    Goes (exec (.matmulSplit 0 split) (holding (splitting again) split)) := by
  intro plain turned split again
  have v := fun s d (ok : (holding s d).Issues 0 0 0 d) => h (holding s d) 0 0 d .f32 .f32 ok
  refine ⟨⟨_, (v work plain ?_ ?_).1 ?_⟩, ⟨_, (v work turned ?_ ?_).2.1 ?_⟩,
    ⟨_, ((v (splitting stream) split ?_ ?_).2.2 3 stream ?_ ?_ ?_ ?_ ?_ ?_).1 ?_⟩,
    ⟨_, ((v (splitting again) split ?_ ?_).2.2 3 again ?_ ?_ ?_ ?_ ?_ ?_).2 ?_⟩⟩ <;> decide +kernel

theorem met_LookupDescriptorsComplete (h : Obligations.LookupDescriptorsComplete) :
    let look := desc [(0x50, 0), (0x1000, 64), (0x3000, 128), (3, 254), (0x2000, 256), (1, 320), (1, 352)]
    let grad := desc [(0x51, 0), (0x1000, 64), (0x3000, 128), (3, 254), (0x2000, 256), (1, 320), (1, 352)]
    Goes (exec (.lookup 0 look) (holding work look)) ∧ Goes (exec (.rowGrad 0 grad) (holding work grad)) := by
  intro look grad
  have v := fun d (ok : (holding work d).Issues 0 0 (2 + dCh d) d) => h (holding work d) 0 0 d shared ok
  refine ⟨⟨_, (v look ?_ ?_ ?_ ?_ ?_ ?_).1 ?_ ?_⟩, ⟨_, (v grad ?_ ?_ ?_ ?_ ?_ ?_).2 ?_ ?_ ?_⟩⟩ <;> decide +kernel

/-- A COLL of a KIND in group 3 on channel 1, and further fields. -/
def coll (kind : Nat) (more : List (Nat × Nat)) : Desc :=
  desc ([(0x52, 0), (1, 8), (3, 392), (kind, 408)] ++ (if kind = 6 then [] else [(3, 254)]) ++
    (if kind = 4 then [] else if kind = 7 then [(2, 190), (0x80000, 128), (3, 126)] else [(0x3000, 128)]) ++ more)

theorem met_CollDescriptorsComplete (h : Obligations.CollDescriptorsComplete) :
    let s : State :=
      { work with chip := (work.chip.setGroup 3 { work.chip.group 3 with split := true }).onInst 0 fun x =>
        { x with objs := x.objs ++ [{ box 0 with addr := 0x80000 }] } }
    let sum := coll 0 [(16, 256)]
    let part := coll 1 [(16, 256), (16, 288)]
    let all := coll 2 [(64, 256)]
    let cast := coll 3 [(64, 256)]
    let meet := coll 4 []
    let swap := coll 5 [(64, 288)]
    let lists := coll 6 [(0x4000, 192)]
    let open' := coll 7 [(65568, 256), (128, 288)]
    Goes (exec (.collAllReduce 0 sum) (holding s sum)) ∧ Goes (exec (.collReduceScatter 0 part) (holding s part)) ∧
    Goes (exec (.collAllGather 0 all) (holding s all)) ∧ Goes (exec (.collBroadcast 0 cast) (holding s cast)) ∧
    Goes (exec (.collBarrier 0 meet) (holding s meet)) ∧ Goes (exec (.collAllToAll 0 swap) (holding s swap)) ∧
    Goes (exec (.collAllToAllV 0 lists) (holding s lists)) ∧ Goes (exec (.collSplitOpen 0 open') (holding s open')) := by
  intro s sum part all cast meet swap lists open'
  have v := fun d (ok : (holding s d).Issues 0 0 (2 + dCh d) d) => h (holding s d) 0 0 d ok
  refine ⟨⟨_, (v sum ?_ ?_ ?_ ?_ ?_ ?_ ?_ ?_ ?_ ?_ ?_).1 ?_⟩, ⟨_, (v part ?_ ?_ ?_ ?_ ?_ ?_ ?_ ?_ ?_ ?_ ?_).2.1 ?_⟩,
    ⟨_, (v all ?_ ?_ ?_ ?_ ?_ ?_ ?_ ?_ ?_ ?_ ?_).2.2.1 ?_⟩, ⟨_, (v cast ?_ ?_ ?_ ?_ ?_ ?_ ?_ ?_ ?_ ?_ ?_).2.2.2.1 ?_⟩,
    ⟨_, (v meet ?_ ?_ ?_ ?_ ?_ ?_ ?_ ?_ ?_ ?_ ?_).2.2.2.2.1 ?_⟩, ⟨_, (v swap ?_ ?_ ?_ ?_ ?_ ?_ ?_ ?_ ?_ ?_ ?_).2.2.2.2.2.1 ?_⟩,
    ⟨_, (v lists ?_ ?_ ?_ ?_ ?_ ?_ ?_ ?_ ?_ ?_ ?_).2.2.2.2.2.2.1 ?_⟩,
    ⟨_, (v open' ?_ ?_ ?_ ?_ ?_ ?_ ?_ ?_ ?_ ?_ ?_).2.2.2.2.2.2.2 ?_⟩⟩ <;> decide +kernel

/-- A control descriptor. -/
def ctl (op : Nat) (more : List (Nat × Nat)) : Desc := desc ([(op, 0)] ++ more)

theorem met_ControlDescriptorsComplete (h : Obligations.ControlDescriptorsComplete) :
    let full := tiled { runs with zeroed := true, sems := [(63, 65535)], pc := 0xFFF80 }
    let at' (op sem n tile : Nat) := ctl op [(sem, 143), (tile, 149), (n, 192)]
    let loop := ctl 0x71 [(64, 168), (2, 192)]
    let far := ctl 0x74 [(63, 143), (0xFFFF, 176), (65535, 192)]
    let close := ctl 0x77 [(4, 336)]
    let brim : State := { full with chip := full.chip.onInst 0 fun x => { x with hubSems := [(62, 0xFFFFFFFF)] } }
    Goes (exec (.nopDescriptor 0 (ctl 0x70 [])) (holding full (ctl 0x70 []))) ∧
    Goes (exec (.fenceDescriptor 0 (ctl 0x76 [])) (holding full (ctl 0x76 []))) ∧
    Goes (exec (.repeatSpan 0 loop) (holding work loop)) ∧
    Goes (exec (.wait 0 (at' 0x72 63 65535 0)) (holding full (at' 0x72 63 65535 0))) ∧
    Goes (exec (.wait 0 (at' 0x72 62 1 0)) (holding full (at' 0x72 62 1 0))) ∧
    Goes (exec (.signal 0 (at' 0x73 63 1 123)) (holding full (at' 0x73 63 1 123))) ∧
    Goes (exec (.signal 0 (at' 0x73 62 65535 0x7FF)) (holding full (at' 0x73 62 65535 0x7FF))) ∧
    Goes (exec (.branchSem 0 (at' 0x74 62 1 0)) (holding full (at' 0x74 62 1 0))) ∧
    Goes (exec (.branchSem 0 far) (holding full far)) ∧ Goes (exec (.jump 0 (ctl 0x75 [(1, 176)])) (holding full (ctl 0x75 [(1, 176)]))) ∧
    Goes (exec (.stepCloseDescriptor 0 close) (holding work close)) ∧
    Goes (exec (.hostSignalDescriptor 0 (at' 0x78 62 1 0)) (holding full (at' 0x78 62 1 0))) ∧
    Goes (exec (.hostSignalDescriptor 0 (at' 0x78 62 1 0)) (holding brim (at' 0x78 62 1 0))) ∧
    Goes (exec (.endProgram 0 (ctl 0x7F [])) (holding full (ctl 0x7F []))) := by
  intro full at' loop far close brim
  have v := fun s d (ok : (holding s d).Fetches 0 0 d) => h (holding s d) 0 0 d ok
  have hub := fun s (ok : (holding s (at' 0x78 62 1 0)).Fetches 0 0 (at' 0x78 62 1 0)) (q : dSig (at' 0x78 62 1 0) = false) =>
    (v s (at' 0x78 62 1 0) ok q).2.2.2.2.2.2.2.2.2.2.2.1
  obtain ⟨_, _, up⟩ := foundRight (fun a b => (hub full (by decide +kernel) (by decide +kernel)).1 a b (by decide +kernel))
    (by decide +kernel)
  obtain ⟨_, down⟩ := foundFault (fun a => (hub brim (by decide +kernel) (by decide +kernel)).2 a (by decide +kernel))
    (by decide +kernel)
  refine ⟨⟨_, (v full (ctl 0x70 []) ?_ ?_).1 ?_⟩, ⟨_, (v full (ctl 0x76 []) ?_ ?_).2.1 ?_⟩, ⟨_, (v work loop ?_ ?_).2.2.1 ?_⟩,
    ⟨_, (v full (at' 0x72 63 65535 0) ?_ ?_).2.2.2.1 ?_ ?_⟩, ⟨_, (v full (at' 0x72 62 1 0) ?_ ?_).2.2.2.2.1 ?_ ?_⟩,
    ⟨_, (v full (at' 0x73 63 1 123) ?_ ?_).2.2.2.2.2.1 ?_ ?_ ?_⟩,
    ⟨_, (v full (at' 0x73 62 65535 0x7FF) ?_ ?_).2.2.2.2.2.2.1 ?_ ?_⟩,
    ⟨_, (v full (at' 0x74 62 1 0) ?_ ?_).2.2.2.2.2.2.2.1 ?_ ?_⟩, ⟨_, (v full far ?_ ?_).2.2.2.2.2.2.2.2.1 ?_ ?_⟩,
    ⟨_, (v full (ctl 0x75 [(1, 176)]) ?_ ?_).2.2.2.2.2.2.2.2.2.1 ?_⟩,
    ⟨_, (v work close ?_ ?_).2.2.2.2.2.2.2.2.2.2.1 ?_ ?_ ?_⟩, ⟨_, up⟩, ⟨_, down⟩,
    ⟨_, (v full (ctl 0x7F []) ?_ ?_).2.2.2.2.2.2.2.2.2.2.2.2 ?_⟩⟩ <;> decide +kernel

/-- `ready` with a job of instance 0 in group 3 of devices `ms`. -/
def teamed (ms : List Half) (j : Job) : State :=
  let s := withInst fun x => { x with job := j }
  { s with chip := s.chip.setGroup 3 { Group.initial with owner := some 0, members := ms } }

theorem met_StepEventsComplete (h : Obligations.StepEventsComplete) :
    let b (v : Bool) (acc : Double) : Barrier := { vote := v, round := 0, acc := acc, done := true, entries := [], began := 0 }
    let past (ph : JPhase) (v : Bool) (acc : Double) (e : Nat) :=
      teamed [0] { busy with phase := ph, epoch := e, barrier := some (b v acc) }
    let dense : Obj := { box 1 with due := [4], shardsDone := [0] }
    let swap := withInst fun x => { x with objs := [dense], bobjs := [bruinObj] }
    Goes (exec (.voteComplete 0) (past .vote true 1 4)) ∧ Goes (exec (.voteComplete 0) (past .vote true 0 4)) ∧
    Goes (exec (.flipBarrierEnter 0) (teamed [0] { busy with phase := .apply })) ∧
    Goes (exec (.flipBarrierEnter 0) (teamed [0] { busy with phase := .apply, unackedHot := [(0, 0, 1)] })) ∧
    Goes (exec (.flip 0) (past .flip false 0 0xFFFFFFFFFFFE)) ∧ Goes (exec (.flip 0) (past .flip false 0 0xFFFFFFFFFFFF)) ∧
    Goes (exec (.denseSwap 0 0x40000) swap) := by
  intro b past dense swap
  have at' := fun s (ok : s.Live) => h s 0 ok
  refine ⟨⟨_, (at' (past .vote true 1 4) ?_).1 (b true 1) ?_ ?_ ?_ ?_ ?_⟩, ⟨_, (at' (past .vote true 0 4) ?_).2.1 (b true 0) ?_ ?_ ?_ ?_ ?_⟩,
    ⟨_, (at' (teamed [0] { busy with phase := .apply }) ?_).2.2.1 ?_ ?_ ?_ ?_⟩,
    ⟨_, (at' (teamed [0] { busy with phase := .apply, unackedHot := [(0, 0, 1)] }) ?_).2.2.2.1 ?_ ?_⟩,
    ⟨_, (at' (past .flip false 0 0xFFFFFFFFFFFE) ?_).2.2.2.2.1 (b false 0) ?_ ?_ ?_ ?_ ?_⟩,
    ⟨_, (at' (past .flip false 0 0xFFFFFFFFFFFF) ?_).2.2.2.2.2.1 (b false 0) ?_ ?_ ?_ ?_ ?_⟩,
    ⟨_, (at' swap ?_).2.2.2.2.2.2 0x40000 dense bruinObj ?_ ?_ ?_ ?_⟩⟩ <;> decide +kernel

/-- A queued shard program of that object, started or not, with so many stages ended. -/
def prog (started : Bool) (stage : Nat) : BProg :=
  { obj := 0x40000, shard := 0, epoch := 4, lexp := 0, started := started, stage := stage, f := 0, block := bruinObj.block }

/-- The program at its object, and a state with it at the head of Bruin's queue. -/
def run (started : Bool) (stage : Nat) : Run :=
  { inst := 0, prog := prog started stage, idx := 0, block := bruinObj.block.toNat }
def bruinAt (started : Bool) (stage : Nat) : State := withInst fun x => { x with
  objs := [{ box 1 with due := [4] }] ++ bruinObjs.drop 1, bobjs := [bruinObj], bqueue := [prog started stage], job := busy }

theorem met_BruinEventsComplete (h : Obligations.BruinEventsComplete) :
    let few : State := { bruinAt true 0 with chip := { (bruinAt true 0).chip with retired := (List.range 57).map (fun k => ⟨9, k⟩) } }
    Goes (exec (.bruinProgramStart 0) (bruinAt false 0)) ∧ Goes (exec (.bruinStageComplete 0) (bruinAt true 0)) ∧
    Goes (exec (.bruinStageComplete 0) few) ∧ Goes (exec (.bruinShardCommit 0) (bruinAt true 9)) ∧
    Goes (exec (.updateCoreUpset 63) ready) := by
  intro few
  let st := ((run true 0).stages bruinObj.updates.toNat)[0]?.getD .weights
  have at' := fun s (ok : s.Live) => h s 0 ok
  refine ⟨⟨_, (at' (bruinAt false 0) ?_).1 (run false 0) bruinObj ?_ ?_ ?_⟩,
    ⟨_, ((at' (bruinAt true 0) ?_).2.1 (run true 0) bruinObj 0 st ?_ ?_ ?_).1 ?_ ?_⟩,
    ⟨_, ((at' few ?_).2.1 (run true 0) bruinObj 0 st ?_ ?_ ?_).2 ?_⟩, ⟨_, (at' (bruinAt true 9) ?_).2.2.1 (run true 9) bruinObj ?_ ?_ ?_⟩,
    ⟨_, (at' ready ?_).2.2.2 63 ?_ ?_ ?_⟩⟩ <;> decide +kernel

/-- The share of `tabled` while its extent is in the commit of a move. -/
def stuckShare : Obj := { share with extents := [{ Extent.new false ⟨0, 0⟩ with stage := some .commit }] }

/-- A state with table 0 of `tabled` as engine 0 keeps it, in an apply phase that engine 0 is to carry out. -/
def applying (o : Obj) (k : EngTab) : State :=
  let s := tabled { busy with phase := .apply, toApply := [(0, 0)] }
  { s with chip := (s.chip.onInst 0 fun x => { x with objs := [o] }).onEngTab 0 0 0 fun _ => k }

theorem met_EngineEventsComplete (h : Obligations.EngineEventsComplete) :
    let snap : State := { work with chip := work.chip.onInst 0 fun x => { x with snapValid := true } }
    let slot := List.replicate (rowSlotBytes shared.block) 0
    let tight : State :=
      { snap with chip := (snap.chip.onInst 0 fun x => { x with snapEpoch := 1 }).slotWrite 0 shared 0 slot }
    let held : State := { snap with chip := snap.chip.onInst 0 fun x => { x with objs := [stuckShare] } }
    let m (k : ReqKind) : ReqMsg := { (default : ReqMsg) with kind := k, records := [⟨0, 0, 0⟩] }
    let odd : ReqMsg := { m .lookup with digest := 1 }
    let f : FrontJob := { (default : FrontJob) with grad := true, unanswered := [(0, 0, 0)] }
    let wait : State := { work with chip := { work.chip with front := [f] } }
    let r (k : AnswerKind) : LookupResult := { (default : LookupResult) with kind := k, sums := [] }
    let eng : EngTab := shared.eng 0
    let logged : State := { snap with chip := snap.chip.onEngTab 0 0 0 fun k =>
      { k with log := [{ (default : LogEntry) with snap := 9 }], stalled := true } }
    let sent : State := { snap with chip := snap.chip.onEngTab 0 0 0 fun k => { k with unacked := [(0, 0)] } }
    Goes (exec (.engineRequestMessage 0 []) snap) ∧ Goes (exec (.engineRequestMessage 0 [(0, m .lookup)]) held) ∧
    Goes (exec (.engineRequestMessage 0 [(0, { m .lookup with table := 9 })]) snap) ∧
    Goes (exec (.engineRequestMessage 0 [(31, odd)]) snap) ∧
    Goes (exec (.engineRequestMessage 0 [(0, { m .serve with epoch := 1 })]) snap) ∧
    Goes (exec (.engineRequestMessage 0 [(0, m .lookup)]) snap) ∧ Goes (exec (.engineRequestMessage 0 [(0, m .serve)]) snap) ∧
    Goes (exec (.engineRequestMessage 0 [(0, m .grad)]) snap) ∧
    Goes (exec (.lookupResultReceived (r .sums)) snap) ∧ Goes (exec (.lookupResultReceived (r .sums)) wait) ∧
    Goes (exec (.lookupResultReceived (r .applied)) snap) ∧ Goes (exec (.lookupResultReceived (r (.stall true))) snap) ∧
    Goes (exec (.lookupResultReceived (r (.hotRow 0))) snap) ∧ Goes (exec (.lookupResultReceived (r (.slot 0))) snap) ∧
    Goes (exec (.lookupResultReceived (r (.slot 0))) sent) ∧ Goes (exec (.hotRowValueReceived 0 0 0 []) snap) ∧
    Goes (exec (.replicaSlotWrite 0 0 0 slot) held) ∧ Goes (exec (.replicaSlotWrite 0 0 0 slot) tight) ∧
    Goes (exec (.replicaSlotWrite 0 0 0 slot) snap) ∧ Goes (exec (.logEntriesFree 0 0 0) logged) ∧
    Goes (exec (.rowApply 0 0 0) (applying stuckShare { eng with acc := [⟨0, []⟩] })) ∧
    Goes (exec (.rowApply 0 0 0) (applying stuckShare { eng with applied := [0] })) ∧
    Goes (exec (.rowApply 0 0 0) (applying share eng)) := by
  intro snap slot tight held m odd f wait r eng logged sent
  have now := fun s (ok : s.Live) e arrived => (h s ok).1 e arrived
  have turn := fun s (ok : s.Live) src y => (now s ok 0 [(src, y)]).2 (0, 0) (1 + src) y
  have got := fun s (ok : s.Live) => (h s ok).2.1 (r .sums)
  have slots := fun s (ok : s.Live) => (h s ok).2.2.2.2.2.1 (r (.slot 0)) 0
  have hot := fun s (ok : s.Live) => (h s ok).2.2.2.2.2.2.1 0 0 0 []
  have write := fun s (ok : s.Live) t => (h s ok).2.2.2.2.2.2.2.1 0 0 0 slot t 0
  have apply := fun o k (ok : (applying o k).Live) => (h (applying o k) ok).2.2.2.2.2.2.2.2.2 0 0 0
  obtain ⟨_, beyond⟩ := found ((write snap (by decide +kernel) shared (by decide +kernel) (by decide +kernel) (by decide +kernel)
    (by decide +kernel) (by decide +kernel)).2.2 · (by decide +kernel)) (by decide +kernel)
  let tb := (tight.chip.tableOf 0 0).getD default
  let sn := (sent.chip.tableOf 0 0).getD default
  let lg := (logged.chip.tableOf 0 0).getD default
  let t1 := ((applying stuckShare { eng with acc := [⟨0, []⟩] }).chip.tableOf 0 0).getD default
  let t2 := ((applying stuckShare { eng with applied := [0] }).chip.tableOf 0 0).getD default
  let t3 := ((applying share eng).chip.tableOf 0 0).getD default
  refine ⟨⟨_, (now snap ?_ 0 []).1 ?_⟩, ⟨_, (turn held ?_ 0 (m .lookup) ?_ ?_).1 ?_⟩,
    ⟨_, ((turn snap ?_ 0 { m .lookup with table := 9 } ?_ ?_).2 ?_).1 ?_⟩, ⟨_, (((turn snap ?_ 31 odd ?_ ?_).2 ?_).2 shared ?_).1 ?_⟩,
    ⟨_, (((turn snap ?_ 0 { m .serve with epoch := 1 } ?_ ?_).2 ?_).2 shared ?_).2.1 ?_ ?_ ?_⟩,
    ⟨_, (((turn snap ?_ 0 (m .lookup) ?_ ?_).2 ?_).2 shared ?_).2.2.1 ?_ ?_⟩,
    ⟨_, (((turn snap ?_ 0 (m .serve) ?_ ?_).2 ?_).2 shared ?_).2.2.1 ?_ ?_⟩,
    ⟨_, (((turn snap ?_ 0 (m .grad) ?_ ?_).2 ?_).2 shared ?_).2.2.2 ?_ ?_⟩,
    ⟨_, (got snap ?_ ?_).1 ?_⟩, ⟨_, (got wait ?_ ?_).2 f ?_⟩, ⟨_, (h snap ?_).2.2.1 (r .applied) ?_⟩,
    ⟨_, (h snap ?_).2.2.2.1 (r (.stall true)) true ?_⟩, ⟨_, (h snap ?_).2.2.2.2.1 (r (.hotRow 0)) 0 ?_⟩,
    ⟨_, (slots snap ?_ shared ?_ ?_).1 ?_⟩, ⟨_, (slots sent ?_ sn ?_ ?_).2 0 [] ?_⟩, ⟨_, hot snap ?_ shared ?_⟩,
    ⟨_, (write held ?_ shared ?_ ?_ ?_ ?_ ?_).1 ?_⟩, ⟨_, (write tight ?_ tb ?_ ?_ ?_ ?_ ?_).2.1 ?_ ?_⟩, ⟨_, beyond⟩,
    ⟨_, (h logged ?_).2.2.2.2.2.2.2.2.1 0 0 0 lg ?_⟩, ⟨_, (apply stuckShare { eng with acc := [⟨0, []⟩] } ?_ t1 ?_ ?_ ?_).1 ?_⟩,
    ⟨_, (apply stuckShare { eng with applied := [0] } ?_ t2 ?_ ?_ ?_).2.1 ?_ ?_⟩, ⟨_, (apply share eng ?_ t3 ?_ ?_ ?_).2.2 ?_ ?_⟩⟩ <;>
  decide +kernel

/-- Group 3 of devices 0 and 1 in a job, with one collective. -/
def packing (x : Coll) : State :=
  let s := teamed [0, 1] busy
  { s with chip := s.chip.onGroup 3 fun g => { g with colls := [x] } }

/-- A packet of device 1 in group 3. -/
def pkt (kind cseq : Nat) (data : List Byte) : PackPkt :=
  { src := 1, job := 0, jepoch := 0, group := 3, gdigest := 0, kind := kind, cseq := cseq, offset := 0, data := data }

/-- A collective of a KIND in its turn, of 32 F32 elements or 64 bytes. -/
def turn (kind : Nat) : Coll :=
  { (default : Coll) with kind := kind, active := true, input := List.replicate 128 0
                          desc := coll kind [(if kind = 0 then 32 else 64, 256)] }

/-- A free token of a round. -/
def token (round : Nat) : PackPkt := pkt kindFree 0 (le 12 round)

theorem met_PackPacketsComplete (h : Obligations.PackPacketsComplete) :
    let four := fun k => pkt k 0 [0,0,0,0]
    let long := pkt 0 0 (List.replicate 129 0)
    let later := { turn 6 with pieces := [(1, 0, [1])] }
    let alien := { four 0 with gdigest := 1 }
    let led : State := teamed [1, 0] busy
    let owned : BObj := { bruinObj with block := bruinObj.block &&& ~~~(1#1024 <<< 330) ||| BitVec.ofNat 1024 (3 * 2 ^ 200 * 2 ^ 120 + 2 ^ 200 * 2 ^ 136) }
    let dense (due : List Nat) : State := { packing (turn 0) with chip := (packing (turn 0)).chip.onInst 0 fun x =>
      { x with objs := [{ box 1 with due := due }], bobjs := [owned] } }
    (Goes (exec (.leaf (four 0)) (packing (turn 0))) ∧ Goes (exec (.leaf long) (packing (turn 0))) ∧
      Goes (exec (.result (four 2)) (packing (turn 2))) ∧ Goes (exec (.result (four 4)) (packing (turn 4))) ∧
      Goes (exec (.counts (four 6)) (packing (turn 6))) ∧ Goes (exec (.counts (four 6)) (packing later)) ∧
      Goes (exec (.token (pkt 4 0 (le 12 0))) (packing (turn 4))) ∧ Goes (exec (.credit (four 0)) (packing (turn 0))) ∧
      Goes (exec (.credit (four 7)) (packing (turn 7))) ∧ Goes (exec (.refuse (four 6)) (packing (turn 6))) ∧
      Goes (exec (.refuse (four 0)) (packing (turn 0)))) ∧
    Goes (exec (.leaf (four 0)) (packing { turn 0 with active := false })) ∧ Goes (exec (.leaf alien) (packing (turn 0))) ∧
    Goes (exec (.token (token 0xFFFFFFFD)) (packing (turn 4))) ∧ Goes (exec (.token (token 0xFFFFFFFE)) (packing (turn 4))) ∧
    Goes (exec (.token (token 0xFFFFFFFF)) (packing (turn 4))) ∧ Goes (exec (.token (token 0xFFFFFFFF)) led) ∧
    Goes (exec (.abort (four 0)) (packing (turn 0))) ∧ Goes (exec (.split (four 7)) (packing (turn 7))) ∧
    Goes (exec (.handoff (four 0)) (dense [])) ∧ Goes (exec (.handoff (four 0)) (dense [4])) := by
  intro four long later alien led owned dense
  have one := fun x p (ok : (packing x).Live) (hm : (packing x).chip.packFrom p = some (0, 1)) => h (packing x) p 0 1 ok hm
  have its := fun x p ok hm => (one x p ok hm).1 x
  have free := fun p ok hm => (one (turn 4) p ok hm).2.2.2.1
  obtain ⟨_, lands⟩ := found ((its (turn 2) (four 2) (by decide +kernel) (by decide +kernel) (by decide +kernel) (by decide +kernel)
    (by decide +kernel) (by decide +kernel) (by decide +kernel)).2.2.1) (by decide +kernel)
  have sh := fun ds (ok : (dense ds).Live) (hm : (dense ds).chip.packFrom (four 0) = some (0, 1)) =>
    (h (dense ds) (four 0) 0 1 ok hm).2.2.2.2.2.2 owned
  refine ⟨⟨⟨_, (its (turn 0) (four 0) ?_ ?_ ?_ ?_ ?_ ?_ ?_).1 ?_ ?_⟩, ⟨_, (its (turn 0) long ?_ ?_ ?_ ?_ ?_ ?_ ?_).2.1 ?_⟩, ⟨_, lands⟩,
      ⟨_, (its (turn 4) (four 4) ?_ ?_ ?_ ?_ ?_ ?_ ?_).2.2.2.1 ?_⟩, ⟨_, (its (turn 6) (four 6) ?_ ?_ ?_ ?_ ?_ ?_ ?_).2.2.2.2.1 ?_ ?_⟩,
      ⟨_, (its later (four 6) ?_ ?_ ?_ ?_ ?_ ?_ ?_).2.2.2.2.2.1 ?_⟩,
      ⟨_, (its (turn 4) (pkt 4 0 (le 12 0)) ?_ ?_ ?_ ?_ ?_ ?_ ?_).2.2.2.2.2.2.1 ?_⟩,
      ⟨_, (its (turn 0) (four 0) ?_ ?_ ?_ ?_ ?_ ?_ ?_).2.2.2.2.2.2.2.1 ?_⟩,
      ⟨_, (its (turn 7) (four 7) ?_ ?_ ?_ ?_ ?_ ?_ ?_).2.2.2.2.2.2.2.2.1 ?_⟩,
      ⟨_, (its (turn 6) (four 6) ?_ ?_ ?_ ?_ ?_ ?_ ?_).2.2.2.2.2.2.2.2.2.1 ?_⟩,
      ⟨_, (its (turn 0) (four 0) ?_ ?_ ?_ ?_ ?_ ?_ ?_).2.2.2.2.2.2.2.2.2.2 ?_⟩⟩,
    ⟨_, ((one { turn 0 with active := false } (four 0) ?_ ?_).2.1 ?_ ?_ ?_).1⟩, ⟨_, ((one (turn 0) alien ?_ ?_).2.2.1 ?_).1⟩,
    ⟨_, (free (token 0xFFFFFFFD) ?_ ?_ ?_ ?_ ?_ ?_).1 ?_⟩, ⟨_, (free (token 0xFFFFFFFE) ?_ ?_ ?_ ?_ ?_ ?_).2.1 ?_⟩,
    ⟨_, (free (token 0xFFFFFFFF) ?_ ?_ ?_ ?_ ?_ ?_).2.2.1 ?_ ?_⟩,
    ⟨_, ((h led (token 0xFFFFFFFF) 0 0 ?_ ?_).2.2.2.1 ?_ ?_ ?_ ?_).2.2.2 ?_ ?_⟩, ⟨_, (one (turn 0) (four 0) ?_ ?_).2.2.2.2.1 ?_⟩,
    ⟨_, (one (turn 7) (four 7) ?_ ?_).2.2.2.2.2.1 ?_ ?_⟩, ⟨_, (sh [] ?_ ?_ { box 1 with due := [] } ?_ ?_ ?_ ?_ ?_ ?_ ?_).1 ?_⟩,
    ⟨_, (sh [4] ?_ ?_ { box 1 with due := [4] } ?_ ?_ ?_ ?_ ?_ ?_ ?_).2 ?_⟩⟩ <;> decide +kernel

theorem met_GroupEventsComplete (h : Obligations.GroupEventsComplete) :
    let done : Barrier := { vote := false, round := 1, acc := 0, done := true, entries := [], began := 0 }
    let past := packing { turn 4 with barrier := some done }
    let stall : State := { tabled busy with chip := (tabled busy).chip.onEngTab 0 0 0 fun k => { k with stalled := true } }
    let vote := teamed [0, 1] { busy with barrier := some { done with done := false, round := 0 } }
    Goes (exec (.collComplete 3) past) ∧ Goes (exec (.holdTokenTimer 0) stall) ∧
    Goes (exec (.holdTokenTimer 0) (teamed [0, 1] { busy with marks := [(1, 0)] })) ∧ Goes (exec (.holdTokenTimer 0) (teamed [0, 1] busy)) ∧
    Goes (exec (.groupTimeout 3 1) (packing (turn 0))) ∧ Goes (exec (.groupTimeout 3 1) vote) ∧
    Goes (exec (.groupTimeout 3 0) vote) ∧ Goes (exec (.timeProbeTimer 0) (teamed [1, 0] busy)) ∧ Goes (exec (.timeProbeTimer 0) ready) ∧
    Goes (exec (.timeProbeTimer 0) vote) := by
  intro done past stall vote
  let x : Coll := { turn 4 with barrier := some done }
  have at' := fun s (ok : s.Live) => h s 0 3 ok
  have hold := fun s (ok : s.Live) => (at' s ok).2.1
  have out := fun s (ok : s.Live) => (at' s ok).2.2.2.1 1
  refine ⟨⟨_, (at' past ?_).1 x x ?_ ?_ ?_ ?_⟩, ⟨_, hold stall ?_ ?_ ?_⟩, ⟨_, hold (teamed [0, 1] { busy with marks := [(1, 0)] }) ?_ ?_ ?_⟩,
    ⟨_, (at' (teamed [0, 1] busy) ?_).2.2.1 ?_⟩, ⟨_, out (packing (turn 0)) ?_ ?_ ?_ ?_ ?_ (.inl ⟨turn 0, ?_, ?_, ?_⟩)⟩,
    ⟨_, out vote ?_ ?_ ?_ ?_ ?_ (.inr ⟨?_, { done with done := false, round := 0 }, ?_, rfl, ?_⟩)⟩, ⟨_, (at' vote ?_).2.2.2.2.1 0 ?_ ?_⟩,
    ⟨_, (at' (teamed [1, 0] busy) ?_).2.2.2.2.2.1 ?_ ?_⟩, ⟨_, (at' ready ?_).2.2.2.2.2.2.1 ?_⟩, ⟨_, (at' vote ?_).2.2.2.2.2.2.2 ?_ ?_⟩⟩ <;>
  decide +kernel

/-- `ready` with link 31 as given. -/
def linked (l : Link) : State := with' fun c => c.setLink 31 l

/-- Link 31 up and locked, version 3. -/
def upLink : Link := { Link.initial with st := .up, major := 3, lock := some 511 }

theorem met_LinkStatesComplete (h : Obligations.LinkStatesComplete) :
    let coming := { Link.initial with st := .train53 }
    let late := { upLink with st := .fastRetrain, lock := none, failedRetrains := [0, 0] }
    let lost := { upLink with lock := none }
    let aged := { upLink with lockAge := 1 }
    Goes (exec (.linkSignalDetect 31) ready) ∧ Goes (exec (.linkDown 31) (linked upLink)) ∧ Goes (exec (.linkDown 31) ready) ∧
    Goes (exec (.linkShutdownComplete 31) (unitIn ⟨0, 31⟩ .shuttingDown)) ∧
    Goes (exec (.trainingWordsReceived 31 default) (linked coming)) ∧
    Goes (exec (.linkTrainingDone 31) (linked { coming with st := .train106, major := 3 })) ∧
    Goes (exec (.linkTrainingDone 31) (linked { coming with major := 2 })) ∧ Goes (exec (.linkTrainingDone 31) (linked late)) ∧
    Goes (exec (.fastRetrain 31) (linked late)) ∧ Goes (exec (.fastRetrain 31) (linked upLink)) ∧
    Goes (exec (.alignmentSearchTimeout 31) (linked lost)) ∧ Goes (exec (.alignmentSearchTimeout 31) (linked upLink)) ∧
    Goes (exec (.flitGroupReceived 31 511 60 true) (linked upLink)) ∧ Goes (exec (.flitGroupReceived 31 0 64 true) (linked lost)) ∧
    Goes (exec (.flitGroupReceived 31 510 64 true) (linked aged)) := by
  intro coming late lost aged
  have at' := fun l (ok : (linked l).Live) => h (linked l) 31 ok
  have ready' := fun (ok : ready.Live) => h ready 31 ok
  have shut := fun (ok : (unitIn ⟨0, 31⟩ .shuttingDown).Live) => (h (unitIn ⟨0, 31⟩ .shuttingDown) 31 ok).2.2.2.1
  have done := fun l ok => (at' l ok).2.2.2.2.2.1
  have fast := fun l ok => (at' l ok).2.2.2.2.2.2.1
  have group := fun l ok => (at' l ok).2.2.2.2.2.2.2.2
  refine ⟨⟨_, (ready' ?_).1 ?_ ?_ ?_ ?_⟩, ⟨_, (at' upLink ?_).2.1 ?_⟩, ⟨_, (ready' ?_).2.2.1 ?_⟩, ⟨_, shut ?_ ?_ ?_⟩,
    ⟨_, (at' coming ?_).2.2.2.2.1 default ?_ ?_⟩, ⟨_, done { coming with st := .train106, major := 3 } ?_ ?_⟩,
    ⟨_, done { coming with major := 2 } ?_ ?_⟩, ⟨_, done late ?_ ?_⟩, ⟨_, (fast late ?_).1 ?_ ?_⟩, ⟨_, ((fast upLink ?_).2 ?_).1⟩,
    ⟨_, ((fast lost ?_).2 ?_).2 ?_⟩, ⟨_, (at' upLink ?_).2.2.2.2.2.2.2.1 ?_⟩, ⟨_, (group upLink ?_).1 511 60 true ?_ ?_⟩,
    ⟨_, (group lost ?_).2.1 0 64 true ?_ ?_ ?_⟩, ⟨_, (group aged ?_).2.2 510 64 true ?_ ?_ ?_ ?_⟩⟩ <;> decide +kernel

/-- A flit from header fields and the payload's first bytes, with its CRCs under session 0 (R263). -/
def flit (fs : List (Nat × Nat)) (body : List Byte) : List Byte :=
  let h := leBytes 10 (packed fs)
  let f := padTo 252 (h ++ leBytes 2 (crc16 0 h) ++ body)
  f ++ leBytes 4 (crc32c f)

/-- A received packet opens in clear. -/
def inClear : Opened → Bool
  | .clear _ => true
  | _ => false

theorem opened {v : Opened} {P : FabPkt → Prop} (h : ∀ p, v = .clear p → P p) (ok : inClear v = true) : ∃ p, P p := by
  cases v with
  | clear p => exact ⟨p, h p rfl⟩
  | stray => cases ok
  | refused i n => cases ok

theorem met_LinkFlitsComplete (h : Obligations.LinkFlitsComplete) :
    let l := linked upLink
    let data (seq : Nat) := flit [(1, 28), (seq, 32)] []
    let idle (seq : Nat) := flit [(seq, 32)] []
    let retry (seq : Nat) := flit [(3, 28), (seq, 32)] [1, 0, 0, 0]
    let asked := linked { upLink with retrying := true }
    let enc := teamed [0] { busy with encReq := true }
    Goes (exec (.dataFlit 31 (data 0)) l) ∧ Goes (exec (.dataFlit 31 (data 32767)) l) ∧ Goes (exec (.dataFlit 31 (data 32768)) l) ∧
    Goes (exec (.idleFlit 31 (idle 0)) l) ∧ Goes (exec (.idleFlit 31 (idle 1)) l) ∧ Goes (exec (.retry 31 (retry 0)) l) ∧
    Goes (exec (.retry 31 (retry 1)) l) ∧ Goes (exec (.dataFlit 31 []) l) ∧ Goes (exec (.idleFlit 31 []) ready) ∧
    Goes (exec (.retryRepeatTimer 31) asked) ∧ Goes (exec (.retryRepeatTimer 31) l) ∧
    Goes (exec (.fabricPacketReceived 31 0 []) (teamed [0] busy)) ∧ Goes (exec (.fabricPacketReceived 31 0 []) enc) ∧
    Goes (exec (.fabricPacketReceived 31 0 []) l) := by
  intro l data idle retry asked enc
  have at' := fun s (ok : s.Live) => h s 31 ok
  have good := fun f (ok : l.Live) => (at' l ok).1 f
  have packet := fun s (ok : s.Live) => (at' s ok).2.2.2.2.2 0 []
  obtain ⟨_, clear⟩ := opened (packet (teamed [0] busy) (by decide +kernel)).1 (by decide +kernel)
  refine ⟨⟨_, (good (data 0) ?_ ?_ ?_ ?_).1 ?_ ?_⟩, ⟨_, (good (data 32767) ?_ ?_ ?_ ?_).2.1 ?_ ?_ ?_⟩,
    ⟨_, (good (data 32768) ?_ ?_ ?_ ?_).2.2.1 ?_ ?_⟩, ⟨_, ((good (idle 0) ?_ ?_ ?_ ?_).2.2.2.1 ?_).1 ?_⟩,
    ⟨_, ((good (idle 1) ?_ ?_ ?_ ?_).2.2.2.1 ?_).2 ?_ ?_⟩, ⟨_, ((good (retry 0) ?_ ?_ ?_ ?_).2.2.2.2 ?_ ?_).1 ?_⟩,
    ⟨_, ((good (retry 1) ?_ ?_ ?_ ?_).2.2.2.2 ?_ ?_).2 ?_ ?_ ?_⟩, ⟨_, ((at' l ?_).2.1 [] ?_ ?_ ?_).1⟩,
    ⟨_, ((at' ready ?_).2.2.1 [] ?_).2.1⟩, ⟨_, (at' asked ?_).2.2.2.1 ?_ ?_ ?_⟩, ⟨_, (at' l ?_).2.2.2.2.1 ?_⟩, ⟨_, clear⟩,
    ⟨_, (packet enc ?_).2.1 0 14 ?_⟩, ⟨_, (packet l ?_).2.2 ?_⟩⟩ <;> decide +kernel

theorem met_LaneWordsComplete (h : Obligations.LaneWordsComplete) :
    let on (x : Lane) := linked { upLink with lanes := [(15, x)] }
    let w (type content : Nat) := laneWord type content
    let retiring := linked { upLink with retiring := [15] }
    let coming := linked { upLink with st := .train106 }
    Goes (exec (.tapRequest 31 (w 1 (15 + 4 * 16))) (linked upLink)) ∧
    Goes (exec (.tapAnswer 31 (w 2 (15 + 4 * 16))) (on { Lane.initial with asked := some (4, false) })) ∧
    Goes (exec (.tapStepEvaluate 31 15 0 true) (on { Lane.initial with judged := some (4, false) })) ∧
    Goes (exec (.tapStepEvaluate 31 15 0 true) (linked upLink)) ∧ Goes (exec (.laneRetire 31 (w 3 15)) (linked upLink)) ∧
    Goes (exec (.retireAnswer 31 (w 4 15)) retiring) ∧ Goes (exec (.latencyProbe 31 (w 5 0) 65536) (linked upLink)) ∧
    Goes (exec (.probeEcho 31 (w 6 0) 9) coming) ∧ Goes (exec (.laneLossOfSignal 31 15) (linked upLink)) := by
  intro on w retiring coming
  have at' := fun s x (ok : s.Live) => h s 31 x ok
  have judge := fun s (ok : s.Live) => (at' s 0 ok).2.2.1 15 0 true
  refine ⟨⟨_, (at' (linked upLink) (w 1 (15 + 4 * 16)) ?_).1 ?_ ?_ ?_ ?_⟩,
    ⟨_, (at' (on { Lane.initial with asked := some (4, false) }) (w 2 (15 + 4 * 16)) ?_).2.1 false ?_ ?_⟩,
    ⟨_, (judge (on { Lane.initial with judged := some (4, false) }) ?_ ?_ ?_ ?_).1 4 false ?_⟩,
    ⟨_, (judge (linked upLink) ?_ ?_ ?_ ?_).2 ?_⟩, ⟨_, (at' (linked upLink) (w 3 15) ?_).2.2.2.1 ?_ ?_ ?_⟩,
    ⟨_, (at' retiring (w 4 15) ?_).2.2.2.2.1 ?_ ?_⟩, ⟨_, (at' (linked upLink) (w 5 0) ?_).2.2.2.2.2.1 0 65536 ?_ ?_ ?_⟩,
    ⟨_, (at' coming (w 6 0) ?_).2.2.2.2.2.2.1 9 ?_ ?_ ?_⟩, ⟨_, (at' (linked upLink) 0 ?_).2.2.2.2.2.2.2 15 ?_ ?_ ?_ ?_⟩⟩ <;>
  decide +kernel

theorem met_UnitFaultsComplete (h : Obligations.UnitFaultsComplete) :
    let near := with' fun c => { c with buckets := [(unitKey ⟨6, 511⟩, 63)] }
    let known := with' fun c => c.remember ⟨4, 1023⟩ 7
    let open' := with' fun c => { c with windows := [1023] }
    Goes (exec (.faultEvent ⟨11, 3⟩ .atOnce none) ready) ∧ Goes (exec (.faultEvent ⟨6, 511⟩ .one none) ready) ∧
    Goes (exec (.faultEvent ⟨0, 31⟩ .sixteen none) ready) ∧ Goes (exec (.faultEvent ⟨6, 511⟩ .one none) near) ∧
    Goes (exec (.faultEvent ⟨0, 0⟩ .atOnce none) ready) ∧ Goes (exec (.faultEvent ⟨4, 1023⟩ .one (some 7)) known) ∧
    Goes (exec (.faultEvent ⟨4, 1023⟩ .one (some 8)) known) ∧
    Goes (exec (.bucketLeak ⟨6, 511⟩) near) ∧ Goes (exec (.poisonedRead 0 0x7FFFF) (boxed 0 busy)) ∧
    Goes (exec (.calibrationWindowStart 960) ready) ∧ Goes (exec (.calibrationWindowStart 1023) ready) ∧
    Goes (exec (.calibrationWindowStart 960) open') ∧ Goes (exec (.calibrationWindowEnd 1023 true false) open') ∧
    Goes (exec (.channelRetune 95 true true) ready) ∧ Goes (exec (.temperatureHot false 15) ready) ∧
    Goes (exec (.temperatureCool false 15) ready) := by
  intro near known open'
  have at' := fun s (ok : s.Live) => h s ok
  have event := fun s u w (ok : s.Live) => (at' s ok).1 u w
  have start := fun s (ok : s.Live) => (at' s ok).2.2.2.1
  refine ⟨⟨_, ((event ready ⟨11, 3⟩ .atOnce ?_ ?_).1 ?_ ?_).1 ?_⟩, ⟨_, ((event ready ⟨6, 511⟩ .one ?_ ?_).1 ?_ ?_).2.1 ?_ ?_⟩,
    ⟨_, ((event ready ⟨0, 31⟩ .sixteen ?_ ?_).1 ?_ ?_).2.1 ?_ ?_⟩, ⟨_, ((event near ⟨6, 511⟩ .one ?_ ?_).1 ?_ ?_).2.2 ?_ ?_⟩,
    ⟨_, (event ready ⟨0, 0⟩ .atOnce ?_ ?_).2.1 ?_⟩, ⟨_, (event known ⟨4, 1023⟩ .one ?_ ?_).2.2.1 7 ?_⟩,
    ⟨_, (event known ⟨4, 1023⟩ .one ?_ ?_).2.2.2 8 ?_⟩, ⟨_, (at' near ?_).2.1 ⟨6, 511⟩ ?_⟩,
    ⟨_, (at' (boxed 0 busy) ?_).2.2.1 0 0x7FFFF (box 0) (Extent.new false ⟨0, 0⟩) ?_ ?_ ?_ ?_⟩,
    ⟨_, (start ready ?_ 960 ?_).1 ?_ ?_⟩, ⟨_, (start ready ?_ 1023 ?_).2 ?_⟩, ⟨_, (start open' ?_ 960 ?_).2 ?_⟩,
    ⟨_, (at' open' ?_).2.2.2.2.1 1023 true false ?_⟩, ⟨_, (at' ready ?_).2.2.2.2.2.1 95 true true ?_ ?_⟩,
    ⟨_, ((at' ready ?_).2.2.2.2.2.2 false 15).1⟩, ⟨_, ((at' ready ?_).2.2.2.2.2.2 false 15).2⟩⟩ <;> decide +kernel

theorem met_ExtentEventsComplete (h : Obligations.ExtentEventsComplete) :
    let moving (st : MStage) := withInst fun x => { x with
      objs := [{ box 0 with extents := [{ Extent.new false ⟨0, 0⟩ with stage := some st }] }] }
    let at' (tier : Nat) (x : Inst) := with' fun c => c.setInst 0 { x with
      live := true, blocks := 1, pcGroups := 1, objs := [{ box 0 with extents := [Extent.new false ⟨tier, 0⟩] }] }
    let dead (n : Nat) (s : State) : State := { s with chip := { s.chip with retired := (List.range n).map (fun k => ⟨8, k⟩) } }
    let room := { Inst.initial with quotaMod := 10 ^ 12 }
    let small := { Inst.initial with evicting := [1], quotaExp := 10 ^ 12 }
    let far (s : State) : State := { s with chip := { s.chip with cxl := [(0, ⟨4, 0, 0⟩)] } }
    let tight : State := { at' 0 room with chip := { (at' 0 room).chip with retired := (List.range 16).map (fun k => ⟨4, k⟩) } }
    let stale : State := with' fun c => c.setInst 0 { room with
      live := true, blocks := 1, pcGroups := 1, objs := [{ box 0 with extents := [{ Extent.new false ⟨0, 0⟩ with relay := true }] }] }
    Goes (exec .extentAgeTick ready) ∧ Goes (exec (.migrationPanelCopyDone 0 0x40000 0) (moving (.copy 63))) ∧
    Goes (exec (.migrationCommit 0 0x40000 0) (moving .commit)) ∧ Goes (exec (.migrationRelease 0 0x40000 0) (moving .release)) ∧
    Goes (exec (.quotaEvictionTick 0 1) (at' 1 { room with resetting := some ⟨oper 0 [], false⟩ })) ∧
    Goes (exec (.quotaEvictionTick 0 1) (dead 1 (at' 1 room))) ∧ Goes (exec (.quotaEvictionTick 0 1) (dead 8 (at' 1 room))) ∧
    Goes (exec (.quotaEvictionTick 0 0) stale) ∧ Goes (exec (.quotaEvictionTick 0 0) tight) ∧
    Goes (exec (.quotaEvictionTick 0 0) (at' 0 room)) ∧ Goes (exec (.quotaEvictionTick 0 1) (at' 1 { room with evicting := [1] })) ∧
    Goes (exec (.quotaEvictionTick 0 2) (at' 1 { room with overExp := true })) ∧
    Goes (exec (.quotaEvictionTick 0 1) (far (at' 1 small))) ∧ Goes (exec (.quotaEvictionTick 0 1) (at' 1 small)) := by
  intro moving at' dead room small far tight stale
  let o (tier : Nat) : Obj := { box 0 with extents := [Extent.new false ⟨tier, 0⟩] }
  have now := fun s (ok : s.Live) => h s 0 ok
  have tick := fun s tier (ok : s.Live) => (now s ok).2.2.2.2.2 tier
  have plain := fun s tier ok free => (tick s tier ok free).2.2
  have above := fun s tier ok free a b => (plain s tier ok free a b).2.2
  obtain ⟨_, leaves⟩ := found ((above (far (at' 1 small)) 1 (by decide +kernel) (by decide +kernel) (by decide +kernel)
    (by decide +kernel) (by decide +kernel) (by decide +kernel)).2.1 · (by decide +kernel)) (by decide +kernel)
  obtain ⟨g, hg⟩ := Option.isSome_iff_exists.1 (show (tight.chip.excessGroup 0).isSome = true by decide +kernel)
  have two := show ((tight.chip.excessGroup 0).bind (fun g => tight.chip.evictStep 0 0 (some g))).isSome = true by decide +kernel
  rw [hg, Option.bind_some] at two
  obtain ⟨_, goes⟩ := found ((plain tight 0 (by decide +kernel) (by decide +kernel) (by decide +kernel) (by decide +kernel)).1 g ·
    rfl hg) two
  let late : Extent := { Extent.new false ⟨0, 0⟩ with relay := true }
  refine ⟨⟨_, (now ready ?_).1⟩, ⟨_, (now (moving (.copy 63)) ?_).2.1 0x40000 0 63 ?_⟩,
    ⟨_, (now (moving .commit) ?_).2.2.1 0x40000 0 { box 0 with extents := [{ Extent.new false ⟨0, 0⟩ with stage := some .commit }] }
      { Extent.new false ⟨0, 0⟩ with stage := some .commit } ?_ ?_ ?_⟩,
    ⟨_, (now (moving .release) ?_).2.2.2.1 0x40000 0 ?_⟩,
    ⟨_, (now (at' 1 { room with resetting := some ⟨oper 0 [], false⟩ }) ?_).2.2.2.2.1 1 ?_⟩,
    ⟨_, ((tick (dead 1 (at' 1 room)) 1 ?_ ?_).1 (o 1) 0 (Extent.new false ⟨1, 0⟩) ?_).1 ⟨1, 1⟩ 2 ?_⟩,
    ⟨_, ((tick (dead 8 (at' 1 room)) 1 ?_ ?_).1 (o 1) 0 (Extent.new false ⟨1, 0⟩) ?_).2 ?_⟩,
    ⟨_, (tick stale 0 ?_ ?_).2.1 { box 0 with extents := [late] } 0 late ?_ ?_⟩, ⟨_, goes⟩,
    ⟨_, (plain (at' 0 room) 0 ?_ ?_ ?_ ?_).2.1 ?_ ?_⟩, ⟨_, (above (at' 1 { room with evicting := [1] }) 1 ?_ ?_ ?_ ?_ ?_ ?_).1 ?_⟩,
    ⟨_, (above (at' 1 { room with overExp := true }) 2 ?_ ?_ ?_ ?_ ?_ ?_).1 ?_⟩, ⟨_, leaves⟩,
    ⟨_, (above (at' 1 small) 1 ?_ ?_ ?_ ?_ ?_ ?_).2.2 ?_ ?_ ?_⟩⟩ <;> decide +kernel

theorem met_SidebandComplete (h : Obligations.SidebandComplete) :
    let alert := with' fun c => c.setNoticeQ 16 { NoticeQ.initial with entries := [{ (default : NEntry) with severity := 2 }] }
    let dark := supply { Power.initial with inputOk := false }
    Goes (exec (.identity true) ready) ∧ Goes (exec (.serial false) ready) ∧ Goes (exec (.status true) ready) ∧
    Goes (exec (.temps true [1, 2]) ready) ∧ Goes (exec (.power true) ready) ∧ Goes (exec (.rails true) ready) ∧
    Goes (exec .alertResponseAddressRead alert) ∧ Goes (exec .alertResponseAddressRead ready) ∧
    Goes (exec (.i2cPollTimer 3 (List.replicate 4 default) []) ready) ∧ Goes (exec (.i2cPollTimer 3 [default] []) ready) ∧
    Goes (exec (.i2cBusRecovery 3 3) ready) ∧ Goes (exec (.i2cBusRecovery 3 4) ready) ∧ Goes (exec (.i2cBusRecovery 3 0) ready) ∧
    Goes (exec (.identity true) dark) ∧
    Goes (exec .bypass ready) ∧ Goes (exec .idcode ready) ∧ Goes (exec .samplePreload ready) ∧ Goes (exec .extest ready) ∧
    Goes (exec .clamp ready) ∧ Goes (exec (.jtagDebugInstruction 5) ready) := by
  intro alert dark
  obtain ⟨u, d, b, i, p, x, c, j⟩ := h ready rfl
  obtain ⟨u1, _, u3, u4, u5⟩ := u rfl
  obtain ⟨_, a2, _⟩ := (h alert rfl).1 rfl
  obtain ⟨t1, t2, t3, t4, t5, t6⟩ := u1 true [1, 2]
  refine ⟨⟨_, t1⟩, ⟨_, (u1 false []).2.1⟩, ⟨_, t3⟩, ⟨_, t4⟩, ⟨_, t5⟩, ⟨_, t6⟩, ⟨_, a2 ?_⟩, ⟨_, u3 ?_⟩,
    ⟨_, (u4 3 (List.replicate 4 default) [] ?_ ?_).1 ?_⟩, ⟨_, (u4 3 [default] [] ?_ ?_).2 ?_ ?_⟩, ⟨_, (u5 3 3 ?_ ?_).1 ?_⟩,
    ⟨_, (u5 3 4 ?_ ?_).2 ?_⟩, ⟨_, (u5 3 0 ?_ ?_).2 ?_⟩, ⟨_, ((h dark rfl).2.1 rfl true []).1⟩, ⟨_, b⟩, ⟨_, i⟩, ⟨_, p⟩, ⟨_, x⟩,
    ⟨_, c⟩, ⟨_, j 5 ?_⟩⟩ <;> decide +kernel

theorem met_FramesComplete (h : Obligations.FramesComplete) :
    let down := unitIn ⟨1, 1⟩ .disabled
    Goes (exec (.arpRequest 1 none 0 0 0) ready) ∧ Goes (exec (.neighborSolicitation 1 none 0 0 0) ready) ∧
    Goes (exec (.echoRequest 1 frame []) (onUdp id)) ∧ Goes (exec (.unmatchedFrame 1 false) ready) ∧
    Goes (exec (.unmatchedFrame 1 true) ready) ∧ Goes (exec (.feedDatagram 1 frame 9 1024 0 []) ready) ∧
    Goes (exec (.udpSegment 1 frame 9 0 0 []) ready) ∧ Goes (exec (.unmatchedFrame 2 true) ready) ∧
    Goes (exec (.arpRequest 1 none 0 0 0) down) := by
  intro down
  obtain ⟨r, _⟩ := h ready 1 (by decide +kernel)
  obtain ⟨r1, r2, _, r4, r5, r6, r7⟩ := r (by decide +kernel)
  obtain ⟨e, _⟩ := h (onUdp id) 1 (by decide +kernel)
  obtain ⟨_, two⟩ := h ready 2 (by decide +kernel)
  obtain ⟨_, off⟩ := h down 1 (by decide +kernel)
  refine ⟨⟨_, r1 none 0 0 0⟩, ⟨_, r2 none 0 0 0⟩, ⟨_, (e ?_).2.2.1 frame []⟩, ⟨_, r4⟩, ⟨_, r5⟩,
    ⟨_, r6 frame 9 1024 0 [] (fun ok => absurd ok.2.2.1 ?_)⟩, ⟨_, r7 frame 9 0 0 [] (fun ok => absurd ok.2.2.1 ?_)⟩,
    ⟨_, (two ?_).2.2.2.1 true⟩, ⟨_, (off ?_).1 none 0 0 0⟩⟩ <;> decide +kernel

/-- A next state is reached, and it has a property. -/
def reaches (p : State → Bool) : Host.Outcome State Fault Refusal → Bool
  | .next t => p t
  | _ => false

theorem reached {p : State → Bool} {o : Host.Outcome State Fault Refusal} (h : reaches p o = true) :
    ∃ t, o = .next t ∧ p t = true := by
  cases o with
  | next t => exact ⟨t, rfl, h⟩
  | fault f => cases h
  | refused r => cases h

theorem met_SupplyStaysSound (h : Obligations.SupplyStaysSound) :
    ∃ t, Sys2Proof.core.step { ready with pending := [.pwrOkFall] } = .next t ∧ t.power.Sound := by
  obtain ⟨t, ht, _⟩ := reached (p := fun _ => true)
    (show reaches _ (Sys2Proof.core.step { ready with pending := [.pwrOkFall] }) = true by decide +kernel)
  exact ⟨t, ht, h { ready with pending := [.pwrOkFall] } t (by decide +kernel) ht⟩

theorem met_NoCommandTouchesTheQueue (h : Obligations.NoCommandTouchesTheQueue) :
    ∃ t, exec (.nop (mine [])) { ready with pending := [.bypass] } = .next t ∧ t.pending = [.bypass] := by
  obtain ⟨t, ht, _⟩ := reached (p := fun _ => true)
    (show reaches _ (exec (.nop (mine [])) { ready with pending := [.bypass] }) = true by decide +kernel)
  exact ⟨t, ht, h _ _ t ht⟩

theorem met_OnlySupplyCommandsMoveTheSupply (h : Obligations.OnlySupplyCommandsMoveTheSupply) :
    ∃ t, exec (.nop (mine [])) ready = .next t ∧ t.power = ready.power := by
  obtain ⟨t, ht, _⟩ := reached (p := fun _ => true) (show reaches _ (exec (.nop (mine [])) ready) = true by decide +kernel)
  exact ⟨t, ht, h _ _ t rfl ht⟩

theorem met_OnlyTheBootStartsTheModule (h : Obligations.OnlyTheBootStartsTheModule) :
    let cold := supply { Power.initial with phase := .coldReset }
    ∃ t, exec (.coldBoot []) cold = .next t ∧ t.power.phase = .running ∧ ∃ ds, Instr.coldBoot [] = .coldBoot ds := by
  intro cold
  obtain ⟨t, ht, hp⟩ := reached (p := fun t => decide (t.power.phase = .running))
    (show reaches _ (exec (.coldBoot []) cold) = true by decide +kernel)
  exact ⟨t, ht, of_decide_eq_true hp, (h _ cold t (by decide +kernel) ht (of_decide_eq_true hp)).1⟩

theorem met_BrokenSupplyEndsAtPowerOff (h : Obligations.BrokenSupplyEndsAtPowerOff) :
    let lost := supply { Power.initial with broken := true, inputOk := false, rails := 0x7F }
    exec (.nop (mine [])) lost = .fault .supplyUndefined ∧ Goes (exec .pwrOkFall lost) ∧ Goes (exec .powerInputInRange lost) ∧
      Goes (exec .inputLeavesRange lost) :=
  let r := h (.nop (mine [])) _ rfl
  ⟨r.2.2.2 (by decide) (by decide) (by decide), r.2.2.1.elim (fun _ e => ⟨_, e⟩), ⟨_, r.1⟩, ⟨_, r.2.1⟩⟩

/-- An overlapping COPY: 64 bytes from 2000h to 2010h. -/
theorem met_CopyMovesBytes (h : Obligations.CopyMovesBytes) :
    let d := desc [(1, 8), (0x2000, 64), (0x2010, 128), (3, 254), (64, 256)]
    let s := holding work d
    ∃ t, exec (.copy 0 d) s = .next t ∧ t.chip.storeRead 0 0x2010 1 = s.chip.storeRead 0 0x2000 1 ∧
      t.chip.storeRead 0 0x2050 1 = s.chip.storeRead 0 0x2050 1 := by
  intro d s
  obtain ⟨t, ht, _⟩ := reached (p := fun _ => true) (show reaches _ (exec (.copy 0 d) s) = true by decide +kernel)
  have r := (h s t 0 0 d (by decide +kernel) (by decide +kernel) (by decide +kernel) (by decide +kernel) (by decide +kernel)
    ht).1 (by decide +kernel)
  have e1 : refStore 0 (vDst d) = 0 := by decide +kernel
  have e2 : refStore 0 (vSrc d) = 0 := by decide +kernel
  have e3 : refOff (vDst d) = 0x2010 := by decide +kernel
  have e4 : refOff (vSrc d) = 0x2000 := by decide +kernel
  have r1 := r.1 0 (by decide +kernel)
  simp only [e1, e2, e3, e4, Nat.add_zero] at r1
  exact ⟨t, ht, r1, r.2.1 0 0x2050 (.inr (.inr (by decide +kernel)))⟩

/-- A +1 that overflows semaphore 63 of tile 0 for a sender of each kind, an acknowledgement with a fault, and a −1 that a
+1 of the same tc overtakes. -/
theorem met_SignalsStayInRange (h : Obligations.SignalsStayInRange) :
    let l : Launch := { (default : Launch) with cmd := ⟨0, 1, 0⟩, tiles := [0] }
    let u (who : Sender) : Due := ⟨5, 63, 1, who⟩
    let due : List Due := [⟨5, 3, -1, .tile 1 0⟩, ⟨0, 3, 1, .tile 0 0⟩]
    let s := withInst fun x => { x with launches := [l] }
    let c : Chip := { s.chip.setTile 0 { runs with sems := [(63, 65535)], due := due } with acks := [⟨0, 1600, 64, 0x10⟩] }
    ((c.semApply 0 (u (.tile 0 64))).launchBy 0 ⟨0, 1, 0⟩).isSome ∧
    (c.semApply 0 (u (.tile 1 64))).acks.length = c.acks.length + 1 ∧
    (c.semApply 0 (u (.host ⟨0, 1, 0⟩))).queues.length = c.queues.length ∧
    (((c.semApply 0 ⟨5, 63, -1, .tile 1 64⟩).tile 0).sem 63 : Nat) = (65534 : Int) ∧
    Goes (exec (.signalAckReceived 0 1600) { s with chip := c }) ∧
    ∃ vs : List Due, vs.Perm due ∧ vs.Pairwise (fun a b => a.rank ≤ b.rank) := by
  intro l u due s c
  have one := fun who => (h.1 c 0 (u who)).2
  have a := (one (.tile 0 64) (by decide +kernel)).2.1 64 0 ⟨0, 1, 0⟩ l rfl (by decide +kernel) (by decide +kernel) (by decide +kernel)
    (by decide +kernel) (by decide +kernel)
  have b := (one (.tile 1 64) (by decide +kernel)).2.2.1 1 64 rfl (by decide)
  have e := (one (.host ⟨0, 1, 0⟩) (by decide +kernel)).2.2.2 ⟨0, 1, 0⟩ rfl
  have g := ((h.1 c 0 ⟨5, 63, -1, .tile 1 64⟩).1 (by decide +kernel) (by decide +kernel)).1
  obtain ⟨_, k, _⟩ := h.2.1 { s with chip := c } 0 1600 0 ⟨0, 1600, 64, 0x10⟩ ⟨0, 1, 0⟩ l (by decide +kernel) (by decide +kernel)
    (by decide) (by decide +kernel) (by decide +kernel) (by decide +kernel) (by decide +kernel) (by decide +kernel)
  obtain ⟨vs, p, w, _⟩ := h.2.2.1 c 0 (by decide +kernel) (by decide +kernel)
  have hd : (c.tile 0).due = due := by decide +kernel
  refine ⟨by rw [a]; rfl, by rw [b]; simp, by rw [e]; decide +kernel, ?_, ⟨_, k⟩, vs, hd ▸ p, w⟩
  rw [g]; decide +kernel

theorem met_FlipMovesTheLossScale (h : Obligations.FlipMovesTheLossScale) :
    let b : Barrier := { vote := false, round := 0, acc := 0, done := true, entries := [], began := 0 }
    Goes (exec (.flip 0) (teamed [0] { busy with phase := .flip, barrier := some b, voteSet := true, lexp := 0 })) ∧
    Goes (exec (.flip 0) (teamed [0] { busy with phase := .flip, barrier := some b, lexp := 24, clean := 1999 })) := by
  intro b
  have f := fun (j : Job) => h (teamed [0] { j with phase := .flip, barrier := some b }) 0 b
  obtain ⟨_, h1, _⟩ := f { busy with voteSet := true, lexp := 0 } (by decide +kernel) (by decide +kernel) (by decide +kernel) rfl rfl
    (by decide +kernel) (by decide +kernel) (by decide +kernel)
  obtain ⟨_, h2, _⟩ := f { busy with lexp := 24, clean := 1999 } (by decide +kernel) (by decide +kernel) (by decide +kernel) rfl rfl
    (by decide +kernel) (by decide +kernel) (by decide +kernel)
  exact ⟨⟨_, h1⟩, ⟨_, h2⟩⟩

theorem met_BarrierEndsWithEveryFlag (h : Obligations.BarrierEndsWithEveryFlag) :
    ((Barrier.enter true (1 : Double) 0).advance 1 0 (barrierRounds 1 + 1) []).1.done = true ∧
    ∀ flags : Nat → Double, ∃ ts, ((Barrier.enter true (flags 65535) 0).advance 65536 65535 (barrierRounds 65536 + 1) ts).2.1 = [] :=
  ⟨(h 1 0 (fun _ => 1) id true 0 [] (by decide) (by decide) (by decide) (by decide +kernel)).2.1,
   fun flags => ⟨_, (h 65536 65535 flags id true 0 _ (by decide) (by decide) (by decide) (List.Perm.refl _)).2.2.1⟩⟩

theorem met_PackSumFollowsTheOrder (h : Obligations.PackSumFollowsTheOrder) :
    packSum [Machine.Num.zero] = packLoop 0 [Machine.Num.zero] ∧
    packSum (List.replicate 65536 Machine.Num.zero) = packLoop 16 (List.replicate 65536 Machine.Num.zero) :=
  have n := List.length_replicate (n := 65536) (a := Machine.Num.zero)
  ⟨h 0 _ (by decide) (by decide) (by decide), h 16 _ (by omega) (by omega) (by omega)⟩

/-- Three waits on semaphore 63 of which an update by 5 satisfies the first; the third alone would be satisfied too. -/
theorem met_HubWaitsEndInOrder (h : Obligations.HubWaitsEndInOrder) :
    let w (n : Nat) : HostWait := ⟨63, n, ⟨0, 9, 0⟩⟩
    let s := withInst fun x => { x with waits := [w 3, w 4, w 1] }
    let p := mine (le 32 (packed [(1, 0), (63, 40), (5, 64)]))
    let d := ctl 0x78 [(63, 143), (5, 192)]
    let t := holding { s with chip := s.chip.setTile 0 runs } d
    Goes (exec (.hostSignalHub p) s) ∧ Goes (exec (.hostSignalDescriptor 0 d) t) := by
  intro w s p d t
  obtain ⟨a, ha⟩ := Sum.isRight_iff.1 (show ((s.chip.begun 0x56 p).hubAdd p.who (p.bits 45 40)
    (toSigned 32 (p.par 8 4))).isRight = true by decide +kernel)
  obtain ⟨b, hb⟩ := Sum.isRight_iff.1 (show (((t.chip.passFence 0 d).onTile 0 (fun k => { k with unacked := k.unacked + 1 })).hubAdd 0
    (kSem d) (toSigned 32 (kCount d))).isRight = true by decide +kernel)
  have _ := h.1 _ _ _ _ _ _ ha
  exact ⟨⟨_, h.2.1 s p a.1 a.2 (by decide +kernel) (by decide +kernel) (by decide +kernel) (by decide +kernel) ha⟩,
    ⟨_, h.2.2 t 0 0 b.1 d b.2 (by decide +kernel) (by decide +kernel) (by decide +kernel) hb⟩⟩

theorem met_RepeatGoesRound (h : Obligations.RepeatGoesRound) :
    let d := ctl 0x70 []
    let l (iter : Nat) : Loop := { first := 0, past := 64, count := 2, iter := iter, inc1 := 0, inc2 := 0, inc3 := 0 }
    let s (iter pc : Nat) := holding (tiled { runs with zeroed := true, pc := pc, loops := [l iter] }) d
    Goes (exec (.nopDescriptor 0 d) (s 0 0)) ∧ Goes (exec (.nopDescriptor 0 d) (s 1 0)) ∧
    Goes (exec (.nopDescriptor 0 d) (s 1 0xFFF80)) := by
  intro d l s
  have r := fun iter pc => h (s iter pc) 0 0 d (l iter) []
  refine ⟨⟨_, (r 0 0 ?_ ?_ ?_ ?_ ?_ ?_ ?_ ?_ ?_ ?_ ?_ ?_).1 ?_ ?_ ?_⟩, ⟨_, (r 1 0 ?_ ?_ ?_ ?_ ?_ ?_ ?_ ?_ ?_ ?_ ?_ ?_).2.1 ?_ ?_ ?_ ?_⟩,
    ⟨_, (r 1 0xFFF80 ?_ ?_ ?_ ?_ ?_ ?_ ?_ ?_ ?_ ?_ ?_ ?_).2.2 ?_ ?_⟩⟩ <;> decide +kernel

theorem met_CodesSurviveARoundTrip (h : Obligations.CodesSurviveARoundTrip) :
    Fmt.e4m3.convert (Fmt.e4m3.decode 0xFE) = { code := 0xFE } ∧ Fmt.b4.convert (Fmt.b4.decode 0xF) = { code := 0xF } :=
  ⟨h .e4m3 (by decide) 0xFE (by decide) (by decide +kernel), h .b4 (by decide) 0xF (by decide) (by decide +kernel)⟩

/-! Ill-formed commands are refused, boundary ones are not. -/

/-- A command parameter block of one byte on queue 256, and one on a queue that does not exist. -/
def cmd (q kind : Nat) : Icp := { queue := q, version := 0x32, inst := 0, flags := 0, tag := 0, params := [BitVec.ofNat 8 kind] }

/-- The commands that name a queue and no KIND. -/
def icpRows1 : List (Icp → Instr) :=
  [.nop, .openSession, .closeSession, .identify, .readReg, .writeReg, .keyAgree, .attest, .queueCreate, .queueDelete,
   .queueFlush, .noticeAck, .instanceReset, .instanceDestroy, .quotaSet, .guaranteeSet, .alloc, .free, .write, .read,
   .migrate, .fence, .tableCreate, .tableModify, .tableDestroy, .tableLoad, .hotSet, .jobStart, .jobEnd, .launch]
def icpRows2 : List (Icp → Instr) :=
  [.stepClose, .publish, .releaseSnapshot, .groupSet, .groupClear, .unitDisable, .unitEnable, .unitRetire, .countersRead,
   .debugOpen, .debugClose, .configRead, .configWrite, .configCommit]
def icpRows : List (Icp → Instr) := icpRows1.append icpRows2

/-- The commands with a KIND, OP or MODIFY in byte 0, and its value. -/
def kindRows : List ((Icp → Instr) × Nat) :=
  [(.moduleResetWarm, 0), (.moduleResetCold, 1), (.instanceCreate, 0), (.instanceModify, 1), (.hostSignalTile, 0),
   (.hostSignalHub, 1), (.hostSignalWait, 2), (.hostSignalRead, 3), (.bruinSetJob, 0), (.bruinSetRegister, 1),
   (.bruinSetChange, 2), (.bruinSetRemove, 3), (.bruinSetStatus, 4)]

theorem wf_icp : icpRows.all (fun f => (f (cmd 256 0)).wf && !(f (cmd 257 0)).wf) = true := by decide +kernel

theorem wf_kind : kindRows.all (fun f => (f.1 (cmd 256 f.2)).wf && !(f.1 (cmd 257 f.2)).wf &&
    !(f.1 (cmd 256 (f.2 + 3))).wf) = true := by decide +kernel

/-- PIN with VALUE in byte 16. -/
theorem wf_pin : [((.pin : Icp → Instr), 1), (.unpin, 0)].all (fun f =>
    (f.1 (mine (le 20 (f.2 * 2 ^ 128)))).wf && !(f.1 (mine (le 20 ((1 - f.2) * 2 ^ 128)))).wf &&
      !(f.1 { mine (le 20 (f.2 * 2 ^ 128)) with queue := 257 }).wf) = true := by decide +kernel

/-- The descriptors and their OP. -/
def descRows1 : List ((Nat → Desc → Instr) × Nat) :=
  [(.copy, 0), (.copy2d, 1), (.fill, 2), (.gather, 3), (.scatter, 4), (.stashPut, 5), (.stashGet, 6), (.matmul, 0x10),
   (.matmulBt, 0x11), (.matmulSplit, 0x12), (.vadd, 0x20), (.vsub, 0x21), (.vmul, 0x22), (.vfma, 0x23), (.vmax, 0x24),
   (.vmin, 0x25), (.vneg, 0x26), (.vabs, 0x27), (.vrelu, 0x28), (.vclamp, 0x29), (.vselect, 0x2A), (.vrecip, 0x2B)]
def descRows2 : List ((Nat → Desc → Instr) × Nat) :=
  [(.vrsqrt, 0x2C), (.vexp, 0x2D), (.vlog, 0x2E), (.vtanh, 0x2F), (.vsigmoid, 0x30), (.vgelu, 0x31), (.vsumRow, 0x32),
   (.vmaxRow, 0x33), (.vamaxRow, 0x34), (.vrand, 0x35), (.vrandBits, 0x36), (.cvt, 0x40), (.scalePass, 0x41),
   (.cvtGrad, 0x42), (.lookup, 0x50), (.rowGrad, 0x51), (.nopDescriptor, 0x70), (.repeatSpan, 0x71), (.wait, 0x72)]
def descRows3 : List ((Nat → Desc → Instr) × Nat) :=
  [(.signal, 0x73), (.branchSem, 0x74), (.jump, 0x75), (.fenceDescriptor, 0x76), (.stepCloseDescriptor, 0x77),
   (.hostSignalDescriptor, 0x78), (.endProgram, 0x7F)]
def descRows : List ((Nat → Desc → Instr) × Nat) := (descRows1.append descRows2).append descRows3

def collRows : List ((Nat → Desc → Instr) × Nat) :=
  [(.collAllReduce, 0), (.collReduceScatter, 1), (.collAllGather, 2), (.collBroadcast, 3), (.collBarrier, 4),
   (.collAllToAll, 5), (.collAllToAllV, 6), (.collSplitOpen, 7)]

theorem wf_desc : descRows.all (fun f => (f.1 1599 (ctl f.2 [])).wf && !(f.1 1600 (ctl f.2 [])).wf &&
    !(f.1 0 (ctl 0x7E [])).wf) = true := by decide +kernel

theorem wf_coll : collRows.all (fun f => (f.1 1599 (coll f.2 [])).wf && !(f.1 1600 (coll f.2 [])).wf &&
    !(f.1 0 (coll (f.2 + 8) [])).wf && !(f.1 0 (ctl 0x50 [(f.2, 408)])).wf) = true := by decide +kernel

/-- The rows whose one checked operand is a number, with the first number out of range. -/
def numRows1 : List ((Nat → Instr) × Nat) :=
  [((.slotWrite .pcie · 0 0), 257), ((.doorbell .pcie · 0), 257), ((.doorbellFlush .pcie · 0), 257),
   ((.completionHeadWrite .pcie · 0), 257), ((.feedStreamEnable · 0), 32), ((.feedStreamDisable · 0), 32),
   ((.feedTailWrite · 0), 32), ((.feedDatagram · frame 0 0 0 []), 2), (.feedInterruptTimer, 32), ((.udpSegment · frame 0 0 0 []), 2),
   ((.udpPartialTimeout · 0), 257), (.udpNoticeResend, 257), (.owlItemStart, 257), (.noticeDeliver, 17),
   (.instanceResetDrainEnd, 16), ((.launchStart · 0 0), 16), ((.launchStart 0 0 ·), 257), (.stepCloseEffect, 16)]
def numRows2 : List ((Nat → Instr) × Nat) :=
  [((.descriptorComplete · 0), 1600), ((.descriptorComplete 0 ·), 4), (.programEnd, 1600), ((.semaphoreSignalReceived · 1600), 1600),
   ((.semaphoreSignalReceived 0 ·), 1601), ((.signalAckReceived · 1600), 1600), ((.signalAckReceived 0 ·), 1601), (.waitRelease, 1600), (.tileClockGate, 1600), (.engineClockGate, 29), (.voteComplete, 16),
   ((.rowApply · 0 0), 16), ((.rowApply 0 · 0), 24), ((.logEntriesFree · 0 0), 16), ((.logEntriesFree 0 · 0), 24),
   (.flipBarrierEnter, 16), (.flip, 16), ((.denseSwap · 0), 16), (.bruinProgramStart, 16), (.bruinStageComplete, 16)]
def numRows3 : List ((Nat → Instr) × Nat) :=
  [(.bruinShardCommit, 16), (.updateCoreUpset, 64), ((.engineRequestMessage · []), 24), ((fun k => .engineRequestMessage 23 [(k, default)]), 32),
   ((.hotRowValueReceived · 0 0 []), 16), ((.replicaSlotWrite · 0 0 []), 16), (.collComplete, 1024), (.holdTokenTimer, 16),
   ((.groupTimeout · 0), 1024), (.timeProbeTimer, 16), ((.fabricPacketReceived · 0 []), 32), (.retryRepeatTimer, 32),
   ((.flitGroupReceived · 0 0 true), 32), ((.flitGroupReceived 0 · 0 true), 512), ((.flitGroupReceived 0 0 · true), 65)]
def numRows4 : List ((Nat → Instr) × Nat) :=
  [(.alignmentSearchTimeout, 32), ((.tapRequest · 0), 32), ((.tapAnswer · 0), 32), ((.tapStepEvaluate · 0 0 true), 32),
   ((.tapStepEvaluate 0 · 0 true), 16), ((.laneRetire · 0), 32), ((.retireAnswer · 0), 32), ((.latencyProbe · 0 0), 32),
   ((.probeEcho · 0 0), 32), ((.trainingWordsReceived · default), 32), (.linkTrainingDone, 32), (.fastRetrain, 32),
   ((.laneLossOfSignal · 0), 32), ((.laneLossOfSignal 0 ·), 16), (.linkShutdownComplete, 32), ((.poisonedRead · 0), 16)]
def numRows5 : List ((Nat → Instr) × Nat) :=
  [((.quotaEvictionTick · 0), 16), ((.quotaEvictionTick 0 ·), 3), ((.migrationPanelCopyDone · 0 0), 16),
   ((.migrationCommit · 0 0), 16), ((.migrationRelease · 0 0), 16), (.calibrationWindowStart, 1024),
   ((.calibrationWindowEnd · true true), 1024), ((.channelRetune · true true), 96), ((.i2cPollTimer · [] []), 4),
   ((.i2cBusRecovery · 0), 4), (.msixPendingSend, 257), ((.flushingReadComplete · 0), 257), (.linkDown, 32),
   (.linkSignalDetect, 32), ((.dataMoveComplete · 0 []), 257), ((.pcieRequestFailure · 0), 257)]
def numRows6 : List ((Nat → Instr) × Nat) :=
  [((.arpRequest · none 0 0 0), 2), ((fun v => .arpRequest 1 (some v) 0 0 0), 4096), ((.neighborSolicitation · none 0 0 0), 2),
   ((fun v => .neighborSolicitation 1 (some v) 0 0 0), 4096), ((.echoRequest · frame []), 2), ((.unmatchedFrame · true), 2)]
def numRows : List ((Nat → Instr) × Nat) := ((((numRows1.append numRows2).append numRows3).append numRows4).append numRows5).append numRows6

theorem wf_num : numRows.all (fun f => (f.1 (f.2 - 1)).wf && !(f.1 f.2).wf) = true := by decide +kernel

/-- Units by class, flits by length, register accesses by path, place and size. -/
theorem wf_rest :
    ([(0, 32), (1, 2), (2, 4), (3, 1600), (4, 1024), (5, 96), (6, 512), (7, 16), (8, 8), (9, 64), (10, 4), (11, 4), (12, 0)].all
      (fun (u : Nat × Nat) => [(.unitShutdownComplete · : UnitId → Instr), (.unitEnablingComplete · default), (.faultEvent · .one none),
        .bucketLeak].all (fun f => (u.2 = 0 || (f ⟨u.1, u.2 - 1⟩).wf) && !(f ⟨u.1, u.2⟩).wf))) = true ∧
    [(.dataFlit : Nat → List Byte → Instr), .idleFlit, .retry].all (fun f => (f 31 (List.replicate 256 0)).wf &&
      !(f 32 (List.replicate 256 0)).wf && !(f 31 (List.replicate 255 0)).wf) = true ∧
    ([(4, 4, true), (0, 4, false), (4, 8, false), (6, 4, false)].all (fun (x : Nat × Nat × Bool) =>
      (Instr.registerUpperHalfRead .bar0 x.1 x.2.1).wf == x.2.2 && (Instr.registerUpperHalfWrite .bar0 x.1 x.2.1 0).wf == x.2.2 &&
      (Instr.registerLowerHalfRead .bar0 x.1 x.2.1).wf == !x.2.2)) = true ∧
    ([Path.core 15, .core 16].map (fun p => (Instr.registerLowerHalfRead p 0 8).wf && (Instr.registerLowerHalfWrite p 0 4 0).wf &&
      (Instr.registerUpperHalfRead p 4 4).wf && (Instr.registerUpperHalfWrite p 4 4 0).wf && (Instr.registerWrite p 0 8 0).wf)) =
      [true, false] ∧
    (Instr.registerLowerHalfRead .bar2 0 0).wf = false ∧ (Instr.registerLowerHalfRead .bar2 0 9).wf = false ∧
    (Instr.registerLowerHalfWrite .bar2 0 5 0).wf = false ∧ (Instr.registerWrite .bar2 0 9 0).wf = false ∧
    (Instr.engineRequestMessage 0 [(0, { (default : ReqMsg) with records := List.replicate 29 default })]).wf = false := by
  decide +kernel

/-! Small steps and helpers against the manual's own figures. -/

/-- The check value of R48, over the ASCII string 123456789. -/
theorem test_crc32c : crc32c [0x31,0x32,0x33,0x34,0x35,0x36,0x37,0x38,0x39] = 0xE3069283 := by decide +kernel

/-- The table "Worked conversions from F32" (R116 to R121). -/
theorem test_conversions :
    [(Fmt.e4m3, (0x3E99999A : Word)), (.e4m3, 0x43EB0000), (.e4m3, 0x3A83126F), (.e4m3, 0x3A6BEDFA), (.e2m1, 0xC0200000),
      (.b4, 0x3E99999A), (.e4m3, 0x7FC00000), (.b4, 0x7FC00000)].map (fun x => x.1.convert (f32 x.2)) =
    [⟨0x2A, false, false⟩, ⟨0x7E, true, false⟩, ⟨1, false, false⟩, ⟨0, false, false⟩, ⟨0xC, false, false⟩, ⟨0xB, false, false⟩,
      ⟨0x7F, false, true⟩, ⟨7, false, true⟩] := by decide +kernel

/-- The table "Worked scale sets" (R132): E4M3, A8 and B4 lines, the panel exponent, then CODE and Z of each line. -/
theorem test_scale_sets :
    groupScales .e4m3 [[f32 0x40480000], [f32 0x3F040000], [f32 0x414C0000], [f32 0x3BC80000]] =
      (-13, [(0x67, 0), (0x52, 0), (0x77, 0), (0x1F, 0)]) ∧
    groupScales .a8 [[f32 0xBF400000, f32 0x40100000]] = (-15, [(0x7D, 0x3B)]) ∧
    groupScales .b4 [[f32 0x3F4C0000], [f32 0x3F000000]] = (-9, [(0x7D, 0), (0x78, 0)]) := by decide +kernel

/-- "One error term across a skipped step": codes and terms of steps 2,416 and 2,418 (R138, R139). -/
theorem test_error_terms :
    let a := gradElem 17 (Num.pow2 (-4)) false (f32 0x40560000)
    let b := gradElem 16 (Num.pow2 (-5)) false (f32 0x3FCE0000)
    (a.cv.code, a.term, b.cv.code, b.term) = (0x65, 0x3540, 0x65, 0xB480) := by decide +kernel

/-- VLOG of −1 and +0, VRECIP of −0 (R108). -/
theorem test_special_operands : (quarterOp 0x2E 0xBF800000).1.isNan = true ∧ (quarterOp 0x2E 0).1 = .inf true ∧
    (quarterOp 0x2B 0x80000000).1 = .inf true := by decide +kernel

/-- VMAX treats −0 as less than +0 and returns NaN for NaN (R109). -/
theorem test_vmax : ((f32 0x80000000).max (f32 0)).signed = false ∧ ((f32 0x7FC00000).max (f32 0)).isNan = true := by
  decide +kernel

/-- "Where one Alder row lives": row 123,456,789 of table 57 (R187). -/
theorem test_row_place :
    rowPlace (BitVec.ofNat 512 (packed [(2, 16), (624, 112), (800000000, 256), (4242, 320), (791083, 384)])) 256 123456789 =
      (112, 559914) := by decide +kernel

/-- LENGTH less its 16 header bytes, of QUEUE_DELETE, UNIT_DISABLE, QUEUE_CREATE, JOB_START and both WRITEs (R64). -/
theorem test_lengths :
    (mine []).wanted 0x11 = 4 ∧ (mine []).wanted 0x70 = 4 ∧ (mine []).wanted 0x10 = 28 ∧ (mine []).wanted 0x50 = 20 ∧
    (mine (le 24 (2 ^ 96))).wanted 0x32 = 24 ∧ (mine (le 16 (4096 * 2 ^ 64))).wanted 0x32 = 4112 := by decide +kernel

/-- "A flush during a 74-slot item", cut to two slots: they go, WEPOCH and TORN rise, and a slot of the old WEPOCH counts as
stale (R56, R57, R60). -/
theorem test_flush :
    let slot (k : Nat) : BitVec 512 := 1#512 <<< 480 ||| BitVec.ofNat 512 (k * 2 ^ 224 * 2 ^ 224)
    let c := ((ready.chip.landSlot .pcie 0 0 (slot 0)).landSlot .pcie 0 1 (slot 1)).ringDoorbell .pcie 0 0x0001800000000000
    let d := c.landSlot .pcie 0 2 (slot 2)
    ((c.queue 0).landed, (c.queue 0).wepoch, (c.queue 0).torn, (c.queue 0).stale, (d.queue 0).stale) = ([], 2, 1, 0, 1) ∧
      (c.noticeQ 0).entries.map (fun e => (e.subject, e.detail.toNat / 2 ^ 47)) = [(0, 2 * 2 + 1)] := by decide +kernel

/-- SIGNAL to a tile of another instance faults with FOREIGN_TILE; the launch's error word names the tile (R96, R234). -/
theorem test_foreign_tile :
    let l : Launch := { (default : Launch) with cmd := ⟨0, 1, 0⟩, tiles := [0], started := true }
    let d := ctl 0x73 [(4, 149), (1, 192)]
    let s := withInst fun x => { x with launches := [l] }
    reaches (fun t => (t.chip.launchBy 0 ⟨0, 1, 0⟩).any (fun l => l.fault.map (·.1) = some (errorWord 0 0 caForeignTile)) &&
      decide ((t.chip.tile 0).run = .stopping)) (exec (.signal 0 d) (holding { s with chip := s.chip.setTile 0 runs } d)) = true := by
  decide +kernel

/-- NOP is answered with its TAG and OK, one slot on (R59, R64). -/
theorem test_nop : reaches (fun t => (t.chip.queue 0).cWrite == 1 && t.chip.started.isEmpty) (exec (.nop (mine [])) ready) = true := by
  decide +kernel

/-- An instance may not write another's registers (R76). -/
theorem test_tenant_write : reaches (fun t => decide (t.chip.side = ready.chip.side) && (t.chip.queue 17).stale == 5)
    (exec (.writeReg (mine (le 24 (0x4118 + 2 ^ 64 * (2 ^ 64 - 1) + 2 ^ 128 * (2 ^ 64 - 1)))))
      (with' fun c => c.setQueue 17 { Queue.initial 17 with stale := 5 })) = true := by decide +kernel

/-- An empty queue idles (log 12), and a rise of PWR_OK at a good input starts cold reset (R402). -/
theorem test_step : step State.reset = .next State.reset ∧ reaches (fun t => decide (t.power.phase = .coldReset ∧ t.pending = []))
    (step { supply { Power.initial with phase := .off, pwrOk := false, rails := 0x80 } with pending := [.pwrOkRise] }) = true :=
  ⟨rfl, by decide +kernel⟩

end Sys2Proof.Tests
end

namespace Sys2Proof.Machine

/-! What the instances of a chip hold (R82, R348). -/

theorem Chip.liveInsts_eq_nil {c : Chip} (h : ∀ i, (c.inst i).live = false) : c.liveInsts = [] := by
  simp [Chip.liveInsts, h]

theorem Chip.ownsTile_eq_false {c : Chip} {i : Nat} (t : Nat) (h : (c.inst i).live = false) : c.ownsTile i t = false := by
  simp [Chip.ownsTile, h]

theorem Chip.ownerOf_eq_none {c : Chip} (h : ∀ i, (c.inst i).live = false) (t : Nat) : c.ownerOf t = none := by
  simp [Chip.ownerOf, Chip.ownsTile_eq_false t (h _)]

/-! The module as shipped, after its first boot (R9, R393, R411). -/

theorem Power.initial_sound : Power.initial.Sound := by
  have allRails : Power.initial.rails &&& 0x7F = 0x7F := by decide
  exact .inr ⟨rfl, nofun, fun _ => ⟨allRails, rfl, rfl, rfl⟩, fun _ => rfl, nofun⟩

theorem State.reset_live : State.reset.Live := ⟨rfl, rfl⟩

theorem Chip.initial_inst_live (i : Nat) : (Chip.initial.inst i).live = false := by
  have noInst : Chip.initial.inst i = Inst.initial := tget_nil Inst.initial i
  rw [noInst]; rfl

/-- Settles O45: the supply's five clauses one by one; no tile has an owner because no instance is live. -/
theorem supplySoundAtReset : Obligations.SupplySoundAtReset :=
  ⟨Power.initial_sound, State.reset_live, rfl, Chip.liveInsts_eq_nil Chip.initial_inst_live, rfl,
    Chip.ownerOf_eq_none Chip.initial_inst_live⟩

end Sys2Proof.Machine

namespace Sys2Proof.Machine

/-- A live module carries an effect out: what the effect comes to on its chip is the next state's chip. -/
theorem onChip_to {s : State} (live : s.Live) {f : Chip → Chip} {d : Chip} (e : f s.chip = d) :
    onChip s f = .next { s with chip := d } := by
  rw [onChip_live live, e]

/-! The boots and resets (R329, R390, R393, R394, R402). -/

/-- A MODULE_RESET of a booted module that runs now, by its KIND: the reply, then the warm reset, or the cold one held. -/
theorem moduleResetRow_of_runs {s : State} (live : s.Live) {p : Icp} (r : s.chip.runs 0x93 p = true) :
    let c := (s.chip.begun 0x93 p).reply p.queue p.tag stOK 0 0 []
    (p.par 0 1 = 0 → moduleResetRow p s = .next { s with chip := c.warmReset p }) ∧
    (p.par 0 1 = 1 → moduleResetRow p s = .next (({ s with chip := c } : State).holdReset 1)) := by
  rw [moduleResetRow, onPins_sound live.1, if_pos live.2]
  dsimp only [State.moduleReset]
  rw [run_of_runs r, r]
  exact ⟨fun warm => by simp [Chip.settle, warm], fun cold => by simp [Chip.settle, cold]⟩

/-- Settles O4: command by command; each pin or boot row is `onPins` or `onChip` of a sound supply, and MODULE_RESET is the
reply followed by its KIND's reset. -/
theorem bootAndResetComplete : Obligations.BootAndResetComplete := by
  intro s sound
  refine ⟨fun ds waits free => ?_, fun ds holds => ?_, fun other waits => ?_, fun other on first => ?_, fun alone => ?_,
    fun on => ?_, fun on up => ?_, fun on down => ?_, fun p on r => ?_⟩
  · exact (onPins_sound sound _).trans (by simp [waits, free])
  · refine (onPins_sound sound _).trans ?_
    rcases holds with away | held
    · simp [away]
    · simp [held]
  · show execIboonReadyTimeout s = _
    simp [execIboonReadyTimeout, onPins_sound sound, other, waits]
  · show execIboonReadyTimeout s = _
    simp [execIboonReadyTimeout, onPins_sound sound, other, on, first]
  · show execIboonReadyTimeout s = _
    simp [execIboonReadyTimeout, onPins_sound sound, alone]
  · have down := onChip_live ⟨sound, on⟩ (fun c => { c with pcie := c.pcie.down })
    exact ⟨down, down⟩
  · show execPcieLinkReturn s = _
    exact onChip_to ⟨sound, on⟩ (if_pos up)
  · show execPcieLinkReturn s = _
    exact onChip_to ⟨sound, on⟩ (if_neg (by simp [down]))
  · exact moduleResetRow_of_runs ⟨sound, on⟩ r

end Sys2Proof.Machine

namespace Sys2Proof.Machine

/-! Slots, doorbells and completion heads (R56 to R58, R60, R324). -/

/-- A queue that takes slots and doorbells: it exists and no reset fences it (R66, R80). -/
abbrev Chip.TakesWrites (c : Chip) (q : Nat) : Prop :=
  q ≤ 256 ∧ (c.queue q).depthLog2 ≠ 0 ∧ (c.queue q).fenced = false

section
variable {s : State} {r : Route} (live : s.Live) (near : s.chip.reaches r = true) {q : Nat} {d : Chip}
include live near

/-! A host's write that reaches the function of a live module lands (R325). -/

theorem slotWrite_reached {pos : Nat} {x : BitVec 512} (e : s.chip.landSlot r q pos x = d) :
    exec (.slotWrite r q pos x) s = .next { s with chip := d } := onChip_to live ((if_pos near).trans e)

theorem doorbell_reached {v : Double} (e : s.chip.ringDoorbell r q v = d) :
    exec (.doorbell r q v) s = .next { s with chip := d } := onChip_to live ((if_pos near).trans e)

theorem doorbellFlush_reached {v : Double} (e : s.chip.ringDoorbell r q (v ||| BitVec.ofNat 64 (2 ^ 47)) = d) :
    exec (.doorbellFlush r q v) s = .next { s with chip := d } := onChip_to live ((if_pos near).trans e)

theorem completionHeadWrite_reached {v : Double} (e : s.chip.writeHead r q (bits v.toNat 11 0) = d) :
    exec (.completionHeadWrite r q v) s = .next { s with chip := d } := onChip_to live ((if_pos near).trans e)

end

/-- A slot write by another route counts as stale (R57). -/
theorem landSlot_of_other_route {c : Chip} {r : Route} {q : Nat} (open' : c.TakesWrites q) (notUdp : r ≠ .udp)
    (other : (c.queue q).route ≠ r) (pos : Nat) (x : BitVec 512) :
    c.landSlot r q pos x = c.setQueue q ((c.queue q).addStale 1) := by
  obtain ⟨num, ex, _⟩ := open'
  simp [Chip.landSlot, Nat.not_lt.2 num, ex, notUdp, other]

/-- A slot write by the queue's own route, at a position of its ring: on the on-die route its bytes stand in the host
region; then WEPOCH decides, then whether an item holds the position, then END (R56, R57). -/
theorem landSlot_of_own_route {c : Chip} {r : Route} {q pos : Nat} (open' : c.TakesWrites q) (notUdp : r ≠ .udp)
    (own : (c.queue q).route = r) (inRing : pos < (c.queue q).depth) (x : BitVec 512) :
    let u := c.queue q
    let d := if r = .onDie then c.hostWrite (u.ring + 64 * pos) (leBytes 64 x.toNat) else c
    let v : Queue := { u with slots := tput u.slots pos x }
    let w : Queue := { v with landed := if u.landed.contains pos then u.landed else u.landed ++ [pos] }
    c.landSlot r q pos x =
      if slotEpoch x ≠ u.wepoch.toNat then d.setQueue q (u.addStale 1)
      else if u.inItem pos then d.setQueue q v
      else if slotEnd x then (d.setQueue q w).endSlot q pos else d.setQueue q w := by
  obtain ⟨num, ex, free⟩ := open'
  simp [Chip.landSlot, Nat.not_lt.2 num, ex, notUdp, own, Nat.not_le.2 inRing, free]

/-- An END slot commits its item where every slot from the end of the last one on has landed, in order and with the queue's
WEPOCH (R56). -/
theorem endSlot_of_whole {c : Chip} {q pos n : Nat} {w : Queue} (count : n = (pos + w.depth - w.committed) % w.depth + 1)
    (whole : ∀ k < n, w.landed.contains ((w.committed + k) % w.depth) = true ∧
      slotIndex (w.slot ((w.committed + k) % w.depth)) = k ∧
      slotEpoch (w.slot ((w.committed + k) % w.depth)) = w.wepoch.toNat) :
    (c.setQueue q w).endSlot q pos = c.setQueue q
      { w with landed := w.landed.filter (fun p => !(w.span w.committed n).contains p), committed := (pos + 1) % w.depth
               items := w.items ++ [{ start := w.committed, count := n, udp := none }] } := by
  have good : (List.range n).all (fun k => w.landed.contains ((w.committed + k) % w.depth) &&
      slotIndex (w.slot ((w.committed + k) % w.depth)) = k &&
      slotEpoch (w.slot ((w.committed + k) % w.depth)) = w.wepoch.toNat) = true := by
    refine List.all_eq_true.2 fun k hk => ?_
    obtain ⟨landed, index, epoch⟩ := whole k (List.mem_range.1 hk)
    rw [landed, index, epoch]; simp
  unfold Chip.endSlot
  simp only [Chip.setQueue_queue_self, ← count, Chip.setQueue_setQueue]
  rw [if_pos good]

/-- A doorbell at a queue that takes one: the route and WEPOCH decide, then FLUSH, then TAIL (R58, R60). -/
theorem ringDoorbell_of_open {c : Chip} {q : Nat} (open' : c.TakesWrites q) (r : Route) (v : Double) :
    let u := c.queue q
    c.ringDoorbell r q v =
      if u.route ≠ r ∨ v.extractLsb' 48 16 ≠ u.wepoch then c.setQueue q (u.addStale 1)
      else if v.getLsbD 47 then (c.flush q).1
      else if u.depth ≤ bits v.toNat 11 0 then c.setQueue q (u.addStale 1)
      else c.setQueue q { u with tail := bits v.toNat 11 0 } := by
  obtain ⟨num, ex, free⟩ := open'
  by_cases own : (c.queue q).route = r <;> simp [Chip.ringDoorbell, Nat.not_lt.2 num, ex, free, own]

/-- Setting FLUSH leaves WEPOCH of a doorbell as it is, and sets it. -/
theorem doorbell_or_flush (v : Double) :
    (v ||| BitVec.ofNat 64 (2 ^ 47)).extractLsb' 48 16 = v.extractLsb' 48 16 ∧
    (v ||| BitVec.ofNat 64 (2 ^ 47)).getLsbD 47 = true := by
  refine ⟨?_, by simp⟩
  have apart : (BitVec.ofNat 64 (2 ^ 47)).extractLsb' 48 16 = 0#16 := by decide
  rw [BitVec.extractLsb'_or, apart, BitVec.or_zero]

/-- A completion head below the depth, by its queue's route, where no reply is owed (R324). -/
theorem writeHead_of_own_route {c : Chip} {r : Route} {q head : Nat} (open' : c.TakesWrites q) (notUdp : r ≠ .udp)
    (own : (c.queue q).route = r) (inRing : head < (c.queue q).depth) (paid : (c.queue q).owed = []) :
    c.writeHead r q head = c.setQueue q { c.queue q with cHead := head } := by
  obtain ⟨num, ex, _⟩ := open'
  rw [← payOwed_nil q 4096 (c := c.setQueue q { c.queue q with cHead := head }) (by simpa using paid)]
  simp [Chip.writeHead, Nat.not_lt.2 num, ex, notUdp, own, Nat.not_le.2 inRing]

/-- Settles O5: D3hot keeps every write out; else each clause is one branch of the slot's, the doorbell's or the head's
landing. -/
theorem slotAndDoorbellWritesComplete : Obligations.SlotAndDoorbellWritesComplete := by
  intro s r q live num ex free u stale
  have open' : s.chip.TakesWrites q := ⟨num, ex, free⟩
  refine ⟨fun away => ?_, fun near => ⟨fun pos x notUdp other => ?_, fun pos x notUdp own inRing => ?_, fun v wrong => ?_,
    fun v own epoch noFlush => ?_, fun v own epoch => ?_, fun v notUdp own inRing paid => ?_⟩⟩
  · have kept {d : Chip} : (if s.chip.reaches r then d else s.chip) = s.chip := if_neg (by simp [away])
    exact ⟨fun _ _ => onChip_to live kept, fun _ => ⟨onChip_to live kept, onChip_to live kept, onChip_to live kept⟩⟩
  · exact slotWrite_reached live near (landSlot_of_other_route open' notUdp other pos x)
  · have lands := landSlot_of_own_route open' notUdp own inRing x
    refine ⟨fun epoch => ?_, fun epoch held => ?_, fun epoch clear more => ?_, fun epoch clear last => ?_⟩
    · exact slotWrite_reached live near (lands.trans (if_pos epoch))
    · exact slotWrite_reached live near (lands.trans ((if_neg (not_not_intro epoch)).trans (if_pos held)))
    · exact slotWrite_reached live near (lands.trans ((if_neg (not_not_intro epoch)).trans
        ((if_neg (Bool.eq_false_iff.1 clear)).trans (if_neg (Bool.eq_false_iff.1 more)))))
    · intro n whole
      exact slotWrite_reached live near (lands.trans ((if_neg (not_not_intro epoch)).trans
        ((if_neg (Bool.eq_false_iff.1 clear)).trans ((if_pos last).trans (endSlot_of_whole rfl whole)))))
  · exact doorbell_reached live near ((ringDoorbell_of_open open' r v).trans (if_pos wrong))
  · have rings := (ringDoorbell_of_open open' r v).trans ((if_neg (not_or.2 ⟨not_not_intro own, not_not_intro epoch⟩)).trans
      (if_neg (Bool.eq_false_iff.1 noFlush)))
    exact ⟨fun fits => doorbell_reached live near (rings.trans (if_neg (Nat.not_le.2 fits))),
      fun above => doorbell_reached live near (rings.trans (if_pos above))⟩
  · obtain ⟨same, flush⟩ := doorbell_or_flush v
    exact doorbellFlush_reached live near ((ringDoorbell_of_open open' r _).trans
      ((if_neg (not_or.2 ⟨not_not_intro own, not_not_intro (same.trans epoch)⟩)).trans (if_pos flush)))
  · exact completionHeadWrite_reached live near (writeHead_of_own_route open' notUdp own inRing paid)

end Sys2Proof.Machine

namespace Sys2Proof.Machine

/-! Items that Owl starts, and notices (R59, R72). -/

section
variable {c : Chip} {q : Nat} {i : Item} {rest : List Item} (first : (c.queue q).items = i :: rest)
include first

/-- An item whose command the judge lets through starts, and its SEC tag is noted (R59, R363). -/
theorem startItem_of_accepted (fine : (c.judge q i).2.2 = none) :
    let d : Chip := { c.setQueue q { c.queue q with items := rest } with lastStarted := q }
    let p := (c.judge q i).2.1
    c.startItem q = (d.noteSec p).enter (c.judge q i).1 p i.msg false := by
  unfold Chip.startItem
  simp [first, fine]

/-- An item that the judge refuses is answered, and its SEC tag noted where its packet was whole (R59, R363). -/
theorem startItem_of_refused {r : Nat × Nat} (refused : (c.judge q i).2.2 = some r) :
    let d : Chip := { c.setQueue q { c.queue q with items := rest } with lastStarted := q }
    let p := (c.judge q i).2.1
    c.startItem q = (if r.1 = stBadLength ∨ r.1 = stCrcError then d else d.noteSec p).answer p (c.judge q i).1 i.msg
      (c.sessionOf p) r.1 r.2 0 [] := by
  unfold Chip.startItem
  simp [first, refused]

end

/-- A notice queue whose session owes nothing sent before sends its oldest entry not yet sent (R72). -/
theorem deliverNotice_of_unsent {c : Chip} {nq q : Nat} {ses : Session} {e : NEntry}
    (taken : (c.noticeQ nq).receiver.bind c.session = some ses) (lowest : ses.noticeQueue = some q)
    (can : c.canDeliver q ses = true)
    (settled : (c.noticeQ nq).entries.find? (fun e => e.sent.any (fun p => !(c.noticeQ nq).deliveredNow.contains p.1)) = none)
    (next : (c.noticeQ nq).entries.find? (·.sent.isNone) = some e) :
    let n := c.noticeQ nq
    c.deliverNotice nq = (c.setNoticeQ nq
      { n with entries := modFirst (·.sent.isNone) (fun e => { e with sent := some (n.nextSeq, n.droppedSince) }) n.entries
               nextSeq := n.nextSeq + 1, droppedSince := 0
               deliveredNow := n.deliveredNow ++ [n.nextSeq] }).deliver q 3 n.nextSeq (some ses)
      (e.packet nq ses n.nextSeq n.droppedSince) := by
  unfold Chip.deliverNotice
  simp only [taken, lowest, can, settled, next]
  rfl

/-- Settles O6: only the queue in turn starts; the judge's finding decides between start and refusal; a notice goes as
`deliverNotice` sends it. -/
theorem owlStartsItemsInTurn : Obligations.OwlStartsItemsInTurn := by
  intro s live
  refine ⟨fun q other => ?_, fun q i rest turn first => ⟨fun fine => ?_, fun r refused badLen badCrc => ?_,
    fun r refused torn => ?_⟩, fun nq q ses e num => ?_⟩
  · exact onChip_to live (if_neg other)
  · exact onChip_to live ((if_pos turn).trans (startItem_of_accepted first fine))
  · exact onChip_to live ((if_pos turn).trans (by rw [startItem_of_refused first refused, if_neg (not_or.2 ⟨badLen, badCrc⟩)]))
  · exact onChip_to live ((if_pos turn).trans (by rw [startItem_of_refused first refused, if_pos torn]))
  · intro n taken lowest can settled next
    exact onChip_to live ((if_pos num).trans (deliverNotice_of_unsent taken lowest can settled next))

end Sys2Proof.Machine

namespace Sys2Proof.Machine

/-! ICP over UDP (R335 to R341). -/

/-- A datagram that its port takes counts as received and goes on to what its port number means (R335, R336, R379). -/
theorem udpIn_of_takesUdp {c : Chip} {port : Nat} {f : Frame} {sport dport sum : Half} {payload : List Byte}
    (takes : c.TakesUdp port f sport dport sum payload) (k : Chip → Chip) :
    c.udpIn port f sport dport sum payload k = k (c.heardFrame port) := by
  obtain ⟨⟨num, up, size, vlan⟩, mac, own, good⟩ := takes
  have sameVlan : (c.heardFrame port).vlan port = c.vlan port := rfl
  have sameAddr : (c.heardFrame port).ownAddr port f.dst = c.ownAddr port f.dst := rfl
  have whole : ¬(sum ≠ udpSum f.src f.dst sport dport payload && !(isV4 f.dst && sum = 0)) = true := by
    rcases good with right | ⟨v4, zero⟩
    · simp [right]
    · simp [v4, zero]
  have inFrame : (2 ≤ port || !c.ethUp port) = false := by simp [up, num]
  rw [Chip.udpIn, Chip.frame, inFrame, if_neg Bool.false_ne_true, if_neg (Nat.not_lt.2 size)]
  change (if f.vlan ≠ (c.heardFrame port).vlan port then _ else if f.mac ≠ Config.mac port ||
    !(c.heardFrame port).ownAddr port f.dst then _ else if _ then _ else k (c.heardFrame port)) = _
  rw [sameVlan, if_neg (not_not_intro vlan), sameAddr, own, mac, if_neg (by simp), if_neg whole]

/-- A segment that breaks the format is malformed (R338; log 23). -/
theorem udpSegment_of_malformed {c : Chip} {hdr : BitVec 128} {seg : List Byte} (bad : segmentOk hdr.toNat seg.length = false)
    (port : Nat) (src : BitVec 128) (sport : Half) : c.udpSegment port src sport hdr seg = c.malformed port := by
  simp [Chip.udpSegment, bad]

@[simp] theorem Chip.onEth_queue (c : Chip) (e : Nat) (f : EthPort → EthPort) (q : Nat) : (c.onEth e f).queue q = c.queue q :=
  rfl

/-- A well-formed segment for a UDP queue that is open, from its peer and with its WEPOCH, counts and is held (R338 to
R340). -/
theorem udpSegment_of_taken {c : Chip} {port q : Nat} {src : BitVec 128} {sport : Half} {hdr : BitVec 128} {seg : List Byte}
    (good : segmentOk hdr.toNat seg.length = true) (names : bits hdr.toNat 95 80 = q) (num : q < 256)
    (ex : (c.queue q).depthLog2 ≠ 0) (free : (c.queue q).fenced = false) (udp : (c.queue q).route = .udp)
    (bound : (c.queue q).peer = none ∨ (c.queue q).peer = some { port := port, addr := src, uport := sport })
    (epoch : hdr.extractLsb' 64 16 = (c.queue q).wepoch) :
    c.udpSegment port src sport hdr seg = (c.onEth port (fun e => { e with icp := satAdd e.icp 1 })).holdSegment q
      { port := port, addr := src, uport := sport } (hdr.extractLsb' 96 32) (bits hdr.toNat 63 56) (bits hdr.toNat 39 32)
      (bits hdr.toNat 55 48) (c.queue q).wepoch seg := by
  rcases bound with unbound | same
  · simp [Chip.udpSegment, names, good, Nat.not_le.2 num, ex, free, udp, unbound, epoch]
  · simp [Chip.udpSegment, names, good, Nat.not_le.2 num, ex, free, udp, same, epoch]

/-- Where the session has been sent every notice under its number, a resend sends each of them again (R341). -/
theorem resendNotices_of_all_delivered {c : Chip} {q : Nat} {ses : Session} (udp : (c.queue q).route = .udp) :
    let nq := if q < 256 then q / 16 else 16
    let n := c.noticeQ nq
    n.receiver.bind c.session = some ses → ses.noticeQueue = some q → c.canDeliver q ses = true →
    (∀ e ∈ n.entries, ∀ sd, e.sent = some sd → n.deliveredNow.contains sd.1 = true) →
    c.resendNotices q = n.entries.foldl (fun (c : Chip) e => match e.sent with
      | none => c
      | some sd => c.deliver q 3 sd.1 (some ses) (e.packet nq ses sd.1 sd.2)) c := by
  intro nq n taken lowest can all
  unfold Chip.resendNotices
  rw [if_neg (not_not_intro udp)]
  simp only [show (c.noticeQ (if q < 256 then q / 16 else 16)).receiver.bind c.session = some ses from taken]
  rw [if_neg (by simp [lowest, can])]
  refine List.foldl_rel (r := Eq) rfl fun e he d _ same => ?_
  subst same
  cases sent : e.sent with
  | none => rfl
  | some sd => exact if_pos (all e he sd sent)

/-- Settles O7: a datagram that the port takes comes to `udpSegment`; a partial packet is there or not; a resend sends what
the session was sent. -/
theorem udpRowsComplete : Obligations.UdpRowsComplete := by
  intro s live
  refine ⟨fun port f sp sum hdr seg takes => ?_, fun q msg p held => ?_, fun q msg missing => ?_, fun q ses udp => ?_⟩
  · intro rx q peer
    refine ⟨fun bad => ?_, fun good num ex free udp bound epoch => ?_⟩
    · show execUdpSegment port f sp sum hdr seg s = _
      exact onChip_to live ((udpIn_of_takesUdp takes _).trans (udpSegment_of_malformed bad port f.src sp))
    · show execUdpSegment port f sp sum hdr seg s = _
      exact onChip_to live ((udpIn_of_takesUdp takes _).trans
        (udpSegment_of_taken (c := rx) good rfl num ex free udp bound epoch))
  · show execUdpPartialTimeout q msg s = _
    exact onChip_to live (by simp [held])
  · show execUdpPartialTimeout q msg s = _
    exact onChip_to live (by simp [missing])
  · intro n taken lowest can all
    show execUdpNoticeResend q s = _
    exact onChip_to live (resendNotices_of_all_delivered udp taken lowest can all)

end Sys2Proof.Machine

namespace Sys2Proof.Machine

/-! Loads and stores by what stands at the address (R76, R78, R79, R319, R320). -/

section
variable {s : State} (live : s.Live) {p : Path} {a n : Nat} {d : Chip}
include live

/-! A load and a store of a live module. -/

theorem lowerHalfRead_to (e : s.chip.load p a n = d) :
    exec (.registerLowerHalfRead p a n) s = .next { s with chip := d } := by
  show execRegisterLowerHalfRead p a n s = _
  exact onChip_to live e

theorem upperHalfRead_to (e : s.chip.load p a n = d) :
    exec (.registerUpperHalfRead p a n) s = .next { s with chip := d } := by
  show execRegisterUpperHalfRead p a n s = _
  exact onChip_to live e

theorem lowerHalfWrite_to {v : Word} (e : s.chip.storeTo p a n (v.zeroExtend 64) = d) :
    exec (.registerLowerHalfWrite p a n v) s = .next { s with chip := d } := by
  show execRegisterLowerHalfWrite p a n v s = _
  exact onChip_to live e

theorem upperHalfWrite_to {v : Word} (e : s.chip.storeTo p a n (v.zeroExtend 64) = d) :
    exec (.registerUpperHalfWrite p a n v) s = .next { s with chip := d } := by
  show execRegisterUpperHalfWrite p a n v s = _
  exact onChip_to live e

theorem registerWrite_to {v : Double} (e : s.chip.storeTo p a n v = d) :
    exec (.registerWrite p a n v) s = .next { s with chip := d } := by
  show execRegisterWrite p a n v s = _
  exact onChip_to live e

end

/-- The half that a 4-byte store carries, and where an upper half stands in the double. -/
theorem extract_zeroExtend (v : Word) : (v.zeroExtend 64).extractLsb' 0 32 = v := by
  apply BitVec.eq_of_toNat_eq; simp; omega

theorem zeroExtend_shiftLeft (v : Word) : v.zeroExtend 64 <<< 32 = v ++ (0 : Word) := by
  apply BitVec.eq_of_toNat_eq
  have fits := v.isLt
  rw [BitVec.toNat_append, BitVec.toNat_shiftLeft, BitVec.zeroExtend, BitVec.toNat_setWidth,
    show BitVec.toNat (0 : Word) = 0 from rfl, Nat.or_zero, Nat.shiftLeft_eq, Nat.shiftLeft_eq]
  omega

/-- The window lies at offset 0 of BAR0, where the function is in D0. -/
theorem locate_bar0_window {c : Chip} {off : Nat} (inWindow : off < 0x10000) (aligned : off % 4 = 0)
    (awake : c.pcie.d3hot = false) : c.locate .bar0 off 4 = .window (off / 8 * 8) := by
  simp [Chip.locate, inWindow, aligned, awake]

/-- The window lies at 10_0000_0000h of the cores. -/
theorem locate_core_window (c : Chip) {off k : Nat} (inWindow : off < 0x10000) (aligned : off % 4 = 0) (num : k < 16) :
    c.locate (.core k) (0x1000000000 + off) 4 = .window (off / 8 * 8) := by
  have above : ¬ 0x1000000000 + off + 4 ≤ hostTop := by unfold hostTop; omega
  have aligned' : (0x1000000000 + off) % 4 = 0 := by omega
  have first : off / 8 * 8 < 0x10000 := by omega
  simp [Chip.locate, coreLoc, num, above, aligned', first]

section
variable {c : Chip} {p : Path} {a n : Nat}

/-- A load of a window register: whole, from the latch, or its lower half with the upper one latched (R78). -/
theorem load_of_window {off : Nat} (at' : c.locate p a n = .window off) : c.load p a n =
    if n = 8 then { c with readData := c.reg false off }
    else if upper a n then { c with readData := (c.latch p off).zeroExtend 64 }
    else { c.setLatch p off ((c.reg false off).extractLsb' 32 32) with
           readData := ((c.reg false off).extractLsb' 0 32).zeroExtend 64 } := by
  simp only [Chip.load, at']

/-! A half store to a window register (R79). -/
section
variable {off : Nat} (at' : c.locate p a 4 = .window off) (v : Word)
include at'

/-- A register that does not stage ignores it. -/
theorem storeTo_of_window_ignored (free : stages off = false) : c.storeTo p a 4 (v.zeroExtend 64) = c := by
  simp [Chip.storeTo, at', free]

/-- A lower half is held. -/
theorem storeTo_of_window_low (held : stages off = true) (low : a % 8 = 0) :
    c.storeTo p a 4 (v.zeroExtend 64) = c.setStage p off (some v) := by
  simp only [Chip.storeTo, at', held, upper, low, extract_zeroExtend]
  rfl

/-- An upper half writes the register whole with the half held, or alone where none is. -/
theorem storeTo_of_window_high (held : stages off = true) (high : a % 8 = 4) :
    (∀ lo, c.stage p off = some lo → c.storeTo p a 4 (v.zeroExtend 64) =
      (c.setStage p off none).regWrite (pathRoute p) off (BitVec.allOnes 64) (v ++ lo)) ∧
    (c.stage p off = none → c.storeTo p a 4 (v.zeroExtend 64) =
      c.regWrite (pathRoute p) off 0xFFFFFFFF00000000 (v ++ (0 : Word))) := by
  refine ⟨fun lo staged => ?_, fun empty => ?_⟩
  · simp only [Chip.storeTo, at', held, upper, high, staged, extract_zeroExtend]
    rfl
  · have mask : partMask a 4 = 0xFFFFFFFF00000000 := by simp [partMask, upper, high]
    simp only [Chip.storeTo, at', held, mask, upper, high, empty, ← zeroExtend_shiftLeft]
    rfl

end

/-- A load of plain memory reads its bytes (R319). -/
theorem load_of_memory {b : Nat} (at' : c.locate p a n = .memory b) :
    c.load p a n = { c with readData := BitVec.ofNat 64 (leNat (c.hostRead b n)) } := by
  simp only [Chip.load, at']

/-- A load of a place other than the window and memory reads the part of its double. -/
theorem load_of_other {l : Loc} (at' : c.locate p a n = l) (there : l ≠ .absent) (noWindow : ∀ off, l ≠ .window off)
    (noMemory : ∀ b, l ≠ .memory b) : c.load p a n = { c with readData := partOf a n (c.loadAt l) } := by
  cases l with
  | absent => exact absurd rfl there
  | window off => exact absurd rfl (noWindow off)
  | memory b => exact absurd rfl (noMemory b)
  | _ => simp only [Chip.load, at']

/-- An access that no range admits is the fault of the core that makes it (R319, R320). -/
theorem access_of_absent_core {k : Nat} (num : k < 16) (at' : c.locate (.core k) a n = .absent) (v : Double) :
    c.load (.core k) a n = c.accessFault k a false ∧ c.storeTo (.core k) a n v = c.accessFault k a true := by
  simp [Chip.load, Chip.storeTo, at', num]

/-- An access through the function that no range admits changes nothing (log 6). -/
theorem access_of_absent_host (host : isCore p = false) (at' : c.locate p a n = .absent) (v : Double) :
    c.load p a n = c ∧ c.storeTo p a n v = c := by
  cases p with
  | core k => exact Bool.noConfusion host
  | _ => simp [Chip.load, Chip.storeTo, at']

end

/-- Settles O8: where the window lies, then a load and a half store by what stands at the address. -/
theorem registerHalvesComplete : Obligations.RegisterHalvesComplete := by
  intro s p a live
  refine ⟨fun off inWindow aligned =>
      ⟨locate_bar0_window inWindow aligned, fun k => locate_core_window s.chip inWindow aligned⟩,
    fun off at' => ?_, fun off at' low => ?_, fun off at' high => ?_, fun n b at' => ?_,
    fun n l at' there noWindow noMemory => ?_, fun n v at' => ⟨fun k core num => ?_, fun host => ?_⟩⟩
  · exact lowerHalfRead_to live (load_of_window at')
  · have lower : upper a 4 = false := by simp [upper, low]
    refine ⟨lowerHalfRead_to live ((load_of_window at').trans (by simp [lower])), fun v held => ?_, fun v free => ?_⟩
    · exact lowerHalfWrite_to live (storeTo_of_window_low at' v held low)
    · exact lowerHalfWrite_to live (storeTo_of_window_ignored at' v free)
  · refine ⟨upperHalfRead_to live ((load_of_window at').trans (by simp [upper, high])), fun v free => ?_,
      fun v lo held staged => ?_, fun v held empty => ?_⟩
    · exact upperHalfWrite_to live (storeTo_of_window_ignored at' v free)
    · exact upperHalfWrite_to live ((storeTo_of_window_high at' v held high).1 lo staged)
    · exact upperHalfWrite_to live ((storeTo_of_window_high at' v held high).2 empty)
  · exact lowerHalfRead_to live (load_of_memory at')
  · exact lowerHalfRead_to live (load_of_other at' there noWindow noMemory)
  · subst core
    obtain ⟨loads, stores⟩ := access_of_absent_core num at' (v.zeroExtend 64)
    exact ⟨lowerHalfRead_to live loads, upperHalfRead_to live loads, lowerHalfWrite_to live stores,
      upperHalfWrite_to live stores⟩
  · obtain ⟨loads, stores⟩ := access_of_absent_host host at' (v.zeroExtend 64)
    exact ⟨lowerHalfRead_to live loads, upperHalfRead_to live loads, lowerHalfWrite_to live stores,
      upperHalfWrite_to live stores⟩

end Sys2Proof.Machine

namespace Sys2Proof.Machine

/-! A whole store to a register (R76, R322, R326, R342, R410). -/

/-- Under a full mask the new bits stand alone. -/
@[simp] theorem merge_full {w : Nat} (old new : BitVec w) : merge (BitVec.allOnes w) old new = new := by
  simp [merge]

theorem extract_full (i n : Nat) (fits : i + n ≤ 64) : (BitVec.allOnes 64).extractLsb' i n = BitVec.allOnes n := by
  ext j h
  rw [BitVec.getElem_extractLsb', BitVec.getLsbD_allOnes, BitVec.getElem_allOnes]
  exact decide_eq_true (by omega)

/-- An 8-byte access is not of an upper half. -/
@[simp] theorem upper_whole (a : Nat) : upper a 8 = false := rfl

/-! What the offsets of the window hold (R58, R76). -/

theorem bellOf_bell {q : Nat} (num : q ≤ 256) : bellOf (0x8000 + 8 * q) = some q := by
  have last : 0x8000 + 8 * q ≤ 0x8800 := by omega
  simp [bellOf, last]

theorem bellOf_below {off : Nat} (below : off < 0x8000) : bellOf off = none := by
  simp [bellOf, Nat.not_le.2 below]

section
variable {c : Chip} (r : Route) (v : Double)

/-- A doorbell's offset rings it. -/
theorem regWrite_bell {q : Nat} (num : q ≤ 256) :
    c.regWrite r (0x8000 + 8 * q) (BitVec.allOnes 64) v = c.ringDoorbell r q v := by
  simp only [Chip.regWrite, bellOf_bell num, BitVec.allOnes_and]

/-- The counts of a queue clear where 1 is written. -/
theorem regWrite_queueCounts {q : Nat} (num : q ≤ 256) :
    c.regWrite r (0x4008 + 16 * q) (BitVec.allOnes 64) v = c.setQueue q (
      { c.queue q with stale := (c.queue q).stale &&& ~~~(v.extractLsb' 32 32)
                       torn := (c.queue q).torn &&& ~~~(v.extractLsb' 16 16)
                       flushes := (c.queue q).flushes &&& ~~~(v.extractLsb' 0 16) }) := by
  have inBlock : (0x4000 ≤ 0x4008 + 16 * q && 0x4008 + 16 * q < 0x5010 && (0x4008 + 16 * q) % 16 = 8) = true := by
    simp; omega
  have which : (0x4008 + 16 * q - 0x4000) / 16 = q := by omega
  rw [Chip.regWrite, bellOf_below (by omega)]
  simp only [inBlock, which, BitVec.allOnes_and]
  rfl

/-- DROPPED of an instance's notice queue clears where 1 is written. -/
theorem regWrite_noticeStatus {i : Nat} (num : i < 16) :
    c.regWrite r (0x1010 + 256 * i) (BitVec.allOnes 64) v = c.setNoticeQ i (
      { c.noticeQ i with dropped := (c.noticeQ i).dropped &&& ~~~(v.extractLsb' 0 16) }) := by
  have noCounts : (0x4000 ≤ 0x1010 + 256 * i && 0x1010 + 256 * i < 0x5010 && (0x1010 + 256 * i) % 16 = 8) = false := by
    simp; omega
  have notOper : 0x1010 + 256 * i ≠ 0x5010 := by omega
  have inBlock : (0x1000 ≤ 0x1010 + 256 * i && 0x1010 + 256 * i < 0x2000 && (0x1010 + 256 * i) % 256 = 16) = true := by
    simp; omega
  have which : (0x1010 + 256 * i - 0x1000) / 256 = i := by omega
  rw [Chip.regWrite, bellOf_below (by omega)]
  simp only [noCounts, notOper, inBlock, which, BitVec.allOnes_and]
  rfl

/-- DROPPED of the operator's notice queue clears where 1 is written. -/
theorem regWrite_noticeStatus_oper :
    c.regWrite r 0x5010 (BitVec.allOnes 64) v = c.setNoticeQ 16 (
      { c.noticeQ 16 with dropped := (c.noticeQ 16).dropped &&& ~~~(v.extractLsb' 0 16) }) := by
  rw [Chip.regWrite, bellOf_below (by omega), BitVec.allOnes_and]
  rfl

/-- An offset that does not stage is read-only. -/
theorem regWrite_readOnly {off : Nat} (free : stages off = false) (mask : Double) : c.regWrite r off mask v = c := by
  simp only [stages, Bool.or_eq_false_iff] at free
  obtain ⟨⟨⟨noBell, noCounts⟩, notOper⟩, noNotice⟩ := free
  have noBell : bellOf off = none := by simpa using noBell
  rw [Chip.regWrite, noBell]
  simp only [noCounts, of_decide_eq_false notOper, noNotice]
  rfl

end

section
variable {c : Chip} {p : Path} {a : Nat} (v : Double)

/-- A whole store writes the window register, all its bits. -/
theorem storeTo_of_window_whole {off : Nat} (at' : c.locate p a 8 = .window off) :
    c.storeTo p a 8 v = c.regWrite (pathRoute p) off (BitVec.allOnes 64) v := by
  simp only [Chip.storeTo, at']
  rfl

/-- A whole store to a core's IRQ register sets ENABLE, clears PENDING where 1 is written, and the core meets its interrupt
(R322); its other places ignore it. -/
theorem storeTo_of_coreLocal {k off : Nat} (at' : c.locate p a 8 = .coreLocal k off) :
    c.storeTo p a 8 v = if off ≠ 0 then c else c.setCore k (
      { c.core k with enable := v.extractLsb' 32 16, pending := (c.core k).pending &&& ~~~(v.extractLsb' 0 16) } : Core).meet := by
  have full : (partMask a 8).extractLsb' 32 16 = BitVec.allOnes 16 := extract_full 32 16 (by omega)
  have all : partMask a 8 &&& v = v := BitVec.allOnes_and
  simp only [Chip.storeTo, at', Chip.coreWrite, upper_whole, Bool.false_eq_true, if_false, full, merge_full, all]

/-- BASE of a disabled feed stream takes the whole store (R342). -/
theorem storeTo_of_feedBase {k : Nat} (num : k < 32) (at' : c.locate p a 8 = .feed k 8) (off : (c.feed k).en = false) :
    c.storeTo p a 8 v = c.setFeed k { c.feed k with base := v } := by
  have full : merge (partMask a 8) (c.feed k).base v = v := merge_full _ _
  simp [Chip.storeTo, at', Chip.feedWrite, Nat.not_le.2 num, off, full]

/-- DROPPED of a feed stream clears where 1 is written (R342). -/
theorem storeTo_of_feedDropped {k : Nat} (num : k < 32) (at' : c.locate p a 8 = .feed k 24) :
    c.storeTo p a 8 v = c.setFeed k { c.feed k with dropped := (c.feed k).dropped &&& ~~~(v.extractLsb' 0 32) } := by
  have all : partMask a 8 &&& v = v := BitVec.allOnes_and
  simp [Chip.storeTo, at', Chip.feedWrite, Nat.not_le.2 num, all]

/-- The address of an MSI-X entry takes the whole store (R326). -/
theorem storeTo_of_msixAddr {e : Nat} (num : e < 257) (at' : c.locate p a 8 = .msix e 0) :
    c.storeTo p a 8 v = c.setMsix e { c.msixEntry e with addr := v } := by
  have full : merge (partMask a 8) (c.msixEntry e).addr v = v := merge_full _ _
  simp [Chip.storeTo, at', Chip.msixWrite, Nat.not_le.2 num, full]

/-- The data and the Mask bit of an MSI-X entry take the whole store (R326, R327). -/
theorem storeTo_of_msixData {e : Nat} (num : e < 257) (at' : c.locate p a 8 = .msix e 8) :
    c.storeTo p a 8 v = c.setMsix e { c.msixEntry e with data := v.extractLsb' 0 32, masked := v.getLsbD 32 } := by
  have full : merge ((partMask a 8).extractLsb' 0 32) (c.msixEntry e).data (v.extractLsb' 0 32) = v.extractLsb' 0 32 := by
    rw [show (partMask a 8).extractLsb' 0 32 = BitVec.allOnes 32 from extract_full 0 32 (by omega), merge_full]
  have bit32 : (partMask a 8).getLsbD 32 = true := by simp [partMask]
  simp [Chip.storeTo, at', Chip.msixWrite, Nat.not_le.2 num, full, bit32]

/-- MSI-X control takes Enable and Function Mask from the whole store (R327; log 6). -/
theorem storeTo_of_msixControl (at' : c.locate p a 8 = .config 0xB0) :
    c.storeTo p a 8 v =
      { c with pcie := { c.pcie with msixEnable := v.getLsbD 31, functionMask := v.getLsbD 30 } } := by
  have full : merge (partMask a 8) (c.configRead 0xB0) v = v := merge_full _ _
  have bitAt n : bitOf v.toNat n = v.getLsbD n := by
    simp [bitOf, BitVec.getLsbD, Nat.testBit_eq_decide_div_mod_eq]
  simp [Chip.storeTo, at', Chip.configWrite, full, bitAt]

end

/-- Settles O9: a store by what stands at the address, each register of the window by its offset; then a pending message. -/
theorem registerWritesComplete : Obligations.RegisterWritesComplete := by
  intro s p a v live
  have window {off : Nat} {d : Chip} (at' : s.chip.locate p a 8 = .window off)
      (e : s.chip.regWrite (pathRoute p) off (BitVec.allOnes 64) v = d) :
      exec (.registerWrite p a 8 v) s = .next { s with chip := d } :=
    registerWrite_to live ((storeTo_of_window_whole v at').trans e)
  refine ⟨fun q num at' => window at' (regWrite_queueCounts _ v num),
    fun i num at' => window at' (regWrite_noticeStatus _ v num),
    fun at' => window at' (regWrite_noticeStatus_oper _ v), fun q num at' => window at' (regWrite_bell _ v num),
    fun off _ free at' => window at' (regWrite_readOnly _ v free _),
    fun k at' => registerWrite_to live (storeTo_of_coreLocal v at'),
    fun k off other at' => registerWrite_to live ((storeTo_of_coreLocal v at').trans (if_pos other)),
    fun k num at' idle => registerWrite_to live (storeTo_of_feedBase v num at' idle),
    fun k num at' => registerWrite_to live (storeTo_of_feedDropped v num at'),
    fun e num at' => registerWrite_to live (storeTo_of_msixAddr v num at'),
    fun e num at' => registerWrite_to live (storeTo_of_msixData v num at'),
    fun at' => registerWrite_to live (storeTo_of_msixControl v at'),
    fun n r q at' lower => registerWrite_to live (by simp [Chip.storeTo, at', lower]),
    fun n q pos off at' => registerWrite_to live (by simp only [Chip.storeTo, at']),
    fun n b at' => registerWrite_to live (by simp only [Chip.storeTo, at']), fun n at' => ?_, fun n at' => ?_,
    fun e num due free => ?_, fun e held => ?_⟩
  · rcases at' with at' | ⟨b, at'⟩ <;> exact registerWrite_to live (by simp only [Chip.storeTo, at'])
  · refine ⟨fun k core num => ?_, fun host => registerWrite_to live (access_of_absent_host host at' v).2⟩
    subst core
    exact registerWrite_to live (access_of_absent_core num at' v).2
  · show execMsixPendingSend e s = _
    exact onChip_to live (by simp [num, due, free])
  · show execMsixPendingSend e s = _
    refine onChip_to live (if_neg ?_)
    rcases held with noMessage | shut
    · simp [noMessage]
    · simp [shut]

end Sys2Proof.Machine

namespace Sys2Proof.Machine

/-! Sessions, keys and attestation (R52 to R54, R361, R362, R364). -/

/-- A command of the session of its queue (R51). -/
theorem sessionOf_of_queue {c : Chip} {p : Icp} {n : Nat} {ses : Session} (q : (c.queue p.queue).session = some n)
    (there : c.session n = some ses) : c.sessionOf p = some ses := by
  simp [Chip.sessionOf, q, there]

/-! The free values that a command draws are the chip's next ones (log 1). -/

theorem begun_freeNow (c : Chip) (op : Byte) (p : Icp) : (c.begun op p).freeNow = Config.freeNat c.freeCount := by
  rw [Chip.freeNow, begun_freeCount]

theorem begun_drew_freeNow (c : Chip) (op : Byte) (p : Icp) :
    (c.begun op p).drew.freeNow = Config.freeNat (c.freeCount + 1) := by
  rw [Chip.freeNow, Chip.drew, begun_freeCount]

/-- Settles O12: each clause is the verdict that its command comes to on the chip as it begins. -/
theorem sessionCommandsComplete : Obligations.SessionCommandsComplete := by
  intro s p
  refine ⟨fun takes noCommon => ?_, fun v takes common => ?_, fun takes n inSession => ?_,
    fun takes n ses inSession there => ?_, fun takes known => ?_⟩
  · exact icp_refuse takes (by simp only [noCommon])
  · intro c qs mine others some' exist n nq ident ses
    have free : ((c.queue p.queue).session.isSome || qs.any (fun q => (c.queue q).session.isSome)) = false := by
      simp only [mine, Bool.or_eq_false_iff, List.any_eq_false]
      exact ⟨rfl, fun q hq => by simp [others q hq]⟩
    have there : (qs.isEmpty || qs.any (fun q => (c.queue q).depthLog2 = 0)) = false := by
      simp only [Bool.or_eq_false_iff, List.any_eq_false]
      exact ⟨by simpa using some', fun q hq => by simp [exist q hq]⟩
    refine icp_done takes ?_
    simp only [common]
    rw [if_neg (Bool.eq_false_iff.1 free), if_neg (Bool.eq_false_iff.1 there)]
    rfl
  · exact icp_later takes (by simp only [inSession])
  · have ofSession := sessionOf_of_queue inSession there
    intro hx hy
    refine ⟨fun off => ?_, fun on => ?_⟩
    · exact icp_refuse takes (by simp only [inSession, ofSession]; exact if_pos (by simpa using off))
    · refine icp_later takes ?_
      simp only [inSession, ofSession]
      refine (if_neg (by simpa using on)).trans ?_
      rw [begun_freeNow, begun_drew_freeNow]
      rfl
  · refine icp_done takes ?_
    rcases known with oper | ⟨live, steady⟩
    · simp [oper, begun_freeNow, Chip.drew]
    · simp [live, steady, begun_freeNow, Chip.drew]

end Sys2Proof.Machine

namespace Sys2Proof.Machine

/-! Queues and notices acknowledged (R60, R66, R72, R323). -/

/-- Settles O13: each clause is the verdict that its command comes to once the shared checks have passed. -/
theorem queueCommandsComplete : Obligations.QueueCommandsComplete := by
  intro s p q
  refine ⟨fun takes => ?_, fun takes => ?_, fun takes => ?_, fun takes => ?_⟩
  · intro c old may fields
    have may : (s.chip.begun 0x10 p).queueCheck p (p.par 0 2) = none := may
    refine ⟨fun ex => icp_refuse takes ?_, fun free => icp_done takes ?_⟩
    · simp only [may, fields]
      exact if_pos ex
    · simp only [may, fields]
      exact if_neg (not_not_intro free)
  · intro c old may ex
    have may : (s.chip.begun 0x11 p).queueCheck p (p.par 0 2) = none := may
    refine ⟨fun busy => icp_refuse takes ?_, fun num noSession idle => icp_done takes ?_⟩
    · have refused : (q % 16 = 0 || old.session.isSome || c.queueBusy q) = true := by simpa [or_assoc] using busy
      simp only [may]
      exact (if_neg ex).trans (if_pos refused)
    · have allowed : (q % 16 = 0 || old.session.isSome || c.queueBusy q) = false := by simp [num, noSession, idle]
      simp only [may]
      exact (if_neg ex).trans (if_neg (Bool.eq_false_iff.1 allowed))
  · intro c may ex other
    have may : (s.chip.begun 0x12 p).queueCheck p (p.par 0 2) = none := may
    refine icp_done takes ?_
    simp only [may]
    exact (if_neg ex).trans (if_neg other)
  · exact icp_done takes rfl

end Sys2Proof.Machine

namespace Sys2Proof.Machine

/-! Instances, quotas and guarantees (R80, R149, R161, R164, R171, R348 to R351). -/

/-- A command of OQ on an instance that exists goes on. -/
theorem needInst_of_live {c : Chip} {p : Icp} (named : p.who ≠ 255) (live : (c.inst p.who).live = true) (k : Verdict) :
    c.needInst p k = k := by
  simp [Chip.needInst, named, live]

/-- INSTANCE_CREATE of an instance that exists is refused. -/
theorem instanceNew_of_live {c : Chip} {p : Icp} (live : (c.inst p.who).live = true) : c.instanceNew p = c.badState p := by
  rw [Chip.instanceNew, if_pos live]

/-- INSTANCE_CREATE with resources that are free and live makes the instance and its queue 0 (R348 to R350). -/
theorem instanceNew_of_free {c : Chip} {p : Icp} :
    let i := p.who
    let b := leNat p.params
    (c.inst i).live = false → zeroWeight (blockWeights b) = none → bits b 163 64 ≠ 0 → bits b 255 192 ≠ 0 →
    (∀ k < 16, k ≠ i → (c.inst k).live = true →
      bits b 163 64 &&& (c.inst k).blocks.toNat = 0 ∧ bits b 255 192 &&& (c.inst k).pcGroups.toNat = 0) →
    blockQueueFault b = none → c.blockRetired b = none →
    c.instanceNew p = .done 0 [] ((c.setInst i { c.inst i with
      live := true, blocks := BitVec.ofNat 100 (bits b 163 64), pcGroups := BitVec.ofNat 64 (bits b 255 192)
      weights := blockWeights b, quotaMod := 0, quotaExp := 0, guar := [0, 0, 0] }).makeQueue (16 * i)
        (bits b 351 344) (bits b 367 352) (bits b 447 384) (bits b 511 448) (bits b 383 368)) := by
  intro i b free weights blocks groups apart queue working
  have own (v : Nat) (w : Nat → Nat) (disjoint : ∀ k < 16, k ≠ i → (c.inst k).live = true → v &&& w k = 0) :
      ((List.range 16).filter (fun k => k ≠ i && (c.inst k).live)).any (fun k => v &&& w k ≠ 0) = false := by
    refine List.any_eq_false.2 fun k hk => ?_
    obtain ⟨num, other⟩ := List.mem_filter.1 hk
    obtain ⟨notSelf, live⟩ := Bool.and_eq_true_iff.1 other
    simp [disjoint k (List.mem_range.1 num) (of_decide_eq_true notSelf) live]
  have ownBlocks := own (bits b 163 64) _ (fun k num other live => (apart k num other live).1)
  have ownGroups := own (bits b 255 192) _ (fun k num other live => (apart k num other live).2)
  unfold Chip.instanceNew
  simp only [show zeroWeight (blockWeights (leNat p.params)) = none from weights,
    show blockQueueFault (leNat p.params) = none from queue, show c.blockRetired (leNat p.params) = none from working]
  rw [if_neg (Bool.eq_false_iff.1 free)]
  refine (if_neg ?_).trans ((if_neg ?_).trans rfl)
  · rw [show _ = false from ownBlocks]; simpa using blocks
  · rw [show _ = false from ownGroups]; simpa using groups

/-- INSTANCE_CREATE with MODIFY changes the weights of an instance that exists, every other field being 0 (R350). -/
theorem instanceModify_of_weights {c : Chip} {p : Icp} (live : (c.inst p.who).live = true)
    (weights : zeroWeight (blockWeights (leNat p.params)) = none)
    (rest : ∀ k < 64, k ≠ 0 → (k < 37 ∨ 39 < k) → p.params.getD k 0 = 0) :
    c.instanceModify p =
      .done 0 [] (c.setInst p.who { c.inst p.who with weights := blockWeights (leNat p.params) }) := by
  have zero : (List.range 64).find? (fun k => k ≠ 0 && !(37 ≤ k && k ≤ 39) && p.params.getD k 0 ≠ 0) = none := by
    refine List.find?_eq_none.2 fun k hk set => ?_
    simp only [Bool.and_eq_true, Bool.not_eq_true', Bool.and_eq_false_iff, decide_eq_true_eq, decide_eq_false_iff_not] at set
    obtain ⟨⟨notFirst, outside⟩, held⟩ := set
    exact held (rest k (List.mem_range.1 hk) notFirst (by omega))
  rw [Chip.instanceModify, if_neg (by simp [live])]
  simp only [zero, weights]
  rfl

/-- A reset of an instance that exists, with none in progress and the count of resets not full, starts (R351, R357, R369). -/
theorem beginReset_of_steady {c : Chip} {p : Icp} (named : p.who ≠ 255) (live : (c.inst p.who).live = true)
    (steady : (c.inst p.who).resetting = none) (left : (c.inst p.who).resets ≠ 0xFFFF) (destroy : Bool) :
    c.beginReset p destroy = .later (c.resetStart p.who p destroy) := by
  rw [Chip.beginReset, needInst_of_live named live, if_neg (by simpa [steady] using left)]

/-- Settles O14: each clause is the verdict of its command on an instance that is, or is not, there; the drain's end is a row
of its own. -/
theorem instanceCommandsComplete : Obligations.InstanceCommandsComplete := by
  intro s p i b x
  have there op : (s.chip.begun op p).inst i = x := begun_inst s.chip op p i
  refine ⟨fun takes named new => ?_, fun takes named change live weights rest => ?_, fun takes named live steady left => ?_,
    fun takes named live steady left => ?_, fun k live steady => ?_, fun k r live going => ?_,
    fun takes named live tier => ?_, fun takes named live tier => ?_⟩
  · have verdict {c : Chip} : c.instanceSet p = c.instanceNew p := by
      rw [Chip.instanceSet, if_neg named, if_neg (by simp [new])]
    refine ⟨fun live => icp_refuse takes ?_, fun free weights blocks groups apart queue working => icp_done takes ?_⟩
    · rw [verdict]
      exact instanceNew_of_live (by rw [there 0x20]; exact live)
    · rw [verdict]
      simpa using instanceNew_of_free (c := s.chip.begun 0x20 p) (by simpa using free) weights blocks groups (by simpa using apart)
        queue (by simpa using working)
  · refine icp_done takes ?_
    rw [Chip.instanceSet, if_neg named, if_pos change]
    simpa using instanceModify_of_weights (c := s.chip.begun 0x20 p) (by simpa using live) weights rest
  · exact icp_later takes (beginReset_of_steady named (by simpa using live) (by simpa using steady) (by simpa using left) false)
  · exact icp_later takes (beginReset_of_steady named (by simpa using live) (by simpa using steady) (by simpa using left) true)
  · show execInstanceResetDrainEnd k s = _
    rw [execInstanceResetDrainEnd, onChip_live live]; simp only [steady]
  · show execInstanceResetDrainEnd k s = _
    rw [execInstanceResetDrainEnd, onChip_live live]; simp only [going]
  · intro t n others
    have known : ¬(!(p.par 0 1 = 1 || p.par 0 1 = 2)) = true := by rcases tier with one | two <;> simp [*]
    refine ⟨fun above => icp_refuse takes ?_, fun fits => icp_done takes ?_⟩
    · refine (needInst_of_live named (by simpa using live) _).trans ((if_neg known).trans ?_)
      simp only [begun_quota, begun_pool]
      exact if_pos above
    · refine (needInst_of_live named (by simpa using live) _).trans ((if_neg known).trans ?_)
      simp only [begun_quota, begun_pool]
      refine (if_neg (Nat.not_lt.2 fits)).trans ?_
      rw [Chip.onInst_eq, begun_inst]
  · intro t v d others
    have goes {op : Byte} := needInst_of_live (c := s.chip.begun op p) named (by simpa using live)
    refine ⟨fun above tooMuch => icp_refuse takes ?_, fun fits => icp_done takes ?_⟩
    · refine (goes _).trans ((if_neg (Nat.not_lt.2 tier)).trans ?_)
      simp only [begun_derated, begun_otherGuar, begun_inst]
      exact if_pos (Bool.and_eq_true_iff.2 ⟨decide_eq_true above, decide_eq_true tooMuch⟩)
    · refine (goes _).trans ((if_neg (Nat.not_lt.2 tier)).trans ?_)
      simp only [begun_derated, begun_otherGuar, begun_inst]
      have accepted : ((x.guarOf t < v : Bool) && (85 * d.1 < (others + v) * 100 * d.2 : Bool)) = false := by
        rcases fits with lower | room
        · simp [Nat.not_lt.2 lower]
        · simp [Nat.not_lt.2 room]
      refine (if_neg (Bool.eq_false_iff.1 accepted)).trans ?_
      rw [Chip.onInst_eq, begun_inst]

end Sys2Proof.Machine

namespace Sys2Proof.Machine

/-! Groups and units (R67 to R70, R285 to R291, R334, R384). -/

/-- A unit named in range passes the check of R67. -/
theorem unitRange_of_ok {p : Icp} {top : Nat} (cls : (unitNamed p).cls ≤ top) (ok : unitOk (unitNamed p) = true) :
    unitRange p top = none := by
  simp [unitRange, Nat.not_lt.2 cls, ok]

/-- Settles O21: the group commands by the entry's owner, the unit commands by the unit's state, then the rows that end a
shutdown and an enabling. -/
theorem groupAndUnitCommandsComplete : Obligations.GroupAndUnitCommandsComplete := by
  intro s p c i g n u v
  have group op k : (s.chip.begun op p).group k = c.group k := begun_group s.chip op p k
  refine ⟨fun o takes any top split ok clear => ?_, fun takes => ⟨fun other => ?_, fun own idle => ?_⟩,
    fun takes cls ok inService => ?_, fun takes cls ok inService => ?_, fun takes cls ok => ?_, fun e live num => ?_,
    fun x live num used => ?_, fun e dev live num st alone => ?_⟩
  · intro bs ms distinct
    have ranges : ¬(n = 0 || 65536 < n || (p.bits 16 16 = 1 && 8 < n)) = true := by
      rcases split with one | few
      · simp [Nat.pos_iff_ne_zero.1 any, top, one]
      · simp [Nat.pos_iff_ne_zero.1 any, top, few]
    have ok : s.chip.check p.who (p.bits 255 192) (2 * p.bits 144 128) = .ok o := ok
    refine ⟨fun k owned other => icp_refuse takes ((if_neg ranges).trans ?_),
      fun free room => icp_done takes ((if_neg ranges).trans ?_)⟩
    · simp only [begun_check, ok, begun_cmdHeld, begun_frontRead, begun_group]
      refine (if_neg (Bool.eq_false_iff.1 clear)).trans ((if_neg (Nat.not_lt.2 distinct)).trans (if_pos ?_))
      rw [show (s.chip.group (p.bits 9 0)).owner = some k from owned]
      simpa using other
    · simp only [begun_check, ok, begun_cmdHeld, begun_frontRead, begun_group, begun_groupInUse, begun_listUsed,
        show (s.chip.group (p.bits 9 0)).owner = none from free]
      exact (if_neg (Bool.eq_false_iff.1 clear)).trans ((if_neg (Nat.not_lt.2 distinct)).trans (if_neg (Nat.not_lt.2 room)))
  · exact icp_refuse takes (if_pos (by rw [group 0x61]; exact other))
  · refine icp_done takes ((if_neg (by rw [group 0x61]; exact not_not_intro own)).trans ((if_neg ?_).trans ?_))
    · rw [begun_groupInUse]; exact Bool.eq_false_iff.1 idle
    · rw [Chip.onGroup_eq, group 0x61]
  · have inService : s.chip.isRetired (unitNamed p).cls (unitNamed p).idx = false := inService
    refine ⟨fun st => icp_done takes ?_, fun st => icp_done takes ?_, fun st => icp_done takes ?_, fun st => icp_done takes ?_⟩
      <;> simp only [unitRange_of_ok cls ok, begun_isRetired, inService, begun_unit]
    · rw [show (s.chip.unit (unitNamed p)).st = .enabled from st]; rfl
    · rcases st with shut | off
      · rw [show (s.chip.unit (unitNamed p)).st = .shuttingDown from shut]; rfl
      · rw [show (s.chip.unit (unitNamed p)).st = .disabled from off]; rfl
    · rw [show (s.chip.unit (unitNamed p)).st = .shutdownEnablePending from st]; rfl
    · rw [show (s.chip.unit (unitNamed p)).st = .enabling from st]; rfl
  · have inService : s.chip.isRetired (unitNamed p).cls (unitNamed p).idx = false := inService
    refine ⟨fun st => icp_done takes ?_, fun st => icp_pending takes ?_, fun st => icp_pending takes ?_⟩
      <;> simp only [unitRange_of_ok cls ok, begun_isRetired, inService, begun_unit]
    · rw [show (s.chip.unit (unitNamed p)).st = .enabled from st]; rfl
    · rcases st with off | on
      · rw [show (s.chip.unit (unitNamed p)).st = .disabled from off]; rfl
      · rw [show (s.chip.unit (unitNamed p)).st = .enabling from on]; rfl
    · rcases st with shut | waiting
      · rw [show (s.chip.unit (unitNamed p)).st = .shuttingDown from shut]; rfl
      · rw [show (s.chip.unit (unitNamed p)).st = .shutdownEnablePending from waiting]; rfl
  · refine icp_done takes ?_
    simp only [unitRange_of_ok cls ok]
    rfl
  · show execUnitShutdownComplete ⟨1, e⟩ s = _
    exact onChip_to live (if_neg (by simp [unitOk, unitCount, Chip.shutDone, num]))
  · show execUnitShutdownComplete ⟨2, x⟩ s = _
    exact onChip_to live (if_pos (by simp [Chip.shutDone, show s.chip.usedAt 2 x ≠ 0 from used]))
  · have st : (s.chip.unit ⟨1, e⟩).st = .enabling := st
    have alone : (s.chip.unit ⟨1, e⟩).disableWaits = false := alone
    show execUnitEnablingComplete ⟨1, e⟩ dev s = _
    refine onChip_to live ((if_neg (by simp [unitOk, unitCount, st, num])).trans ?_)
    exact if_neg (Bool.eq_false_iff.1 alone)

end Sys2Proof.Machine

namespace Sys2Proof.Machine

/-! Operator debug and the configuration store (R50, R365, R366, R387 to R389). -/

/-- What the operator's session holds does not decide which instances exist. -/
theorem liveInsts_of_side (c : Chip) (x : Side) : ({ c with side := x } : Chip).liveInsts = c.liveInsts := rfl

/-- Settles O22: each clause is the verdict of its command, by the session that is open, the range or the edit. -/
theorem debugAndStoreCommandsComplete : Obligations.DebugAndStoreCommandsComplete := by
  intro s p c a n
  have side op : (s.chip.begun op p).side = c.side := begun_side s.chip op p
  have store op : (s.chip.begun op p).store = c.store := begun_store s.chip op p
  refine ⟨fun takes => ⟨fun on => ?_, fun off => ?_⟩, fun takes on => ?_,
    fun takes => ⟨fun long => ?_, fun any fits below => ?_⟩,
    fun takes any fits => ⟨fun outside => ?_, fun e afterHead inCopy ends edit => ?_⟩,
    fun takes => ⟨fun noEdit => ?_, fun e edit => ?_⟩⟩
  · exact icp_refuse takes (if_pos (by rw [side 0x81]; exact on))
  · refine icp_done takes ((if_neg (by rw [side 0x81]; exact Bool.eq_false_iff.1 off)).trans ?_)
    simp only [liveInsts_of_side, begun_liveInsts, begun_side]
  · exact icp_done takes (if_neg (by rw [side 0x82, on]; exact Bool.false_ne_true))
  · exact icp_refuse takes ((if_neg (by omega)).trans (if_pos long))
  · refine icp_done takes ((if_neg (by omega)).trans ((if_neg (by omega)).trans ((if_neg (by omega)).trans
      ((if_neg (by omega)).trans ?_))))
    rw [store 0x90]; rfl
  · have inHead : (a < 64 || copySize ≤ a) = true :=
      Bool.or_eq_true_iff.2 (outside.imp decide_eq_true decide_eq_true)
    exact icp_refuse takes ((if_neg (by omega)).trans ((if_neg (Nat.not_lt.2 fits)).trans (if_pos inHead)))
  · have inBody : (a < 64 || copySize ≤ a) = false :=
      Bool.or_eq_false_iff.2 ⟨decide_eq_false (Nat.not_lt.2 afterHead), decide_eq_false (Nat.not_le.2 inCopy)⟩
    refine icp_done takes ((if_neg (by omega)).trans ((if_neg (Nat.not_lt.2 fits)).trans
      ((if_neg (Bool.eq_false_iff.1 inBody)).trans ((if_neg (Nat.not_lt.2 ends)).trans ?_))))
    simp only [begun_store, show s.chip.store.openEdit.edit = some e from edit]
    rfl
  · refine icp_refuse takes ?_
    simp only [store 0x92, noEdit]
    rfl
  · refine icp_done takes ?_
    simp only [store 0x92, edit]

end Sys2Proof.Machine

namespace Sys2Proof.Machine

/-! A descriptor on an empty unit (R85, R96, R100): which engine runs it, and that it shows no fault there. -/

theorem eq_none_of_orElse {α : Type} {o : Option α} {f : Unit → Option α} (h : o.orElse f = none) : o = none := by
  cases o with
  | none => rfl
  | some _ => cases h

theorem runDesc_vector {d : Desc} (low : 0x20 ≤ dOp d) (high : dOp d ≤ 0x31) (c : Chip) (i t l : Nat) :
    c.runDesc i t l d = c.opVector i t d := by
  have apart : ∀ n, n < 0x20 ∨ 0x31 < n → dOp d ≠ n := by omega
  simp [Chip.runDesc, low, high, apart, show ¬ 0x32 ≤ dOp d by omega]

/-- A vector or convert descriptor that the tile takes shows no fault to its unit. -/
theorem vFault_of_issues {s : State} {i t u : Nat} {d : Desc} (h : s.Issues i t u d)
    (k : opClass (dOp d) = some .vector ∨ opClass (dOp d) = some .convert) : (s.seen i t u d).vFault i d = none := by
  have sound := seen_unitFault h
  rcases k with k | k <;> simp only [Chip.unitFault, k] at sound <;> exact eq_none_of_orElse sound

/-! The elementwise operations (R107 to R109). -/

theorem unpackWide_length (w n : Nat) (bs : List Byte) : (unpackWide w n bs).length = n := by
  induction n generalizing bs with
  | zero => rfl
  | succ n ih => simp [unpackWide, ih]

theorem unpack_length_le (f : Fmt) (n : Nat) (bs : List Byte) : (f.unpack n bs).length ≤ n := by
  unfold Fmt.unpack
  split
  · exact List.length_take_le _ _
  · exact Nat.le_of_eq (unpackWide_length _ _ _)

/-- A vector descriptor has at most COUNT elements of an input. -/
theorem vecIn_length_le (c : Chip) (t : Nat) (d : Desc) (r : RefBits) : (c.vecIn t d r).length ≤ vCount d := by
  simpa [Chip.vecIn, toWords] using unpack_length_le _ _ _

theorem vecB_length_le (c : Chip) (t : Nat) (d : Desc) : (c.vecB t d).length ≤ vCount d := by
  unfold Chip.vecB
  split
  · simp
  · exact vecIn_length_le c t d _

/-- A constant list that is long enough adds its one value to every element. -/
theorem zip_replicate_of_le {α β : Type} {xs : List α} {n : Nat} (h : xs.length ≤ n) (b : β) :
    xs.zip (List.replicate n b) = xs.map (·, b) := by
  have lengths : (xs.zip (List.replicate n b)).length = (xs.map (·, b)).length := by
    rw [List.length_zip, List.length_replicate, List.length_map, Nat.min_eq_left h]
  refine List.ext_getElem lengths fun k _ _ => ?_
  rw [List.getElem_zip, List.getElem_replicate, List.getElem_map]

/-- What an operation computes of each element of A, with those of B and C where it has them. -/
theorem opVector_of_sound {c : Chip} {i t : Nat} {d : Desc} (sound : c.vFault i d = none) :
    c.opVector i t d = .done (c.vecOut i t d (List.zipWith (fun a be => vElem (dOp d) (vImm d) a be.1 be.2) (c.vecIn t d (vA d))
      (List.zip (if vHasB (dOp d) then c.vecB t d else List.replicate (vCount d) (vImm d))
        (if vHasC (dOp d) then c.vecIn t d (vC d) else List.replicate (vCount d) 0)))) := by
  have b : (if (vHasB (dOp d) && !vBimm d) = true then c.vecIn t d (vB d) else List.replicate (vCount d) (vImm d)) =
      if vHasB (dOp d) = true then c.vecB t d else List.replicate (vCount d) (vImm d) := by
    cases vHasB (dOp d) <;> cases imm : vBimm d <;> simp [Chip.vecB, imm]
  rw [← b, Chip.opVector, sound]
  rfl

section
variable {s : State} {i t op : Nat} {d : Desc} (h : s.Issues i t 1 d) (is : dOp d = op)
include h is

/-- A descriptor of an elementwise operation on an empty vector unit writes the operation's values. -/
theorem issue_elementwise (low : 0x20 ≤ op) (high : op ≤ 0x31) {g : Chip → List (Num × Bool)}
    (e : ∀ c : Chip, List.zipWith (fun a be => vElem op (vImm d) a be.1 be.2) (c.vecIn t d (vA d))
      (List.zip (if vHasB op then c.vecB t d else List.replicate (vCount d) (vImm d))
        (if vHasC op then c.vecIn t d (vC d) else List.replicate (vCount d) 0)) = g c) :
    onChip s (fun c => c.issue t d) = .next (s.ran i t 1 d (fun c => c.vecOut i t d (g c)) false) := by
  subst is
  have vector : opClass (dOp d) = some .vector := by
    simp [opClass, low, show ¬ dOp d ≤ 6 by omega, show ¬ dOp d ≤ 0x12 by omega, show dOp d ≤ 0x36 by omega]
  refine issue_done h ?_
  rw [runDesc_vector low high, opVector_of_sound (vFault_of_issues h (.inl vector)), e]

/-- An operation on A alone. -/
theorem issue_unary {g : Word → Num × Bool} (e : ∀ a, vElem op (vImm d) a (vImm d) 0 = g a)
    (low : 0x20 ≤ op := by decide) (high : op ≤ 0x31 := by decide)
    (noB : vHasB op = false := by decide) (noC : vHasC op = false := by decide) :
    onChip s (fun c => c.issue t d) = .next (s.ran i t 1 d (fun c => c.vecOut i t d ((c.vecIn t d (vA d)).map g)) false) := by
  refine issue_elementwise h is low high fun c => ?_
  simp only [noB, noC, Bool.false_eq_true, if_false, List.zip_replicate, Nat.min_self]
  rw [← List.map_uncurry_zip_eq_zipWith, zip_replicate_of_le (vecIn_length_le c t d _), List.map_map]
  exact List.map_congr_left fun a _ => e a

/-- An operation on A and B. -/
theorem issue_binary {g : Word → Word → Num × Bool} (e : ∀ a b, vElem op (vImm d) a b 0 = g a b)
    (low : 0x20 ≤ op := by decide) (high : op ≤ 0x31 := by decide)
    (hasB : vHasB op = true := by decide) (noC : vHasC op = false := by decide) :
    onChip s (fun c => c.issue t d) =
      .next (s.ran i t 1 d (fun c => c.vecOut i t d (List.zipWith g (c.vecIn t d (vA d)) (c.vecB t d))) false) := by
  refine issue_elementwise h is low high fun c => ?_
  simp only [hasB, noC, Bool.false_eq_true, if_false, if_true]
  rw [zip_replicate_of_le (vecB_length_le c t d), List.zipWith_map_right]
  simp only [e]

/-- An operation on A, B and C. -/
theorem issue_ternary {g : Word → Word → Word → Num × Bool} (e : ∀ a b c, vElem op (vImm d) a b c = g a b c)
    (low : 0x20 ≤ op := by decide) (high : op ≤ 0x31 := by decide)
    (hasB : vHasB op = true := by decide) (hasC : vHasC op = true := by decide) :
    onChip s (fun c => c.issue t d) = .next (s.ran i t 1 d (fun c => c.vecOut i t d
      (List.zipWith (fun a b => g a b.1 b.2) (c.vecIn t d (vA d)) (List.zip (c.vecB t d) (c.vecIn t d (vC d))))) false) := by
  refine issue_elementwise h is low high fun c => ?_
  simp only [hasB, hasC, if_true, e]

end

/-- Settles O25: each operation is unary, binary or ternary, and its element is the table's. -/
theorem elementwiseComplete : Obligations.ElementwiseComplete := by
  intro s i t d h one two three kept
  let fma := fun a b c => (((f32 a).mul (f32 b)).add (f32 c)).toF32
  let select := fun a b c => kept (if (f32 c).isNan || (f32 c).signed then f32 b else f32 a)
  exact ⟨fun is => issue_binary h is fun _ _ => rfl, fun is => issue_binary h is fun _ _ => rfl,
    fun is => issue_binary h is fun _ _ => rfl, fun is => issue_ternary (g := fma) h is fun _ _ _ => rfl,
    fun is => issue_binary h is fun _ _ => rfl, fun is => issue_binary h is fun _ _ => rfl,
    fun is => issue_unary h is fun _ => rfl, fun is => issue_unary h is fun _ => rfl,
    fun is => issue_unary h is fun _ => rfl, fun is => issue_unary h is fun _ => rfl,
    fun is => issue_ternary (g := select) h is fun _ _ _ => rfl, fun is => issue_unary h is fun _ => rfl,
    fun is => issue_unary h is fun _ => rfl, fun is => issue_unary h is fun _ => rfl,
    fun is => issue_unary h is fun _ => rfl, fun is => issue_unary h is fun _ => rfl,
    fun is => issue_unary h is fun _ => rfl, fun is => issue_unary h is fun _ => rfl⟩

end Sys2Proof.Machine

namespace Sys2Proof.Machine

/-! The row reductions and the random operations (R109, R110, R112, R123, R124). -/

theorem runDesc_reduce {d : Desc} (low : 0x32 ≤ dOp d) (high : dOp d ≤ 0x34) (c : Chip) (i t l : Nat) :
    c.runDesc i t l d = c.opReduce i t d := by
  have apart : ∀ n, n < 0x32 ∨ 0x34 < n → dOp d ≠ n := by omega
  simp [Chip.runDesc, low, high, apart]

theorem runDesc_random {d : Desc} (is : dOp d = 0x35 ∨ dOp d = 0x36) (c : Chip) (i t l : Nat) :
    c.runDesc i t l d = c.opRandom i t d := by
  rcases is with is | is <;> simp [Chip.runDesc, is]

/-- A reduction writes one value for each row. -/
theorem issue_reduce {s : State} {i t op : Nat} {d : Desc} (h : s.Issues i t 1 d) (is : dOp d = op)
    (low : 0x32 ≤ op := by decide) (high : op ≤ 0x34 := by decide) :
    onChip s (fun c => c.issue t d) = .next (s.ran i t 1 d (fun c => c.vWrite i t d (vOutOf (fmtOf (vOut d))
      ((chunks (vRowlen d) (vCount d) (((fmtOf (vIn d)).unpack (vCount d)
        (c.storeRead t (refOff (vA d)) ((fmtOf (vIn d)).lineBytes (vCount d)))).map (fmtOf (vIn d)).decode)).map
          (vReduce op)))) false) := by
  subst is
  have vector : opClass (dOp d) = some .vector := by
    simp [opClass, show ¬ dOp d ≤ 6 by omega, show ¬ dOp d ≤ 0x12 by omega, show 0x20 ≤ dOp d by omega,
      show dOp d ≤ 0x36 by omega]
  refine issue_done h ?_
  rw [runDesc_reduce low high, Chip.opReduce, vFault_of_issues h (.inl vector)]
  rfl

/-- A random operation that its unit runs: 64 lanes give an element each per tc, from a free tc on. -/
theorem opRandom_of_issues {s : State} {i t : Nat} {d : Desc} (h : s.Issues i t 1 d) (is : dOp d = 0x35 ∨ dOp d = 0x36)
    (l : Nat) :
    let c := s.seen i t 1 d
    let first := max (c.tc + 1) (c.tile t).drawnTo + c.freeNow
    let ws := (List.range (vCount d)).map (fun j => c.rngOut t (j % 64) (first + j / 64))
    let e := c.drew.onTile t (fun k => { k with drawnTo := first + divUp (vCount d) 64 })
    c.runDesc i t l d = if dOp d = 0x36 then .done (e.storeWrite t (refOff (vD d)) (ws.flatMap (fun w => leBytes 4 w.toNat)))
      else .done (e.vWrite i t d (vOutOf .f32 (ws.map (fun w => (Num.fin false (w.toNat / 256) 1 (-24), 0))))) := by
  intro c first ws e
  have vector : opClass (dOp d) = some .vector := by rcases is with is | is <;> rw [is] <;> rfl
  rw [runDesc_random is, Chip.opRandom, vFault_of_issues h (.inl vector)]
  rfl

/-- Settles O28: a reduction by the operation it folds with; a random operation draws its words before it writes. -/
theorem rowsAndRandomComplete : Obligations.RowsAndRandomComplete := by
  intro s i t d h n rows add top first word drawn
  refine ⟨issue_reduce h, issue_reduce h, issue_reduce h, fun is => issue_done h ?_, fun is => issue_done h ?_⟩
  · rw [opRandom_of_issues h (.inl is), if_neg (by omega), List.map_map]
    rfl
  · rw [opRandom_of_issues h (.inr is), if_pos is, List.flatMap_map]
    rfl

end Sys2Proof.Machine

namespace Sys2Proof.Machine

/-! The convert descriptors (R121, R130 to R133, R137 to R139, R146). -/

/-- A convert descriptor on an empty vector unit has the effect that the unit gives it where it shows no fault. -/
theorem issue_convert {s : State} {i t : Nat} {d : Desc} (h : s.Issues i t 1 d) (low : 0x40 ≤ dOp d) (high : dOp d ≤ 0x42)
    {f : Chip → Chip}
    (run : ∀ c : Chip, c.vFault i d = none → c.runDesc i t (s.chip.job i).lexp d = .done (f c)) :
    onChip s (fun c => c.issue t d) = .next (s.ran i t 1 d f false) := by
  refine issue_done h (run _ (vFault_of_issues h (.inr ?_)))
  simp [opClass, low, high, show ¬ dOp d ≤ 6 by omega, show ¬ dOp d ≤ 0x12 by omega, show ¬ dOp d ≤ 0x36 by omega]

section
variable {c : Chip} {i t : Nat} {d : Desc} (sound : c.vFault i d = none)
include sound

/-- CVT without a scale set converts every element once. -/
theorem runDesc_cvt_plain (is : dOp d = 0x40) (plain : refNone (vB d) = true) (l : Nat) :
    c.runDesc i t l d = .done (c.vWrite i t d (cvOut (fmtOf (vOut d))
      ((vInput d (c.storeRead t (refOff (vA d)) (vBytes d (fmtOf (vIn d))))).map
        (fun l => l.map (fun k => (fmtOf (vOut d)).convert ((fmtOf (vIn d)).decode k)))))) := by
  have run : c.runDesc i t l d = c.opCvt i t d := by simp [Chip.runDesc, is]
  rw [run, Chip.opCvt, sound]
  simp only [Ran.unless, plain, if_true]

/-- CVT with a scale set quantises into the scaled format, or dequantises out of it, line by line. -/
theorem runDesc_cvt_scaled (is : dOp d = 0x40) (scaled : refNone (vB d) = false) (l : Nat) :
    c.runDesc i t l d = .done (c.vWrite i t d (cvOut (fmtOf (vOut d)) (List.zipWith (fun l z => l.map (fun k =>
        if (fmtOf (vOut d)).scaled then quantise (fmtOf (vOut d)) z.1 z.2 ((fmtOf (vIn d)).decode k)
        else dequantise (fmtOf (vIn d)) (fmtOf (vOut d)) z.1 z.2 k))
      (vInput d (c.storeRead t (refOff (vA d)) (vBytes d (fmtOf (vIn d)))))
      (readScales (c.storeRead t (refOff (vB d)) (vSetBytes d)) (vLines d) (vGroup d))))) := by
  have run : c.runDesc i t l d = c.opCvt i t d := by simp [Chip.runDesc, is]
  rw [run, Chip.opCvt, sound]
  simp only [Ran.unless, scaled, Bool.false_eq_true, if_false]

end

/-- Settles O29: CVT by whether it has a scale set; SCALE_PASS and CVT_GRAD as their engines compute them, CVT_GRAD at the
loss-scale exponent of its issue. -/
theorem convertsComplete : Obligations.ConvertsComplete := by
  intro s i t d h f g lines
  refine ⟨fun is plain => issue_convert h (by omega) (by omega) fun c sound => runDesc_cvt_plain sound is plain _,
    fun is scaled => issue_convert h (by omega) (by omega) fun c sound => runDesc_cvt_scaled sound is scaled _,
    fun is => issue_convert h (by omega) (by omega) fun c sound => ?_,
    fun is => issue_convert h (by omega) (by omega) fun c sound => ?_⟩
  · have run : c.runDesc i t (s.chip.job i).lexp d = c.opScalePass i t d := by simp [Chip.runDesc, is]
    rw [run, Chip.opScalePass, sound]
    rfl
  · have run : c.runDesc i t (s.chip.job i).lexp d = c.opCvtGrad i t (s.chip.job i).lexp d := by simp [Chip.runDesc, is]
    rw [run, Chip.opCvtGrad, sound]
    rfl

end Sys2Proof.Machine

namespace Sys2Proof.Machine

/-! The matrix unit (R102 to R106, R310, R311). -/

/-- A matrix descriptor that the tile takes shows no fault to its unit. -/
theorem mFault_of_issues {s : State} {i t u : Nat} {d : Desc} (h : s.Issues i t u d) (k : opClass (dOp d) = some .matrix) :
    (s.seen i t u d).mFault i d = none := by
  have sound := seen_unitFault h
  simp only [Chip.unitFault, k] at sound
  exact eq_none_of_orElse sound

/-- A matrix product, rows of C in order, with its counts and its vote (R103 to R105, R122). -/
theorem runDesc_matmul {c : Chip} {i t : Nat} {d : Desc} {a b : Fmt} (is : dOp d = 0x10 ∨ dOp d = 0x11)
    (sound : c.mFault i d = none) (formats : mFormats d = some (a, b)) (l : Nat) :
    c.runDesc i t l d =
      let r := c.matResult t d a b
      let e := if mFmtC d = 10 then c.count i 7 r.2.2 else c.countConv i r.2.1 r.2.2
      let rows := r.1.map (fun ws => ws.flatMap (fun w => leBytes 4 w.toNat))
      let e := (List.range rows.length).foldl (fun (e : Chip) k =>
        e.storeWrite t (refOff (mC d) + k * mLdc d) (rows.getD k [])) e
      .done (if dGrad d && mFmtC d = 0 && r.1.any (·.any wordNonFinite) then e.setVote i else e) := by
  have run : c.runDesc i t l d = c.opMatmul i t d := by rcases is with is | is <;> simp [Chip.runDesc, is]
  rw [run, Chip.opMatmul, sound]
  simp only [Ran.unless, formats]

/-- A MATMUL_SPLIT into an open stream that its block lies in: its new block rows join the stream's partials; one that the
stream has already faults it once they have (R310, R311). -/
theorem runDesc_matmulSplit {c : Chip} {i t : Nat} {d : Desc} {a b : Fmt} {g : Nat} {x : Coll} (is : dOp d = 0x12)
    (sound : c.mFault i d = none) (formats : mFormats d = some (a, b)) (stream : c.streamOf i (mC d) = some (g, x))
    (col : swCol (mC d) % 32 = 0) (width : mN d % 32 = 0) (rows : swRow (mC d) + mM d ≤ cCount x.desc / 65536)
    (cols : swCol (mC d) + mN d ≤ cCount x.desc % 65536) (l : Nat) :
    c.runDesc i t l d =
      let known := fun (o : SplitOut) => x.out.any (fun q => q.row = o.row && q.col = o.col)
      let r := c.matResult t d a b
      let parts := partsOut d x.desc (c.groupSize g) r.1
      let e := (((c.countConv i r.2.1 r.2.2).onColl g x.cseq (fun x => { x with
        out := x.out ++ parts.filter (fun o => !known o) })).packTurn).ctrLimit i
      let e := if dGrad d && r.1.any (·.any wordNonFinite) then e.setVote i else e
      if parts.any known then .gone ((e.fault t (e.headSlot t 0) caBadShape).popUnit t 0) else .done e := by
  have run : c.runDesc i t l d = c.opMatmulSplit i t d := by simp [Chip.runDesc, is]
  have inside : (decide (swCol (mC d) % 32 ≠ 0) || decide (mN d % 32 ≠ 0) ||
      decide (cCount x.desc / 65536 < swRow (mC d) + mM d) || decide (cCount x.desc % 65536 < swCol (mC d) + mN d)) = false := by
    simp [col, width, rows, cols]
  rw [run, Chip.opMatmulSplit, sound]
  simp only [Ran.unless, formats, stream, inside, Bool.false_eq_true, if_false]

/-- Settles O27: a product is written whole; a split product by whether the stream has one of its block rows already. -/
theorem matrixComplete : Obligations.MatrixComplete := by
  intro s i t d a b h formats full
  have sound {n : Nat} (is : dOp d = n) (k : opClass n = some .matrix) : (s.seen i t 0 d).mFault i d = none :=
    mFault_of_issues h (is ▸ k)
  refine ⟨fun is => issue_done h ?_, fun is => issue_done h ?_, ?_⟩
  · exact runDesc_matmul (.inl is) (sound is rfl) formats _
  · exact runDesc_matmul (.inr is) (sound is rfl) formats _
  · intro g x is stream col width rows cols n parts known sends
    have run := runDesc_matmulSplit is (sound is rfl) formats stream col width rows cols (t := t) (s.chip.job i).lexp
    refine ⟨fun fresh => issue_done h (run.trans (if_neg ?_)), fun again => issue_gone h (run.trans (if_pos ?_))⟩
    · exact fun known => let ⟨o, mem, k⟩ := List.any_eq_true.1 known; Bool.false_ne_true ((fresh o mem).symm.trans k)
    · exact List.any_eq_true.2 again

end Sys2Proof.Machine

namespace Sys2Proof.Machine

/-! The DMA channels (R100 to R102, R158 to R160, R178 to R181). -/

section
variable {s : State} {i t u op : Nat} {d : Desc} (h : s.Issues i t u d) (is : dOp d = op)
include h is

/-- A move that the tile takes shows no fault to its channel. -/
theorem moveFault_of_issues (move : op ≤ 0x04) :
    (s.seen i t u d).moveFault i d (op = 0x03 || op = 0x04) (op = 0x01 || op = 0x03 || op = 0x04) = none := by
  have sound := seen_unitFault h
  simp only [Chip.unitFault, is, opClass, show op ≤ 6 by omega, if_true, show ¬ op = 5 by omega, show ¬ op = 6 by omega,
    decide_false, Bool.or_self, Bool.false_eq_true, if_false] at sound
  exact eq_none_of_orElse sound

/-- A stash descriptor that the tile takes shows no fault to its channel. -/
theorem stashFault_of_issues (stash : op = 0x05 ∨ op = 0x06) : (s.seen i t u d).stashFault i d (op = 0x05) = none := by
  have sound := seen_unitFault h
  rcases stash with rfl | rfl <;> simp only [Chip.unitFault, is] at sound <;> exact eq_none_of_orElse sound

end

/-- What a unit sees of an owner of tiles is what stands. -/
theorem seen_inst (s : State) (i t u : Nat) (d : Desc) (j : Nat) : (s.seen i t u d).inst j = s.chip.inst j := by
  obtain ⟨ts, n, e⟩ := seen_eq s i t u d
  rw [e]
  rfl

section
variable {c : Chip} {i t : Nat} {d : Desc}

/-- Rows that show no fault and are not held move: every source is read before the first byte is written (R102). -/
theorem moveRows_of_free {n : Nat} {rows : List (Nat × Nat)} (sound : c.rowsFault i d n rows = none)
    (free : c.rowsHeld i d n rows = false) :
    c.moveRows i t d n rows = .done ((rows.map (fun r => (r.2, c.refRead i t (refPlus (vSrc d) r.1) n))).foldl
        (fun (e : Chip) r => e.refWrite i t (refPlus (vDst d) r.1) r.2)
        (rows.foldl (fun (e : Chip) r => e.refTouch i (refPlus (vSrc d) r.1) n) c)) := by
  rw [Chip.moveRows, sound]
  exact if_neg (Bool.eq_false_iff.1 free)

/-- An index list that shows no fault and is not held is read first (R160). -/
theorem withIndex_of_free (sound : c.rowFault i (vIndex d) 0 (4 * vRows d) false = none)
    (free : c.refHeld i (vIndex d) (4 * vRows d) false = false) (k : Chip → List Nat → Ran) :
    c.withIndex i t d k = k (c.refTouch i (vIndex d) (4 * vRows d))
      (unpackWide 4 (vRows d) (c.refRead i t (vIndex d) (4 * vRows d))) := by
  rw [Chip.withIndex, sound]
  exact if_neg (Bool.eq_false_iff.1 free)

theorem runDesc_copy (is : dOp d = 0x00) (sound : c.moveFault i d false false = none) (l : Nat) :
    c.runDesc i t l d = c.moveRows i t d (vLength d) [(0, 0)] := by
  have run : c.runDesc i t l d = c.opCopy i t d := by simp [Chip.runDesc, is]
  rw [run, Chip.opCopy, sound, Ran.unless]

theorem runDesc_copy2d (is : dOp d = 0x01) (sound : c.moveFault i d false true = none) (l : Nat) :
    c.runDesc i t l d =
      c.moveRows i t d (vLength d) ((List.range (vRows d)).map (fun r => (r * vSstride d, r * vDstride d))) := by
  have run : c.runDesc i t l d = c.opCopy2d i t d := by simp [Chip.runDesc, is]
  rw [run, Chip.opCopy2d, sound, Ran.unless]

/-- A FILL whose destination shows no fault and is not held writes its word over it. -/
theorem runDesc_fill (is : dOp d = 0x02) (sound : c.moveFault i d false false = none)
    (fits : c.refFault i (vDst d) (vLength d) true = none) (free : c.refHeld i (vDst d) (vLength d) true = false) (l : Nat) :
    c.runDesc i t l d =
      .done (c.refWrite i t (vDst d) ((List.range (vLength d / 4)).flatMap (fun _ => leBytes 4 (bits (vSrc d) 31 0)))) := by
  have run : c.runDesc i t l d = c.opFill i t d := by simp [Chip.runDesc, is]
  rw [run, Chip.opFill, sound, Ran.unless, fits, Ran.unless, free]
  exact if_neg Bool.false_ne_true

theorem runDesc_gather (is : dOp d = 0x03) (sound : c.moveFault i d true true = none) (l : Nat) :
    c.runDesc i t l d = c.withIndex i t d (fun c idx =>
      c.moveRows i t d (vLength d) (idx.mapIdx (fun r k => (k * vSstride d, r * vDstride d)))) := by
  have run : c.runDesc i t l d = c.opGather i t d := by simp [Chip.runDesc, is]
  rw [run, Chip.opGather, sound, Ran.unless]

theorem runDesc_scatter (is : dOp d = 0x04) (sound : c.moveFault i d true true = none) (l : Nat) :
    c.runDesc i t l d = c.withIndex i t d (fun c idx =>
      c.moveRows i t d (vLength d) (idx.mapIdx (fun r k => (r * vSstride d, k * vDstride d)))) := by
  have run : c.runDesc i t l d = c.opScatter i t d := by simp [Chip.runDesc, is]
  rw [run, Chip.opScatter, sound, Ran.unless]

/-- A STASH_PUT without compression writes its rows and records the range while the directory has room (R179, R180). -/
theorem runDesc_stashPut_plain (is : dOp d = 0x05) (sound : c.stashFault i d true = none) (plain : swCmp d = false)
    (room : (c.inst i).stash.length < 4096) (l : Nat) :
    c.runDesc i t l d = .done (((c.copyWrite i 0 (refAddr (vDst d)) ((List.range (vRows d)).flatMap (fun r =>
      c.storeRead t (refOff (vSrc d) + r * vSstride d) (vLength d)))).wakeHub 1).onInst i (fun x => { x with stash := x.stash ++
        [{ addr := refAddr (vDst d), bytes := vRows d * vLength d, layer := swLayer d, staged := false }] })) := by
  have run : c.runDesc i t l d = c.opStashPut i t d := by simp [Chip.runDesc, is]
  rw [run, Chip.opStashPut, sound]
  simp only [Ran.unless, swRange, plain, Bool.not_false, if_true, Bool.false_eq_true, if_false, List.flatMap_map, id]
  exact congrArg Ran.done (if_pos room)

/-- A STASH_GET without compression or distance writes the stored bytes to the tile, and frees their staging (R179, R181). -/
theorem runDesc_stashGet_plain (is : dOp d = 0x06) (sound : c.stashFault i d false = none) (plain : swCmp d = false)
    (near : swDist d = 0) (rows : vRows d ≠ 0) {o : Obj}
    (there : c.stashAt i (refAddr (vSrc d)) (vRows d * vLength d) = some o) (l : Nat) :
    c.runDesc i t l d = .done (((c.wakeHub 1).unstage i (refAddr (vSrc d)) (vRows d * vLength d)).storeWrite t (refOff (vDst d))
      (c.copyRead i o 0 (refAddr (vSrc d)) (vRows d * vLength d))) := by
  have run : c.runDesc i t l d = c.opStashGet i t d := by simp [Chip.runDesc, is]
  have there : (c.wakeHub 1).stashAt i (refAddr (vSrc d)) (vRows d * vLength d) = some o := there
  rw [run, Chip.opStashGet, sound]
  simp only [Ran.unless, swRange, plain, near, Nat.zero_min, List.range_zero, List.map_nil, List.foldl_nil, rows, if_false,
    Bool.false_eq_true, there, Bool.not_false, if_true]
  rfl

end

/-- Settles O26: each move by the rows it moves, once its channel has found no fault; the stash by its two plain forms. -/
theorem movesComplete : Obligations.MovesComplete := by
  intro s i t d u z n index free move listed h
  refine ⟨fun is ok => issue_done h ?_, fun is ok => issue_done h ?_, fun is ok notHeld => issue_done h ?_,
    fun ok notHeld => ⟨fun is rows => issue_done h ?_, fun is rows => issue_done h ?_⟩,
    fun is plain room => issue_done h ?_, fun o is plain near rows there => issue_done h ?_⟩
  · exact (runDesc_copy is (moveFault_of_issues h is (by decide)) _).trans (moveRows_of_free ok.1 ok.2)
  · exact (runDesc_copy2d is (moveFault_of_issues h is (by decide)) _).trans (moveRows_of_free ok.1 ok.2)
  · exact runDesc_fill is (moveFault_of_issues h is (by decide)) ok notHeld _
  · exact (runDesc_gather is (moveFault_of_issues h is (by decide)) _).trans
      ((withIndex_of_free ok notHeld _).trans (moveRows_of_free rows.1 rows.2))
  · exact (runDesc_scatter is (moveFault_of_issues h is (by decide)) _).trans
      ((withIndex_of_free ok notHeld _).trans (moveRows_of_free rows.1 rows.2))
  · exact runDesc_stashPut_plain is (stashFault_of_issues h is (.inl rfl)) plain (by rwa [seen_inst]) _
  · exact runDesc_stashGet_plain is (stashFault_of_issues h is (.inr rfl)) plain near rows there _

end Sys2Proof.Machine

namespace Sys2Proof.Machine

/-! Tile stores as commands read them (R83), and writes in progress in them (R84). -/

/-- Two chips that differ in their tiles alone. -/
def Chip.SameButTiles (c d : Chip) : Prop := ∃ ts, d = { c with tiles := ts }

theorem Chip.SameButTiles.refl (c : Chip) : c.SameButTiles c := ⟨c.tiles, rfl⟩

theorem Chip.SameButTiles.trans {c d e : Chip} (h : c.SameButTiles d) (k : d.SameButTiles e) : c.SameButTiles e := by
  obtain ⟨_, rfl⟩ := h
  obtain ⟨ts, rfl⟩ := k
  exact ⟨ts, rfl⟩

theorem setTile_sameButTiles (c : Chip) (t : Nat) (k : Tile) : c.SameButTiles (c.setTile t k) := ⟨_, rfl⟩

theorem foldl_sameButTiles {α : Type} {f : Chip → α → Chip} (step : ∀ (c : Chip) a, c.SameButTiles (f c a)) (l : List α) (c : Chip) :
    c.SameButTiles (l.foldl f c) := by
  induction l generalizing c with
  | nil => exact .refl c
  | cons a l ih => exact (step c a).trans (ih _)

/-- What a unit wrote lands in the tiles alone. -/
theorem landed_sameButTiles (c v d : Chip) (t u : Nat) : d.SameButTiles (c.landed v d t u) := by
  refine foldl_sameButTiles (fun d e => ?_) _ _
  dsimp only
  split
  · exact .refl d
  · exact (foldl_sameButTiles (fun e g => setTile_sameButTiles e _ _) _ _).trans (setTile_sameButTiles _ _ _)

/-- What an unwritten byte reads as stays while the tile's store is not zeroed. -/
theorem setTile_storeFree {c : Chip} {t : Nat} {k : Tile} (zeroed : k.zeroed = (c.tile t).zeroed) :
    (c.setTile t k).storeFree = c.storeFree := by
  funext u a
  by_cases same : t = u
  · subst same
    simp [Chip.storeFree, zeroed, Chip.bootNo]
  · simp [Chip.storeFree, Chip.setTile_tile_ne c k same, Chip.bootNo]

/-- A tile whose bytes stay leaves every store reading as before. -/
theorem setTile_storeRead {c : Chip} {t : Nat} {k : Tile} (cells : k.cells = (c.tile t).cells)
    (zeroed : k.zeroed = (c.tile t).zeroed) : (c.setTile t k).storeRead = c.storeRead := by
  funext u a n
  rw [Chip.storeRead, Chip.storeRead, setTile_storeFree zeroed]
  by_cases same : t = u
  · subst same
    rw [Chip.setTile_tile_self, cells]
  · rw [Chip.setTile_tile_ne c k same]

theorem foldl_storeRead {α : Type} {f : Chip → α → Chip} (step : ∀ c a, (f c a).storeRead = c.storeRead) (l : List α) (c : Chip) :
    (l.foldl f c).storeRead = c.storeRead := by
  induction l generalizing c with
  | nil => rfl
  | cons a l ih => exact (ih _).trans (step c a)

theorem granulesOf_self (m : Mem) : granulesOf m m = [] := by
  have none' : m.filter (fun x => !m.contains x) = [] := List.filter_eq_nil_iff.2 fun x mem => by simpa using mem
  unfold granulesOf
  rw [none']
  rfl

/-- Over a view that shows the stores as they stand, what a unit leaves reads as it wrote it. -/
theorem landed_storeRead (c d : Chip) (t u : Nat) : (c.landed c d t u).storeRead = d.storeRead := by
  refine foldl_storeRead (fun d e => ?_) _ _
  dsimp only
  split
  · rfl
  · rw [granulesOf_self]
    exact setTile_storeRead rfl rfl

theorem past_storeRead (c : Chip) (i t u : Nat) (d : Desc) : (c.past i t u d).storeRead = c.storeRead := by
  refine (setTile_storeRead (by rfl) (by rfl)).trans ?_
  rcases passFence_eq c t d with e | e <;> rw [e]
  exact setTile_storeRead rfl rfl

/-- Byte k of a run that is written reads as the run's byte k. -/
theorem storeRead_storeWrite_at (c : Chip) (u a : Nat) (bs : List Byte) {k : Nat} (h : k < bs.length) :
    (c.storeWrite u a bs).storeRead u (a + k) 1 = [bs[k]] := by
  simp [Chip.storeRead, Chip.storeWrite, mread_eq, mfind_mwrite, h]

/-- A byte outside the run that is written reads as before. -/
theorem storeRead_storeWrite_off (c : Chip) {u v a b : Nat} {bs : List Byte} (h : v ≠ u ∨ b < a ∨ a + bs.length ≤ b) :
    (c.storeWrite u a bs).storeRead v b 1 = c.storeRead v b 1 := by
  rw [Chip.storeRead, Chip.storeRead, Chip.storeWrite, Chip.onTile_eq, setTile_storeFree]
  · by_cases same : u = v
    · subst same
      rw [Chip.setTile_tile_self]
      exact mread_mwrite_other _ _ a bs b 1 (by omega)
    · rw [Chip.setTile_tile_ne _ _ same]
  · rfl

theorem storeRead_length (c : Chip) (t a n : Nat) : (c.storeRead t a n).length = n := mread_length _ _ _ _

/-- A longer read is its bytes. -/
theorem storeRead_byte (c : Chip) (t a : Nat) {n k : Nat} (h : k < n) :
    [(c.storeRead t a n)[k]'(by rwa [storeRead_length])] = c.storeRead t (a + k) 1 := by
  simp [Chip.storeRead, mread_eq]

/-! No write in progress anywhere (R84). -/

/-- No write in progress anywhere in the tile stores. -/
def Chip.Quiet (c : Chip) : Prop := ∀ e ∈ c.tiles, ∀ b ∈ e.2.before, c.inProgress b = false

/-- Then a unit sees the stores as they stand. -/
theorem view_of_quiet {c : Chip} (h : c.Quiet) : c.view = c := by
  have nothing : c.tiles.flatMap (fun e => (e.2.before.filter c.inProgress).map (fun b => (e.1, b))) = [] := by
    refine List.flatMap_eq_nil_iff.2 fun e mem => List.map_eq_nil_iff.2 (List.filter_eq_nil_iff.2 fun b old => ?_)
    rw [h e mem b old]
    exact Bool.false_ne_true
  simp [Chip.view, nothing]

theorem mem_tput {α : Type} {ts : Tab α} {n : Nat} {v : α} {e : Nat × α} (h : e ∈ tput ts n v) : e = (n, v) ∨ e ∈ ts := by
  induction ts with
  | nil => simpa [tput] using h
  | cons x r ih =>
    obtain ⟨k, w⟩ := x
    unfold tput at h
    split at h
    · rcases List.mem_cons.1 h with h | h
      · exact .inl h
      · exact .inr (List.mem_cons_of_mem _ h)
    · split at h
      · exact List.mem_cons.1 h
      · rcases List.mem_cons.1 h with h | h
        · exact .inr (h ▸ List.mem_cons_self)
        · exact (ih h).imp_right (List.mem_cons_of_mem _)

theorem mem_of_tfind {α : Type} {ts : Tab α} {n : Nat} {v : α} (h : tfind ts n = some v) : (n, v) ∈ ts := by
  induction ts with
  | nil => cases h
  | cons x r ih =>
    obtain ⟨k, w⟩ := x
    unfold tfind at h
    split at h
    · next same => cases h; exact same ▸ List.mem_cons_self
    · exact List.mem_cons_of_mem _ (ih h)

/-- An old granule that a tile keeps stands in an entry of the tiles: a tile not listed keeps none. -/
theorem mem_tiles_of_before {c : Chip} {t : Nat} {b : Before} (h : b ∈ (c.tile t).before) : ∃ e ∈ c.tiles, b ∈ e.2.before := by
  cases f : tfind c.tiles t with
  | none => simp [Chip.tile, tget, f, Tile.initial] at h
  | some k => exact ⟨(t, k), mem_of_tfind f, by simpa [Chip.tile, tget, f] using h⟩

/-- A tile that keeps fewer old granules, whose units' heads ran before where they have run, leaves no new write in
progress. -/
theorem quiet_setTile {c : Chip} (quiet : c.Quiet) {t : Nat} {k : Tile} (fewer : ∀ b ∈ k.before, b ∈ (c.tile t).before)
    (heads : ∀ u, (k.unitQ u).head?.any (·.ran) = true → ((c.tile t).unitQ u).head?.any (·.ran) = true) :
    (c.setTile t k).Quiet := by
  have before {b : Before} (h : c.inProgress b = false) : (c.setTile t k).inProgress b = false := by
    by_cases same : t = b.tile
    · subst same
      refine Bool.eq_false_iff.2 fun on => Bool.eq_false_iff.1 h ?_
      simp only [Chip.inProgress, Chip.setTile_tile_self, Bool.and_eq_true] at on ⊢
      exact ⟨on.1, heads _ on.2⟩
    · simpa only [Chip.inProgress, Chip.setTile_tile_ne c k same] using h
  intro e mem b old
  rcases mem_tput mem with rfl | mem
  · obtain ⟨e, mem, old⟩ := mem_tiles_of_before (fewer b old)
    exact before (quiet e mem b old)
  · exact before (quiet e mem b old)

/-- A descriptor that stands at the head of its unit and has not run writes nothing yet. -/
theorem quiet_past {c : Chip} (quiet : c.Quiet) (i t u : Nat) (d : Desc) : (c.past i t u d).Quiet := by
  have fenced : (c.passFence t d).Quiet := by
    rcases passFence_eq c t d with e | e <;> rw [e]
    · exact quiet
    · exact quiet_setTile quiet (fun b h => (List.mem_filter.1 h).1) fun _ h => h
  refine quiet_setTile fenced (fun _ h => h) fun v h => ?_
  by_cases same : u = v
  · subst same
    simp [Tile.unitQ] at h
  · simpa [Tile.unitQ, tget_tput_ne _ _ _ same] using h

/-! COPY between tile stores (R100, R102). -/

/-- A COPY between tile stores is never held: what is held lies in model space (R17, R25, R221). -/
theorem rowsHeld_of_stores {c : Chip} {i : Nat} {d : Desc} (n : Nat) (src : refSpace (vSrc d) ≠ 2) (dst : refSpace (vDst d) ≠ 2) :
    c.rowsHeld i d n [(0, 0)] = false := by
  simp [Chip.rowsHeld, Chip.refHeld, refPlus, src, dst]

section
variable {i : Nat} {r : RefBits} (store : refSpace r ≠ 2)
include store

theorem refTouch_of_store (c : Chip) (n : Nat) : c.refTouch i r n = c := if_neg store

theorem refRead_of_store (c : Chip) (t n : Nat) : c.refRead i t r n = c.storeRead (refStore t r) (refOff r) n := if_neg store

theorem refWrite_of_store (c : Chip) (t : Nat) {bs : List Byte} (some' : bs ≠ []) :
    c.refWrite i t r bs = c.storeWrite (refStore t r) (refOff r) bs := by
  rw [Chip.refWrite, if_neg (by simpa using some'), if_neg store]

theorem refWrite_sameButTiles (c : Chip) (t : Nat) (bs : List Byte) : c.SameButTiles (c.refWrite i t r bs) := by
  by_cases none' : bs = []
  · subst none'
    exact .refl c
  · rw [refWrite_of_store store c t none']
    exact setTile_sameButTiles c _ _

/-- Byte k written through a reference to a store reads as the k-th of the bytes. -/
theorem refWrite_at (c : Chip) (t : Nat) (bs : List Byte) {k : Nat} (h : k < bs.length) :
    (c.refWrite i t r bs).storeRead (refStore t r) (refOff r + k) 1 = [bs[k]] := by
  rw [refWrite_of_store store c t (List.ne_nil_of_length_pos (by omega))]
  exact storeRead_storeWrite_at c _ _ bs h

/-- Every other byte of every store reads as before. -/
theorem refWrite_off (c : Chip) (t : Nat) (bs : List Byte) {u a : Nat}
    (h : u ≠ refStore t r ∨ a < refOff r ∨ refOff r + bs.length ≤ a) :
    (c.refWrite i t r bs).storeRead u a 1 = c.storeRead u a 1 := by
  by_cases none' : bs = []
  · subst none'
    rfl
  · rw [refWrite_of_store store c t none']
    exact storeRead_storeWrite_off c h

end

section
variable (s : State) (i t u : Nat) (d : Desc) (f : Chip → Chip) (w : Bool)

/-- What a unit's descriptor leaves differs in the tiles alone from its effect on the chip as the unit sees it. -/
theorem ran_sameButTiles : (f (s.seen i t u d)).SameButTiles (s.ran i t u d f w).chip :=
  (landed_sameButTiles _ _ _ t u).trans (setTile_sameButTiles _ _ _)

/-- With no write in progress the unit sees the stores as they stand, and every store reads in the end as its effect left
it. -/
theorem ran_storeRead_of_quiet (quiet : s.chip.Quiet) :
    s.seen i t u d = s.chip.past i t u d ∧ (s.ran i t u d f w).chip.storeRead = (f (s.chip.past i t u d)).storeRead := by
  have seen := view_of_quiet (quiet_past quiet i t u d)
  refine ⟨seen, (setTile_storeRead (by rfl) (by rfl)).trans ?_⟩
  rw [Chip.doing, seen]
  exact landed_storeRead _ _ t u

end

/-- The effect of a COPY: the source as the chip has it, at the destination (R100, R102). -/
def Chip.copied (c : Chip) (i t : Nat) (d : Desc) : Chip :=
  (c.refTouch i (vSrc d) (vLength d)).refWrite i t (vDst d) (c.refRead i t (vSrc d) (vLength d))

section
variable (c : Chip) (i t : Nat) {d : Desc} (src : refSpace (vSrc d) ≠ 2) (dst : refSpace (vDst d) ≠ 2)
include src

theorem copied_of_stores : c.copied i t d =
    c.refWrite i t (vDst d) (c.storeRead (refStore t (vSrc d)) (refOff (vSrc d)) (vLength d)) := by
  rw [Chip.copied, refTouch_of_store src, refRead_of_store src]

include dst

theorem copied_sameButTiles : c.SameButTiles (c.copied i t d) := by
  rw [copied_of_stores c i t src]
  exact refWrite_sameButTiles dst c t _

/-- Byte k of the destination reads what byte k of the source read. -/
theorem copied_at {k : Nat} (h : k < vLength d) :
    (c.copied i t d).storeRead (refStore t (vDst d)) (refOff (vDst d) + k) 1 =
      c.storeRead (refStore t (vSrc d)) (refOff (vSrc d) + k) 1 := by
  rw [copied_of_stores c i t src, refWrite_at dst c t _ (by rwa [storeRead_length]), storeRead_byte c _ _ h]

/-- Every other byte reads as before. -/
theorem copied_off {u a : Nat} (h : u ≠ refStore t (vDst d) ∨ a < refOff (vDst d) ∨ refOff (vDst d) + vLength d ≤ a) :
    (c.copied i t d).storeRead u a 1 = c.storeRead u a 1 := by
  rw [copied_of_stores c i t src]
  exact refWrite_off dst c t _ (by rwa [storeRead_length])

end

/-- Settles O51: the COPY is `movesComplete`'s; it writes at the destination the bytes that its unit sees at the source, which
are the chip's own where no write is in progress. -/
theorem copyMovesBytes : Obligations.CopyMovesBytes := by
  intro s s' i t d n byte h is src dst sound next
  have sees : (s.seen i t (2 + dCh d) d).rowsFault i d n [(0, 0)] = none := by
    obtain ⟨ts, k, e⟩ := seen_eq s i t (2 + dCh d) d
    rw [e]
    exact sound
  have copies : exec (.copy t d) s = .next (s.ran i t (2 + dCh d) d (fun c => c.copied i t d) false) :=
    (movesComplete s i t d h).1 is ⟨sees, rowsHeld_of_stores _ src dst⟩
  obtain rfl := Host.Outcome.next.inj (next.symm.trans copies)
  obtain ⟨ts, alike⟩ := (copied_sameButTiles (s.seen i t (2 + dCh d) d) i t src dst).trans
    (ran_sameButTiles s i t (2 + dCh d) d (fun c => c.copied i t d) false)
  refine ⟨fun quiet => ?_, ?_⟩
  · obtain ⟨seen, reads⟩ := ran_storeRead_of_quiet s i t (2 + dCh d) d (fun c => c.copied i t d) false quiet
    have before := past_storeRead s.chip i t (2 + dCh d) d
    refine ⟨fun k low => ?_, fun u a other => ?_, ?_⟩
    · exact (congrFun (congrFun (congrFun reads _) _) 1).trans ((copied_at _ i t src dst low).trans (by rw [before]))
    · exact (congrFun (congrFun (congrFun reads _) _) 1).trans ((copied_off _ i t src dst other).trans (by rw [before]))
    · obtain ⟨us, e⟩ := past_eq s.chip i t (2 + dCh d) d
      rw [alike, seen, e]
  · obtain ⟨us, k, e⟩ := seen_eq s i t (2 + dCh d) d
    rw [alike, e]

end Sys2Proof.Machine

namespace Sys2Proof.Machine

/-! The sequencer and its REPEATs (R85, R113, R114). -/

/-- A fence that has passed leaves its tile as it was but for the old granules it keeps. -/
theorem passFence_tile (c : Chip) (t : Nat) (d : Desc) : ∃ b, (c.passFence t d).tile t = { c.tile t with before := b } := by
  rcases passFence_eq c t d with e | e <;> rw [e]
  · exact ⟨_, rfl⟩
  · exact ⟨_, Chip.setTile_tile_self ..⟩

/-- A descriptor that stands where a running tile fetches, faultless, with no wait of its own and nothing to stall it,
starts past its fence. -/
theorem issue_starts {c : Chip} {i t : Nat} {d : Desc} (own : c.ownerOf t = some i) :
    let k := (c.passFence t d).tile t
    k.run = .running → k.ended = false → k.hold = none → c.stands t k.pc d = true → c.fetchFault i k.pc k.loops d = none →
      k.stalls d = false → dWait d = false → c.issue t d = (c.passFence t d).start i t d := by
  obtain ⟨b, e⟩ := passFence_tile c t d
  rw [e]
  intro k run ended hold stands sound free noWait
  have run : (c.tile t).run = .running := run
  have ended : (c.tile t).ended = false := ended
  have hold : (c.tile t).hold = none := hold
  have free : (c.tile t).stalls d = false := free
  have stands : c.stands t (c.tile t).pc d = true := stands
  have sound : c.fetchFault i (c.tile t).pc (c.tile t).loops d = none := sound
  simp [Chip.issue, own, run, ended, hold, stands, sound, free, noWait]

/-- A NOP without SIG only moves the sequencer on (R100). -/
theorem start_nop {c : Chip} {i t : Nat} {d : Desc} (nop : dOp d = 0x70) (noSig : dSig d = false) :
    c.start i t d = c.advance t (c.tile t).pc := by
  have sequencer : unitOf d = none := by simp [unitOf, opClass, nop]
  simp [Chip.start, sequencer, Chip.control, nop, Chip.headSig, noSig]

/-- The sequencer goes on where it stays in the tile's store. -/
theorem advance_of_next {c : Chip} {t n : Nat} {ls : List Loop}
    (next : loopNext (c.tile t).loops ((c.tile t).pc + 64) = (n, ls)) (inside : n < storeBytes) :
    c.advance t (c.tile t).pc = c.setTile t { c.tile t with pc := n, loops := ls } := by
  simp only [Chip.advance, Chip.goTo, next, Nat.not_le.2 inside, if_false, Chip.onTile_eq]

/-- With iterations left the end of a span leads back to its first descriptor. -/
theorem loopNext_again {l : Loop} (ls : List Loop) (left : l.iter + 1 < l.count) :
    loopNext (l :: ls) l.past = (l.first, { l with iter := l.iter + 1 } :: ls) := by
  simp [loopNext, left]

/-- After the last iteration it leads behind the span, where no outer span ends too. -/
theorem loopNext_over {l : Loop} {ls : List Loop} (last : l.count ≤ l.iter + 1) (alone : ∀ m ∈ ls.head?, m.past ≠ l.past) :
    loopNext (l :: ls) l.past = (l.past, ls) := by
  cases ls with
  | nil => simp [loopNext, last]
  | cons m ls => simp [loopNext, last, (alone m rfl).symm]

/-- Before its end the span goes on. -/
theorem loopNext_within {l : Loop} (ls : List Loop) {n : Nat} (before : n ≠ l.past) : loopNext (l :: ls) n = (n, l :: ls) := by
  simp [loopNext, before]

/-- Settles O57: the NOP moves the sequencer to where `loopNext` leads, round the span, behind it or within it. -/
theorem repeatGoesRound : Obligations.RepeatGoesRound := by
  intro s i t d l ls c k on live own run ended hold loops stands sound free noWait noSig nop
  have moves {n : Nat} {ls' : List Loop} (next : loopNext (l :: ls) (k.pc + 64) = (n, ls')) (inside : n < storeBytes) :
      exec (.nopDescriptor t d) s = .next (on { k with pc := n, loops := ls' }) := by
    refine onChip_to live (f := fun c => c.issue t d)
      ((issue_starts own run ended hold stands sound free noWait).trans ((start_nop nop noSig).trans ?_))
    exact advance_of_next (by rw [show (c.tile t).loops = l :: ls from loops]; exact next) inside
  refine ⟨fun atEnd left inside => moves (atEnd ▸ loopNext_again ls left) inside,
    fun atEnd last alone inside => moves ?_ inside, fun before inside => ?_⟩
  · rw [atEnd]
    exact loopNext_over last alone
  · rw [moves (loopNext_within ls before) inside, ← loops]

end Sys2Proof.Machine

namespace Sys2Proof.Machine

/-! Number formats there and back (R116 to R121). -/

/-- A whole number is its own rounding. -/
theorem roundHalfEven_one (n : Nat) : roundHalfEven n 1 = n := by
  simp [roundHalfEven, Nat.mod_one]

theorem roundRatio_whole (m : Nat) : roundRatio m 1 0 = m := by
  simp [roundRatio, roundHalfEven_one]

theorem toIntRound_ofInt (v : Int) : (Num.ofInt v).toIntRound = v := by
  simp only [Num.ofInt, Num.toIntRound, roundRatio_whole, sgn, decide_eq_true_eq]
  split <;> omega

/-- An integer of the range converts to its code, without saturation. -/
theorem convertInt_ofInt {w : Nat} {lo hi v : Int} (low : lo ≤ v) (high : v ≤ hi) :
    convertInt w lo hi (Num.ofInt v) = { code := (BitVec.ofInt w v).toNat } := by
  have kept : clampInt lo hi (Num.ofInt v).toIntRound = (v, false) := by
    rw [toIntRound_ofInt, clampInt, if_neg (Int.not_lt.2 low), if_neg (Int.not_lt.2 high)]
  rw [Num.ofInt] at kept ⊢
  simp only [convertInt, kept]

/-- So a signed code of w bits converts back to itself. -/
theorem convertInt_signed {w k : Nat} (fits : k < 2 ^ w) :
    convertInt w (-2 ^ (w - 1)) (2 ^ (w - 1) - 1) (Num.ofInt (BitVec.ofNat w k).toInt) = { code := k } := by
  rw [convertInt_ofInt (BitVec.le_toInt _) (Int.le_sub_one_of_lt BitVec.toInt_lt), BitVec.ofInt_toInt, BitVec.toNat_ofNat,
    Nat.mod_eq_of_lt fits]

/-- An unsigned one likewise. -/
theorem convertInt_unsigned {w k : Nat} (fits : k < 2 ^ w) :
    convertInt w 0 (2 ^ w - 1 : Nat) (Num.ofInt (k : Nat)) = { code := k } := by
  rw [convertInt_ofInt (by omega) (by omega), BitVec.ofInt_natCast, BitVec.toNat_ofNat, Nat.mod_eq_of_lt fits]

theorem floorLog2_whole {m : Nat} (some' : m ≠ 0) (e : Int) : floorLog2 m 1 e = Nat.log2 m + e := by
  have one : Nat.log2 1 = 0 := by decide
  have : ¬ m < 2 ^ Nat.log2 m := Nat.not_lt.2 (Nat.log2_self_le some')
  simp [floorLog2, one, this]

section
variable (f : FloatForm)

/-- A normal magnitude, whose fraction has a leading 1, rounds to its own code. -/
theorem magCode_normal {ex fr : Nat} (pos : 0 < ex) (fits : fr < 2 ^ f.p) (max : ex * 2 ^ f.p + fr ≤ f.maxCode) :
    f.magCode (fr + 2 ^ f.p) 1 (ex - f.bias - f.p) = ex * 2 ^ f.p + fr := by
  have some' : fr + 2 ^ f.p ≠ 0 := by have := Nat.two_pow_pos f.p; omega
  have log : Nat.log2 (fr + 2 ^ f.p) = f.p := (Nat.log2_eq_iff some').2 ⟨by omega, by rw [Nat.pow_succ]; omega⟩
  have level : (f.p : Int) + (ex - f.bias - f.p) = ex - f.bias := by omega
  have above : ¬ ((ex : Int) - f.bias < 1 - f.bias) := by omega
  have whole : (ex : Int) - f.bias - f.p - (ex - f.bias) + f.p = 0 := by omega
  have steps : ((ex : Int) - f.bias - (1 - f.bias)).toNat = ex - 1 := by omega
  have code : (ex - 1) * 2 ^ f.p + (fr + 2 ^ f.p) = ex * 2 ^ f.p + fr := by
    obtain ⟨e, rfl⟩ : ∃ e, ex = e + 1 := ⟨ex - 1, by omega⟩
    rw [Nat.add_sub_cancel, Nat.succ_mul]
    omega
  simp only [FloatForm.magCode, some', if_false, floorLog2_whole some', log, level, above, whole, steps, roundRatio_whole,
    code, Nat.not_lt.2 max]

/-- A subnormal magnitude rounds to its own code. -/
theorem magCode_subnormal {fr : Nat} (fits : fr < 2 ^ f.p) (max : fr ≤ f.maxCode) :
    f.magCode fr 1 (1 - f.bias - f.p) = fr := by
  by_cases zero : fr = 0
  · simp [FloatForm.magCode, zero]
  have log : Nat.log2 fr < f.p := (Nat.log2_lt zero).2 fits
  have below : (Nat.log2 fr : Int) + (1 - f.bias - f.p) < 1 - f.bias := by omega
  have whole : (1 : Int) - f.bias - f.p - (1 - f.bias) + f.p = 0 := by omega
  simp only [FloatForm.magCode, zero, if_false, floorLog2_whole zero, below, if_true, whole, roundRatio_whole, Int.sub_self,
    Int.toNat_zero, Nat.zero_mul, Nat.zero_add, Nat.not_lt.2 max]

/-- The value of a finite code: its sign, and its magnitude as R116 splits it. -/
def FloatForm.finite (neg : Bool) (mag : Nat) : Num :=
  if mag / 2 ^ f.p = 0 then .fin neg (mag % 2 ^ f.p) 1 (1 - f.bias - f.p)
  else .fin neg (mag % 2 ^ f.p + 2 ^ f.p) 1 ((mag / 2 ^ f.p : Nat) - f.bias - f.p)

/-- A finite code converts back to itself. -/
theorem convert_finite {neg : Bool} {mag : Nat} (max : mag ≤ f.maxCode) :
    f.convert (f.finite neg mag) = { code := mag + f.signBit neg } := by
  have fits : mag % 2 ^ f.p < 2 ^ f.p := Nat.mod_lt _ (Nat.two_pow_pos _)
  have parts : mag / 2 ^ f.p * 2 ^ f.p + mag % 2 ^ f.p = mag := Nat.div_add_mod' _ _
  unfold FloatForm.finite
  split
  · next sub =>
    have code : f.magCode (mag % 2 ^ f.p) 1 (1 - f.bias - f.p) = mag := by
      rw [sub, Nat.zero_mul, Nat.zero_add] at parts
      rw [parts] at fits ⊢
      exact magCode_subnormal f fits max
    simp only [FloatForm.convert, code, Nat.not_lt.2 max, if_false]
  · next normal =>
    have code : f.magCode (mag % 2 ^ f.p + 2 ^ f.p) 1 ((mag / 2 ^ f.p : Nat) - f.bias - f.p) = mag :=
      (magCode_normal f (Nat.pos_of_ne_zero normal) fits (by rwa [parts])).trans parts
    simp only [FloatForm.convert, code, Nat.not_lt.2 max, if_false]

/-- A code is its magnitude and its sign bit. -/
theorem mag_add_signBit {k : Nat} (fits : k < 2 ^ (f.ebits + f.p + 1)) :
    k % 2 ^ (f.ebits + f.p) + f.signBit (bitOf k (f.ebits + f.p)) = k := by
  have parts := Nat.div_add_mod' k (2 ^ (f.ebits + f.p))
  have small : k / 2 ^ (f.ebits + f.p) < 2 := Nat.div_lt_of_lt_mul (by rwa [Nat.pow_succ] at fits)
  simp only [FloatForm.signBit, bitOf, decide_eq_true_eq, Nat.mod_eq_of_lt small]
  generalize k / 2 ^ (f.ebits + f.p) = sign at parts small
  obtain rfl | rfl : sign = 0 ∨ sign = 1 := by omega
  · simpa using parts
  · simpa [Nat.add_comm] using parts

/-- The layouts of R116: above the largest finite magnitude lies infinity, where the format has one, and else the NaN. -/
structure FloatForm.Sound : Prop where
  inf : ∀ i, f.infCode = some i → i = f.maxCode + 1
  nan : f.infCode = none → ∀ k, f.maxCode < k → k < 2 ^ (f.ebits + f.p) → f.nanCode = some k

variable {f}

/-- A code that is not NaN converts back to itself. -/
theorem convert_decode (sound : f.Sound) {k : Nat} (fits : k < 2 ^ (f.ebits + f.p + 1)) (num : (f.decode k).isNan = false) :
    f.convert (f.decode k) = { code := k } := by
  have whole := mag_add_signBit f fits
  have inside : k % 2 ^ (f.ebits + f.p) < 2 ^ (f.ebits + f.p) := Nat.mod_lt _ (Nat.two_pow_pos _)
  unfold FloatForm.decode at num ⊢
  cases code : f.infCode with
  | some i =>
    have top := sound.inf i code
    simp only [code] at num ⊢
    split at num
    · next is => simp only [is, if_true, FloatForm.convert, code]; rw [← is, whole]
    · next other =>
      split at num
      · cases num
      · next below =>
        rw [if_neg other, if_neg below]
        exact (convert_finite f (by omega)).trans (by rw [whole])
  | none =>
    simp only [code] at num ⊢
    split at num
    · cases num
    · next other =>
      rw [if_neg other]
      refine (convert_finite f (Nat.not_lt.1 fun high => other ?_)).trans (by rw [whole])
      exact sound.nan code _ high inside

end

theorem e4m3_sound : FloatForm.Sound ⟨4, 3, 7, 0x7E, none, some 0x7F⟩ where
  inf := nofun
  nan _ k high inside := by rw [show k = 0x7F by simp at high inside; omega]

theorem e5m2_sound : FloatForm.Sound ⟨5, 2, 15, 0x7B, some 0x7C, some 0x7F⟩ where
  inf _ code := (Option.some.inj code).symm
  nan := nofun

theorem e2m1_sound : FloatForm.Sound ⟨2, 1, 1, 7, none, none⟩ where
  inf := nofun
  nan _ k high inside := by simp at high inside; omega

/-- The B4 levels lie apart, so that each is its own nearest one. -/
theorem convertB4_decode : ∀ k < 16, convertB4 (Fmt.b4.decode k) = { code := k } := by decide

/-- Settles O59: the floating formats by their layouts, the integer formats by their ranges, B4 by its sixteen levels. -/
theorem codesSurviveARoundTrip : Obligations.CodesSurviveARoundTrip := by
  intro f mem k fits num
  simp only [List.mem_cons, List.not_mem_nil, or_false] at mem
  rcases mem with rfl | rfl | rfl | rfl | rfl | rfl | rfl
  · exact convert_decode e4m3_sound fits num
  · exact convert_decode e5m2_sound fits num
  · exact convert_decode e2m1_sound fits num
  · exact convertInt_signed (w := 8) fits
  · exact convertInt_signed (w := 4) fits
  · exact (congrArg Fmt.a8.convert (congrArg (fun k : Nat => Num.ofInt k) (Nat.mod_eq_of_lt fits))).trans
      (convertInt_unsigned (w := 8) fits)
  · exact convertB4_decode k fits

end Sys2Proof.Machine

namespace Sys2Proof.Machine

/-! Signals and acknowledgements received, waits released, descriptors completed (R86, R87, R235, R238 to R241, R253). -/

/-- What a tile's own descriptor elsewhere, or a HOST_SIGNAL, learns of an update that was discarded (R238, R239, R253). -/
theorem semAnswer_tile {c : Chip} {t u slot : Nat} (other : u ≠ t) (cause : Nat) : c.semAnswer t (.tile u slot) cause =
    { c with acks := c.acks ++ [{ target := u, source := t, slot := slot, cause := cause }] } := if_neg other

theorem semAnswer_host {c : Chip} {t cause : Nat} (fails : cause ≠ 0) (r : Ref) : c.semAnswer t (.host r) cause =
    c.reply r.queue r.tag stDescriptorError (errorWord 0 0x7FF cause).toNat 0 [] := if_neg fails

/-- With no REPEAT open the sequencer goes on at the next descriptor. -/
theorem advance_setTile_flat {c : Chip} {t n : Nat} {k : Tile} (flat : k.loops = []) (inside : n + 64 < storeBytes) :
    (c.setTile t k).advance t n = c.setTile t { k with pc := n + 64 } := by
  simp only [Chip.advance, Chip.goTo, Chip.setTile_tile_self, flat, loopNext, Nat.not_le.2 inside, if_false, Chip.onTile_eq,
    Chip.setTile_setTile]

section
variable {s : State} {t : Nat} (live : s.Live)
include live

/-- The oldest signal of a sender: it waits for its turn in the tc, comes back from a tile that does not run, or is due. -/
theorem signalReceived_of_find {n : Nat} {x : Sig}
    (first : s.chip.sigs.find? (fun y => y.target = t && y.sender.origin = n) = some x) :
    let rest := dropFirst (fun y => y.target = t && y.sender.origin = n) s.chip.sigs
    let c : Chip := { s.chip with sigs := rest }
    exec (.semaphoreSignalReceived t n) s = .next { s with chip :=
      (if (s.chip.tile t).due.any (fun u => u.rank = 5) = true then s.chip
      else if (s.chip.tile t).run ≠ .running then c.semAnswer t x.sender caSemResidue
      else c.semDue t { rank := 5, sem := x.sem, count := x.count, sender := x.sender }) } := by
  intro rest c
  show execSemaphoreSignalReceived t n s = _
  refine onChip_to live ?_
  simp only [first]
  rfl

/-- An acknowledgement takes one from the sender's count, after the fault that it carries, if any (R235, R238). -/
theorem ackReceived_of_find {n : Nat} {x : Ack} (first : s.chip.acks.find? (fun y => y.target = t && y.source = n) = some x) :
    let c : Chip := { s.chip with acks := dropFirst (fun y => y.target = t && y.source = n) s.chip.acks }
    exec (.signalAckReceived t n) s = .next { s with chip :=
      (if x.cause = 0 then c else c.fault t x.slot x.cause).onTile t (fun k => { k with unacked := k.unacked - 1 }) } := by
  intro c
  show execSignalAckReceived t n s = _
  refine onChip_to live ?_
  simp only [first]
  rfl

/-- A wait holds on, or releases the descriptor whose header carried it, or lets the sequencer go on behind a WAIT (R241). -/
theorem waitRelease_of_hold {i : Nat} {h : Hold} (hold : (s.chip.tile t).hold = some h) (own : s.chip.ownerOf t = some i) :
    let c := s.chip.setTile t { s.chip.tile t with hold := none }
    exec (.waitRelease t) s = .next { s with chip :=
      (if !h.satisfied then s.chip else if h.header then c.start i t h.desc
      else (c.headSig t (s.chip.tile t).pc 0 h.desc).advance t (s.chip.tile t).pc) } := by
  intro c
  show execWaitRelease t s = _
  refine onChip_to live ?_
  simp only [hold, own]
  rfl

/-- A descriptor alone at its unit that has run and waits for nothing leaves it, its writes whole (R87). -/
theorem descriptorComplete_of_alone {u i : Nat} {e : Issued} (own : s.chip.ownerOf t = some i)
    (alone : (s.chip.tile t).unitQ u = [e]) (settled : s.chip.descOver i e = true) (ran : e.ran = true) (free : e.awaits = false) :
    exec (.descriptorComplete t u) s = .next { s with chip :=
      (Chip.runHead i t u 1 (((s.chip.settleWrites t u).popUnit t u).headSig t e.slot (u + 1) e.desc)) } := by
  show execDescriptorComplete t u s = _
  refine onChip_to live ?_
  simp only [own, alone, ran, free, settled, Bool.not_true, Bool.false_eq_true, if_false, List.length_nil, Nat.lt_irrefl,
    decide_false, Bool.or_self, Nat.zero_add]

end

/-- Settles O24: the four events by what they find: a signal, an acknowledgement, a wait, a descriptor that has run. -/
theorem sequencerEventsComplete : Obligations.SequencerEventsComplete := by
  intro s t live c k
  refine ⟨fun n => ⟨fun none' => ?_, fun x first => ⟨fun busy => ?_, fun free idle => ⟨fun u slot sender other => ?_,
      fun r sender => ?_⟩, fun free runs => ?_⟩⟩, fun n => ⟨fun none' => ?_, fun x first => ⟨fun fine => ?_, fun fails => ?_⟩⟩,
    fun h i hold own => ⟨fun waits => ?_, fun done noHeader noSig flat inside => ?_, fun done header => ?_⟩,
    fun u e i own alone ran free pend => ?_⟩
  · show execSemaphoreSignalReceived t n s = _
    refine onChip_to live ?_
    simp only [show s.chip.sigs.find? _ = none from none']
  · rw [signalReceived_of_find live first, if_pos busy]
  · rw [signalReceived_of_find live first, if_neg (Bool.eq_false_iff.1 free), if_pos idle, sender, semAnswer_tile other]
  · rw [signalReceived_of_find live first, if_neg (Bool.eq_false_iff.1 free), if_pos idle, sender, semAnswer_host (by decide)]
  · rw [signalReceived_of_find live first, if_neg (Bool.eq_false_iff.1 free), if_neg (not_not_intro runs)]
    rfl
  · show execSignalAckReceived t n s = _
    refine onChip_to live ?_
    simp only [show s.chip.acks.find? _ = none from none']
  · rw [ackReceived_of_find live first, if_pos fine]
    rfl
  · rw [ackReceived_of_find live first, if_neg fails]
  · rw [waitRelease_of_hold live hold own, waits]
    rfl
  · rw [waitRelease_of_hold live hold own, done, noHeader]
    simp only [Bool.not_true, Bool.false_eq_true, if_false, Chip.headSig, noSig]
    rw [advance_setTile_flat (by exact flat) (by exact inside)]
  · rw [waitRelease_of_hold live hold own, done, header]
    rfl
  · have accepted : (decide (dOp e.desc = 0x12) && s.chip.splitPending i e.desc) = false := by
      rcases pend with other | none'
      · rw [decide_eq_false other, Bool.false_and]
      · rw [show s.chip.splitPending i e.desc = false from none', Bool.and_false]
    exact descriptorComplete_of_alone live own alone (by rw [Chip.descOver, ran, free, accepted]; rfl) ran free

end Sys2Proof.Machine

namespace Sys2Proof.Machine

/-! LAUNCH and LAUNCH_START (R94, R95, R125, R233). -/

/-- A command whose verdict is to wait has no effect. -/
theorem icp_wait {s : State} {op : Byte} {p : Icp} (h : s.Takes op p) {f : Chip → Icp → Verdict}
    (e : f (s.chip.begun op p) p = .wait) : icp op p s f = .next (s.waiting op p) := by
  rw [icp_of_runs h.1 h.2, e]
  rfl

/-- A program is over: its tile is free, and its launch knows; the last one ends it (R95, R245). -/
def Chip.programOver (c : Chip) (i t : Nat) (r : Ref) : Chip :=
  let d := (c.onTile t (fun k => { k with
    run := .idle, launch := none, sems := [], hold := none, loops := [], before := [], stopTc := none })).onLaunch
      i r (fun l => { l with overs := l.overs ++ [t] })
  match d.launchBy i r with
  | none => d
  | some l => d.launchOver i l

section
variable {s : State} (live : s.Live)
include live

/-- LAUNCH_START finds the loaded launch of its tag, or does nothing (R95). -/
theorem launchStart_of_find (i : Nat) (tag : Word) (q : Nat) :
    ((s.chip.inst i).launches.find? (fun l => l.cmd.is q tag && !l.started) = none →
      exec (.launchStart i tag q) s = .next s) ∧
    (∀ l, (s.chip.inst i).launches.find? (fun l => l.cmd.is q tag && !l.started) = some l →
      exec (.launchStart i tag q) s = .next { s with chip :=
        let d := l.tiles.foldl (fun (d : Chip) t =>
          d.onTile t (fun k => { k with run := .running, pc := l.entry, ranStep := true })) s.chip;
        (d.onLaunch i l.cmd (fun l => { l with started := true, epoch := (d.job i).epoch })).reply q tag stPending 0 0 [] }) := by
  refine ⟨fun none' => ?_, fun l first => ?_⟩ <;> show execLaunchStart i tag q s = _ <;> refine onChip_to live ?_
  · simp only [none']
  · simp only [first]

end

/-! A tile's program that is over, or not yet (R95, R238, R244, R245). -/

section
variable {s : State} (live : s.Live) {t i : Nat} {r : Ref} (own : s.chip.ownerOf t = some i) (launch : (s.chip.tile t).launch = some r)
include live own launch

/-- A program that is not over, or whose units, signals or updates are not, goes on. -/
theorem programEnd_goes_on (busy : (s.chip.tile t).unitsEmpty = false ∨ (s.chip.tile t).unacked ≠ 0 ∨ (s.chip.tile t).due ≠ [] ∨
    ((s.chip.tile t).run = .running ∧ (s.chip.tile t).ended = false)) : exec (.programEnd t) s = .next s := by
  show execProgramEnd t s = _
  refine onChip_to live ?_
  simp only [own, launch]
  refine if_pos ?_
  rcases busy with busy | busy | busy | ⟨run, ended⟩
  · simp [busy]
  · simp [busy]
  · simp [busy]
  · simp [run, ended]

/-- One that is over leaves the tile free, a semaphore left at an ended program being a fault first. -/
theorem programEnd_frees (empty : (s.chip.tile t).unitsEmpty = true) (acked : (s.chip.tile t).unacked = 0)
    (settled : (s.chip.tile t).due = [])
    (done : (s.chip.tile t).run = .stopping ∨ ((s.chip.tile t).run = .running ∧ (s.chip.tile t).ended = true)) :
    exec (.programEnd t) s = .next { s with chip := (Chip.programOver
      (if (s.chip.tile t).run = .running ∧ ∃ e ∈ (s.chip.tile t).sems, e.2 ≠ 0 then s.chip.fault t (s.chip.tile t).pc caSemResidue
        else s.chip) i t r) } := by
  have residue : ((decide ((s.chip.tile t).run = .running) && (s.chip.tile t).ended) &&
      (s.chip.tile t).sems.any (fun e => decide (e.2 ≠ 0))) = true ↔
        (s.chip.tile t).run = .running ∧ ∃ e ∈ (s.chip.tile t).sems, e.2 ≠ 0 := by
    rcases done with stop | ⟨run, ended⟩
    · simp [stop]
    · simp [run, ended]
  show execProgramEnd t s = _
  refine onChip_to live ?_
  simp only [own, launch, residue]
  refine (if_neg ?_).trans rfl
  rcases done with stop | ⟨run, ended⟩
  · simp [stop, empty, acked, settled]
  · simp [run, ended, empty, acked, settled]

end

end Sys2Proof.Machine

namespace Sys2Proof.Machine

/-! Clocks (R242, R397), and one tc of the generators (R123). -/

section
variable {s : State} (live : s.Live)
include live

/-- A tile gates its clock where it is idle and no wait of it is about to release; else nothing happens (R242). -/
theorem tileClockGate_of_idle {t : Nat} (small : t < 1600) :
    exec (.tileClockGate t) s = .next (if (s.chip.tile t).idle && !(s.chip.tile t).hold.any (·.satisfied) then
      { s with chip := s.chip.setTile t { s.chip.tile t with gated := true } } else s) := by
  show execTileClockGate t s = _
  rw [execTileClockGate, onChip_live live]
  simp only [small, decide_true, Bool.true_and]
  split <;> rfl

theorem engineClockGate_engine {e : Nat} (small : e < 24) :
    exec (.engineClockGate e) s = .next (if (s.chip.engine e).queue.isEmpty then
      { s with chip := s.chip.setEngine e { s.chip.engine e with gated := true } } else s) := by
  show execEngineClockGate e s = _
  rw [execEngineClockGate, onChip_live live]
  simp only [small, if_true]
  split <;> rfl

theorem engineClockGate_hub {k : Nat} (small : k < 5) :
    exec (.engineClockGate (24 + k)) s = .next (if s.chip.hubIdle k && !s.chip.gatedHub.contains k then
      { s with chip := { s.chip with gatedHub := s.chip.gatedHub ++ [k] } } else s) := by
  show execEngineClockGate (24 + k) s = _
  rw [execEngineClockGate, onChip_live live]
  simp only [show ¬ 24 + k < 24 by omega, show 24 + k < 29 by omega, Nat.add_sub_cancel_left, decide_true, Bool.true_and, if_false]
  split <;> rfl

end

theorem rngAfter_succ (n : Nat) (x : Word × Word × Word × Word) : rngAfter (n + 1) x = rngNext (rngAfter n x) := by
  induction n generalizing x with
  | zero => rfl
  | succ n ih => exact ih (rngNext x)

/-- A change of entries that keeps their numbers changes each entry found. -/
theorem tfind_map {α : Type} {f : Nat × α → Nat × α} (keys : ∀ e, (f e).1 = e.1) (ts : Tab α) (n : Nat) :
    tfind (ts.map f) n = (tfind ts n).map (fun v => (f (n, v)).2) := by
  induction ts with
  | nil => rfl
  | cons x r ih =>
    obtain ⟨k, v⟩ := x
    have key : (f (k, v)).1 = k := keys (k, v)
    rw [List.map_cons, show f (k, v) = (k, (f (k, v)).2) from Prod.ext key rfl, tfind, tfind]
    split
    · next same => subst same; rfl
    · exact ih

/-- The tc leaves what the generators were loaded with. -/
theorem tickTiles_load (c : Chip) (t : Nat) :
    (c.tickTiles.tile t).seed = (c.tile t).seed ∧ (c.tickTiles.tile t).seededAt = (c.tile t).seededAt := by
  have keys (e : Nat × Tile) : (if e.2.run = .running && (c.ownerOf e.1).any (fun i => (c.job i).phase = .compute) then
      (e.1, { e.2 with ranStep := true, phaseTime := e.2.phaseTime + bit (!e.2.idle) }) else e).1 = e.1 := by split <;> rfl
  simp only [Chip.tickTiles, Chip.tile, tget, tfind_map keys]
  cases tfind c.tiles t with
  | none => exact ⟨rfl, rfl⟩
  | some k => simp only [Option.map_some, Option.getD_some]; split <;> exact ⟨rfl, rfl⟩

/-- Every generator advances once in a tc (R123). -/
theorem rngAt_tick {c : Chip} {t : Nat} (l : Nat) (loaded : (c.tile t).seededAt ≤ c.tc) :
    ({ c.tickTiles with tc := c.tc + 1 } : Chip).rngAt t l (c.tc + 1) = rngNext (c.rngAt t l c.tc) := by
  obtain ⟨seed, at'⟩ := tickTiles_load c t
  show rngAfter (c.tc + 1 - (c.tickTiles.tile t).seededAt) (rngLoad (c.tickTiles.tile t).seed t l) = _
  rw [seed, at', Nat.succ_sub loaded]
  exact rngAfter_succ _ _

/-- Settles O23: LAUNCH by its refusal, the read it waits for or its load; the other rows by what they find on the chip. -/
theorem launchRowsComplete : Obligations.LaunchRowsComplete := by
  intro s c
  refine ⟨fun p r takes fails => ?_, fun p o takes sound there => ⟨fun held => ?_, fun free => ?_⟩,
    fun i tag q live => launchStart_of_find live i tag q, fun t i r live own launch => ?_, fun t live small => ⟨?_, ?_⟩,
    fun e live small => ⟨fun none' => ?_, fun some' => ?_⟩, fun k live small => ⟨fun idle on => ?_, fun busy => ?_⟩,
    fun live => ⟨?_, fun t l loaded => rngAt_tick l loaded⟩⟩
  · exact icp_refuse takes (by simp only [begun_launchFault, show s.chip.launchFault p = some r from fails])
  · refine icp_wait takes ?_
    simp only [begun_launchFault, begun_objAt, begun_cmdHeld, show s.chip.launchFault p = none from sound,
      show s.chip.objAt p.who (p.par 0 8) = some o from there]
    exact if_pos held
  · refine icp_later takes ?_
    simp only [begun_launchFault, begun_objAt, begun_cmdHeld, begun_frontRead, show s.chip.launchFault p = none from sound,
      show s.chip.objAt p.who (p.par 0 8) = some o from there]
    exact if_neg (Bool.eq_false_iff.1 free)
  · refine ⟨fun empty acked settled => ⟨fun done => ?_, fun run ended left => ?_⟩, programEnd_goes_on live own launch⟩
    · have clean : ¬ ((s.chip.tile t).run = .running ∧ ∃ e ∈ (s.chip.tile t).sems, e.2 ≠ 0) := by
        rcases done with stop | ⟨run, ended, zero⟩
        · exact fun h => nomatch stop.symm.trans h.1
        · exact fun ⟨_, e, mem, left⟩ => left (zero e mem)
      refine (programEnd_frees live own launch empty acked settled (done.imp_right fun h => ⟨h.1, h.2.1⟩)).trans ?_
      rw [if_neg clean]
      rfl
    · refine (programEnd_frees live own launch empty acked settled (.inr ⟨run, ended⟩)).trans ?_
      rw [if_pos ⟨run, left⟩]
      rfl
  · intro empty idle
    refine (tileClockGate_of_idle live small).trans (congrArg _ (if_pos ?_))
    have empty : (s.chip.tile t).unitsEmpty = true := empty
    rcases idle with ⟨run, hold⟩ | ⟨h, hold, waits⟩
    · simp [Tile.idle, empty, show (s.chip.tile t).run = .idle from run, show (s.chip.tile t).hold = none from hold]
    · simp [Tile.idle, empty, show (s.chip.tile t).hold = some h from hold, waits]
  · intro busy
    refine (tileClockGate_of_idle live small).trans (congrArg _ (if_neg ?_))
    rcases busy with busy | ⟨run, hold⟩ | ⟨h, hold, done⟩
    · simp [Tile.idle, show (s.chip.tile t).unitsEmpty = false from busy]
    · simp [Tile.idle, show (s.chip.tile t).run ≠ .idle from run, show (s.chip.tile t).hold = none from hold]
    · simp [show (s.chip.tile t).hold = some h from hold, done]
  · refine (engineClockGate_engine live small).trans ?_
    rw [if_pos (by simpa using none')]
  · refine (engineClockGate_engine live small).trans ?_
    rw [if_neg (by simpa using some')]
  · refine (engineClockGate_hub live small).trans (congrArg _ (if_pos ?_))
    rw [show s.chip.hubIdle k = true from idle, show s.chip.gatedHub.contains k = false from on]
    rfl
  · refine (engineClockGate_hub live small).trans (congrArg _ (if_neg ?_))
    rcases busy with busy | off
    · simp [show s.chip.hubIdle k = false from busy]
    · rw [show s.chip.gatedHub.contains k = true from off, Bool.not_true, Bool.and_false]
      exact Bool.false_ne_true
  · show execRandomGeneratorAdvance s = _
    exact onChip_to live rfl

end Sys2Proof.Machine

namespace Sys2Proof.Machine

/-! The other forms of the stash moves (R128, R132, R133, R178 to R181). -/

/-- The rows of a STASH_PUT in the tile's store (R178). -/
def Chip.putRows (c : Chip) (t : Nat) (d : Desc) : List (List Byte) :=
  (List.range (vRows d)).map (fun r => c.storeRead t (refOff (vSrc d) + r * vSstride d) (vLength d))

/-- The values of those rows in the descriptor's format. -/
def Chip.putLines (c : Chip) (t : Nat) (d : Desc) : List (List Num) :=
  (c.putRows t d).map (fun bs => ((fmtOf (swFmt d)).unpack (swElems d) bs).map (fmtOf (swFmt d)).decode)

/-- The scale set of a compressed STASH_PUT (R132, R179). -/
def Chip.putScales (c : Chip) (t : Nat) (d : Desc) : List Byte :=
  scalePass .e4m3 (c.putLines t d) (groupLines (swElems d))

/-- The values of a compressed STASH_PUT, quantised under that set (R133). -/
def Chip.putQuantised (c : Chip) (t : Nat) (d : Desc) : List (List Cv) :=
  List.zipWith (fun l (s : Num × Nat) => l.map (quantise .e4m3 s.1 s.2)) (c.putLines t d)
    (readScales (c.putScales t d) (vRows d) (groupLines (swElems d)))

/-- The values of a compressed range of the store, converted to the descriptor's format (R133, R179). -/
def stashDequantised (d : Desc) (bs : List Byte) : List (List Cv) :=
  (readScales (bs.drop (swCodes d)) (vRows d) (groupLines (swElems d))).mapIdx (fun r (s : Num × Nat) =>
    (cut bs (r * swElems d) (swElems d)).map (fun b => dequantise .e4m3 (fmtOf (swFmt d)) s.1 s.2 b.toNat))

/-- Neither a hub engine's clock nor a write to model space changes what an instance holds. -/
@[simp] theorem wakeHub_inst (c : Chip) (k j : Nat) : (c.wakeHub k).inst j = c.inst j := rfl

@[simp] theorem copyWrite_inst (c : Chip) (i copy a : Nat) (bs : List Byte) (j : Nat) :
    (c.copyWrite i copy a bs).inst j = c.inst j := rfl

/-- Counting conversions leaves the stash directory alone. -/
@[simp] theorem countConv_stash (c : Chip) (i nans sats : Nat) :
    ((c.countConv i nans sats).inst i).stash = (c.inst i).stash := by
  unfold Chip.countConv
  by_cases nans = 0 <;> by_cases sats = 0 <;> simp [*, Chip.count]

section
variable {c : Chip} {i t : Nat} {d : Desc}

/-- A STASH_PUT without compression writes its rows and counts the range that a full directory does not take (R179, R180). -/
theorem runDesc_stashPut_full (is : dOp d = 0x05) (sound : c.stashFault i d true = none) (plain : swCmp d = false)
    (full : (c.inst i).stash.length = 4096) (l : Nat) :
    c.runDesc i t l d =
      .done (((c.copyWrite i 0 (refAddr (vDst d)) ((c.putRows t d).flatMap id)).wakeHub 1).count i 9 1) := by
  have run : c.runDesc i t l d = c.opStashPut i t d := by simp [Chip.runDesc, is]
  rw [run, Chip.opStashPut, sound]
  simp only [Ran.unless, plain, Bool.not_false, if_true]
  exact congrArg Ran.done (if_neg (Nat.not_lt.2 (Nat.le_of_eq full.symm)))

/-- A STASH_PUT with compression writes the codes, then the scale set, and records the range while the directory has room
(R179, R180). -/
theorem runDesc_stashPut_codes (is : dOp d = 0x05) (sound : c.stashFault i d true = none) (cmp : swCmp d = true)
    (room : (c.inst i).stash.length < 4096) (l : Nat) :
    let out := c.putQuantised t d
    let k := cvCounts (out.flatMap id)
    c.runDesc i t l d =
      .done (((((c.copyWrite i 0 (refAddr (vDst d)) (out.flatMap (fun l => Fmt.e4m3.pack (l.map (·.code))))).copyWrite i 0
        (refAddr (vDst d) + swCodes d) (c.putScales t d)).countConv i k.1 k.2).wakeHub 1).onInst i (fun x => { x with
          stash := x.stash ++ [{ addr := refAddr (vDst d), bytes := swRange d, layer := swLayer d, staged := false }] })) := by
  have run : c.runDesc i t l d = c.opStashPut i t d := by simp [Chip.runDesc, is]
  intro out k
  rw [run, Chip.opStashPut, sound]
  simp only [Ran.unless, cmp, Bool.not_true, Bool.false_eq_true, if_false]
  simp only [wakeHub_inst, countConv_stash, copyWrite_inst, if_pos room]
  rfl

/-- A STASH_GET with compression and no distance writes what the stored codes and scales say, and frees their staging (R179,
R181). -/
theorem runDesc_stashGet_codes (is : dOp d = 0x06) (sound : c.stashFault i d false = none) (cmp : swCmp d = true)
    (near : swDist d = 0) (rows : vRows d ≠ 0) {o : Obj} (there : c.stashAt i (refAddr (vSrc d)) (swRange d) = some o) (l : Nat) :
    let got := stashDequantised d (c.copyRead i o 0 (refAddr (vSrc d)) (swRange d))
    let k := cvCounts (got.flatMap id)
    c.runDesc i t l d = .done ((((c.wakeHub 1).unstage i (refAddr (vSrc d)) (swRange d)).storeWrite t (refOff (vDst d))
      (got.flatMap (fun l => (fmtOf (swFmt d)).pack (l.map (·.code))))).countConv i k.1 k.2) := by
  have run : c.runDesc i t l d = c.opStashGet i t d := by simp [Chip.runDesc, is]
  have there : (c.wakeHub 1).stashAt i (refAddr (vSrc d)) (swRange d) = some o := there
  intro got k
  rw [run, Chip.opStashGet, sound]
  simp only [Ran.unless, near, Nat.zero_min, List.range_zero, List.map_nil, List.foldl_nil, rows, if_false, there, cmp,
    Bool.not_true, Bool.false_eq_true]
  rfl

/-- A STASH_GET of no rows only stages the layers within its distance, the nearest first (R181). -/
theorem runDesc_stashGet_noRows (is : dOp d = 0x06) (sound : c.stashFault i d false = none) (rows : vRows d = 0) (l : Nat) :
    c.runDesc i t l d = .done (((List.range (min (swDist d) (swLayer d))).map (fun k => swLayer d - 1 - k)).foldl
      (fun (c : Chip) l => c.stageLayer i l) (c.wakeHub 1)) := by
  have run : c.runDesc i t l d = c.opStashGet i t d := by simp [Chip.runDesc, is]
  rw [run, Chip.opStashGet, sound]
  exact if_pos rows

end

/-- Settles O58: the PUT by its form and the room in the directory, the GET by its rows. -/
theorem stashFormsComplete : Obligations.StashFormsComplete := by
  intro s i t d u z f n put rows lines set out k h
  refine ⟨fun is plain full => issue_done h ?_, fun is cmp room => issue_done h ?_,
    fun o is cmp near some' there => issue_done h ?_, fun is none' => issue_done h ?_⟩
  · exact runDesc_stashPut_full is (stashFault_of_issues h is (.inl rfl)) plain (by rwa [seen_inst]) _
  · exact runDesc_stashPut_codes is (stashFault_of_issues h is (.inl rfl)) cmp (by rwa [seen_inst]) _
  · exact runDesc_stashGet_codes is (stashFault_of_issues h is (.inr rfl)) cmp near some' there _
  · exact runDesc_stashGet_noRows is (stashFault_of_issues h is (.inr rfl)) none' _

end Sys2Proof.Machine

namespace Sys2Proof.Machine

/-! BRUIN_SET by its KIND (R147, R211, R216 to R219, R230). -/

section
variable {c : Chip} {p : Icp}

/-- With eight live cores no KIND is refused for want of one (R211). -/
theorem fewCores_of_enough (enough : 8 ≤ c.liveCores) : c.fewCores = none := if_pos enough

/-- Bruin holds no object once no job runs and no end of one is still to come. -/
theorem bruinBusy_of_idle {i : Nat} (idle : c.jobRuns i = false) (settled : (c.inst i).ended = none) : c.bruinBusy i = false := by
  simp [Chip.bruinBusy, idle, settled]

/-- KIND 1 with a job, its end still to come, or the object registered already is refused (R216, R219). -/
theorem bruinRegister_of_busy (enough : 8 ≤ c.liveCores)
    (busy : c.jobRuns p.who = true ∨ (c.inst p.who).ended.isSome = true ∨
      (c.bobj p.who (bits (leNat p.params) 511 448)).isSome = true) : c.bruinRegister p = c.badState p := by
  simp only [Chip.bruinRegister, fewCores_of_enough enough]
  exact if_pos (by simpa [Chip.bruinBusy, or_assoc] using busy)

/-- The object that a block registers, before its owned shards are counted (R217). -/
def newBObj (b : Nat) : BObj :=
  { addr := bits b 511 448, block := BitVec.ofNat 1024 b, updates := 0, lastEpoch := 0, clamped := 0, infs := 0, nans := 0
    owned := 0, p1 := 0x3F800000, p2 := 0x3F800000 }

/-- KIND 1 with LOCAL 1 and sound fields writes the state of each owned shard and registers the object (R217, R218). -/
theorem bruinRegister_of_local {n : Nat} :
    let i := p.who
    let b := leNat p.params
    8 ≤ c.liveCores → c.jobRuns i = false → (c.inst i).ended = none → c.bobj i (bits b 511 448) = none → bits b 330 330 = 1 →
    (c.ownedShards (newBObj b)).length = n → c.bruinField i b (c.groupSize (bits b 329 320)) n = none →
    c.bruinRegister p = .done 0 [] (((List.range n).foldl (fun (c : Chip) k =>
      c.landModel i (bits b 639 576 + stateBytes b * k) (stateInit b)) c).onInst i
        (fun x => { x with bobjs := x.bobjs ++ [{ newBObj b with owned := BitVec.ofNat 16 n }] })) := by
  intro i b enough idle settled new loc owned sound
  have free : ¬(c.bruinBusy i || (c.bobj i (bits b 511 448)).isSome) = true := by
    simp [bruinBusy_of_idle idle settled, new]
  have noGroup (q : Bool) : ¬(!decide (bits b 330 330 = 1) && q) = true := by simp [loc]
  subst owned
  simp only [Chip.bruinRegister, fewCores_of_enough enough]
  refine (if_neg free).trans ((if_neg (noGroup _)).trans ((if_neg (noGroup _)).trans ?_))
  simp only [newBObj, b, i] at sound
  simp only [sound]
  rfl

/-- KIND 2 with the registered block's fixed fields and a positive finite LIMIT replaces the block (R219). -/
theorem bruinChange_of_same {o : BObj} :
    let b := leNat p.params
    8 ≤ c.liveCores → c.bobj p.who (bits b 511 448) = some o → bits o.block.toNat 799 8 = bits b 799 8 →
    0 < bits b 831 800 → bits b 831 800 < 0x7F800000 →
    c.bruinChange p =
      .done 0 [] (c.onBObj p.who o.addr (fun o => { o with block := BitVec.ofNat 1024 (b / 256 * 256 + 1) })) := by
  intro b enough there same pos fin
  have fixed : ¬(!sameButHyper o.block.toNat b) = true := by simp [sameButHyper, same]
  have limit : ¬(bits b 831 800 = 0 || 0x7F800000 ≤ bits b 831 800) = true := by simp [Nat.pos_iff_ne_zero.1 pos, fin]
  simp only [Chip.bruinChange, fewCores_of_enough enough, show c.bobj p.who (bits (leNat p.params) 511 448) = some o from there]
  exact (if_neg fixed).trans (if_neg limit)

/-- KIND 3 with no job drops the registration (R216). -/
theorem bruinRemove_of_idle {o : BObj} (idle : c.jobRuns p.who = false) (settled : (c.inst p.who).ended = none)
    (there : c.bobj p.who (p.par 8 8) = some o) :
    c.bruinRemove p =
      .done 0 [] (c.onInst p.who (fun x => { x with bobjs := x.bobjs.filter (fun b => b.addr ≠ o.addr) })) := by
  simp only [Chip.bruinRemove, bruinBusy_of_idle idle settled, there]
  rfl

/-- KIND 4 replies the registered object's state and changes nothing (R230). -/
theorem bruinStatus_of_registered {o : BObj} (there : c.bobj p.who (p.par 8 8) = some o) :
    c.bruinStatus p = .done 0 (leBytes 32 (packed
      [(c.bstate p.who o.addr, 0), (o.updates.toNat, 16), (o.lastEpoch.toNat, 80), (o.owned.toNat, 144), (o.nans.toNat, 160),
        (o.infs.toNat, 192), (o.clamped.toNat, 224)])) c := by
  simp only [Chip.bruinStatus, there]

theorem bruinSet_of_job (kind : p.par 0 1 = 0) :
    c.bruinSet p = .done 0 [] (c.onJob p.who (fun j => { j with ufLimit := BitVec.ofNat 16 (p.par 6 2) })) := if_pos kind

theorem bruinSet_of_register (kind : p.par 0 1 = 1) : c.bruinSet p = c.bruinRegister p := by simp [Chip.bruinSet, kind]

theorem bruinSet_of_change (kind : p.par 0 1 = 2) : c.bruinSet p = c.bruinChange p := by simp [Chip.bruinSet, kind]

theorem bruinSet_of_remove (kind : p.par 0 1 = 3) : c.bruinSet p = c.bruinRemove p := by simp [Chip.bruinSet, kind]

theorem bruinSet_of_status (kind : p.par 0 1 = 4) : c.bruinSet p = c.bruinStatus p := by simp [Chip.bruinSet, kind]

end

/-- Settles O20: each clause is the verdict of its KIND on the chip as the command begins. -/
theorem bruinCommandsComplete : Obligations.BruinCommandsComplete := by
  intro s p c i b takes
  refine ⟨fun kind => icp_done takes (bruinSet_of_job kind),
    fun kind enough => ⟨fun busy => icp_refuse takes ?_, fun idle settled new loc sound => icp_done takes ?_⟩,
    fun o kind enough there same pos fin => icp_done takes ?_, fun o kind idle settled there => icp_done takes ?_,
    fun o kind there => icp_done takes ?_⟩
  · exact (bruinSet_of_register kind).trans (bruinRegister_of_busy (by simpa using enough) (by simpa using busy))
  · exact (bruinSet_of_register kind).trans (bruinRegister_of_local (by simpa using enough) (by simpa using idle)
      (by simpa using settled) (by simpa using new) loc (congrArg List.length (begun_ownedShards _ _ _ _))
      (by rw [begun_bruinField, begun_groupSize]; exact sound))
  · exact (bruinSet_of_change kind).trans (bruinChange_of_same (by simpa using enough) (by simpa using there) same pos fin)
  · exact (bruinSet_of_remove kind).trans (bruinRemove_of_idle (by simpa using idle) (by simpa using settled) (by simpa using there))
  · refine (bruinSet_of_status kind).trans ((bruinStatus_of_registered (by simpa using there)).trans ?_)
    rw [begun_bstate]; rfl

end Sys2Proof.Machine

namespace Sys2Proof.Machine

/-! Embedding tables (R184 to R191, R207, R208). -/

/-- A command that runs now answers what its verdict settles to. -/
theorem icp_verdict {s : State} {op : Byte} {p : Icp} (h : s.Takes op p) {f : Chip → Icp → Verdict} {v : Verdict}
    (e : f (s.chip.begun op p) p = v) : icp op p s f = .next { s with chip := (s.chip.begun op p).settle p v } := by
  rw [icp_of_runs h.1 h.2, e]

/-- A command that ends with another status after part of its effect. -/
theorem icp_overs {s : State} {op : Byte} {p : Icp} (h : s.Takes op p) {f : Chip → Icp → Verdict} {st d : Nat}
    {g : Chip → Chip} (e : f (s.chip.begun op p) p = .overs st d (g (s.chip.begun op p))) :
    icp op p s f = .next (s.replied op p g st d 0 []) := icp_verdict h e

section
variable {c : Chip} {p : Icp}

theorem tableSet_of_modify (modify : p.bits 18 18 = 1) : c.tableSet p = c.modifyTable p := if_pos modify

theorem tableSet_of_create (create : p.bits 18 18 = 0) : c.tableSet p = c.createTable p := by simp [Chip.tableSet, create]

/-- The object of a table's share, at the window of its number (R186, R188). -/
def shareObj (b : BitVec 512) (held serial : Nat) (ps : List Place) : Obj :=
  { addr := windowBase + tf b 15 0 * 2 ^ 37, length := slotExtents b held * extentBytes, cls := 0, table := some (tf b 15 0)
    stage := 0, serial := serial, extents := ps.map (Extent.new false), migration := none, shardsDone := [], landed := []
    due := [], serveDue := false, panels := [] }

/-- A table as it is made: its block in force, and nothing kept by an engine. -/
def newTable (b : BitVec 512) : Table := { num := tf b 15 0, block := b, digest := tableDigest b, inForce := b, engs := [] }

/-- What a TABLE_CREATE comes to, by what `Chip.placeShare` finds for its share (R163, R184 to R189). -/
def shareVerdict (i : Nat) (b : BitVec 512) (held : Nat) : Option (Chip × ((List Place × List Nat) ⊕ (Nat × Nat))) → Verdict
  | none => badParam 32
  | some (d, .inr (st, t)) => .overs st t d
  | some (d, .inl (ps, rots)) => .done 0 [] ((d.onInst i (fun x => { x with
      objs := x.objs ++ [shareObj b held d.freeCount ps], tables := x.tables ++ [newTable b], rot := rots })).drew)

/-- TABLE_CREATE of a free number with sound parameters, on a group of the instance and of this device, comes to what the
places for the share come to. -/
theorem createTable_of_free {b : BitVec 512} {held : Nat} {r} (is : BitVec.ofNat 512 (leNat p.params) = b)
    (sound : tableParamFault b = none) (free : c.tableOf p.who (tf b 15 0) = none)
    (own : (c.group (tGroup b)).owner = some p.who) (member : (c.selfIn (c.group (tGroup b)).members).isSome = true)
    (rows : heldRows b (max 1 (c.group (tGroup b)).members.length) (c.selfOf (tGroup b)) = held)
    (share : c.placeShare p.who b held = r) : c.createTable p = shareVerdict p.who b held r := by
  simp only [Chip.createTable, is, sound, free, own, Option.isNone_eq_false_iff.2 member, rows, share, Option.isSome_none,
    Bool.false_eq_true, ne_eq, not_true_eq_false, if_false]
  rcases r with _ | ⟨d, ⟨ps, rots⟩ | ⟨st, t⟩⟩
  · rfl
  · rfl
  · rfl

/-- TABLE_CREATE with MODIFY whose first 52 bytes are the table's own but for the MODIFY bit changes its block (R189). -/
theorem modifyTable_of_same {t : Table} :
    let b := BitVec.ofNat 512 (leNat p.params)
    c.tableOf p.who (tf b 15 0) = some t →
    (∀ k < 52, (b.toNat % 2 ^ 416 - 2 ^ 18 * tf b 18 18) / 256 ^ k % 256 = t.block.toNat % 2 ^ 416 / 256 ^ k % 256) →
    c.modifyTable p = .done 0 [] (c.onTable p.who t.num
      (fun t => { t with block := BitVec.ofNat 512 (b.toNat - 2 ^ 18 * tf b 18 18) })) := by
  intro b there same
  have agrees : (List.range 52).find? (fun k =>
      (b.toNat % 2 ^ 416 - 2 ^ 18 * tf b 18 18) / 256 ^ k % 256 ≠ t.block.toNat % 2 ^ 416 / 256 ^ k % 256) = none :=
    List.find?_eq_none.2 fun k hk differ => of_decide_eq_true differ (same k (List.mem_range.1 hk))
  simp only [Chip.modifyTable, show c.tableOf p.who (tf (BitVec.ofNat 512 (leNat p.params)) 15 0) = some t from there]
  rw [agrees]

/-- TABLE_LOAD finds no fault in rows of the table from a source that it reaches (R158, R191, R412). -/
theorem loadFault_of_sound {t : Table} (there : c.tableOf p.who (p.par 0 2) = some t) (idle : c.jobRuns p.who = false)
    (any : p.par 16 8 ≠ 0) (rows : p.par 8 8 + p.par 16 8 ≤ tRows t.block) (kind : p.par 24 1 / 16 ≤ 1) :
    let n := p.par 16 8 * tDim t.block * (if p.par 24 1 / 16 = 0 then 4 else 2)
    (p.par 24 1 % 16 = 1 ∨ (p.par 24 1 % 16 = 0 ∧ p.par 32 8 + n ≤ hostTop) ∨
      (p.par 24 1 % 16 = 2 ∧ ∃ o, c.check p.who (p.par 32 8) n = .ok o)) → c.loadFault p = none := by
  intro n source
  have known : ¬(2 < p.par 24 1 % 16 || 1 < p.par 24 1 / 16) = true := by
    simp only [Bool.or_eq_true, decide_eq_true_eq]; omega
  have below : ¬(p.par 24 1 % 16 = 0 && hostTop < p.par 32 8 + n) = true := by
    simp only [Bool.and_eq_true, decide_eq_true_eq]; omega
  simp only [Chip.loadFault, there]
  refine (if_neg (Bool.eq_false_iff.1 idle)).trans ((if_neg any).trans ((if_neg (Nat.not_lt.2 rows)).trans
    ((if_neg known).trans ((if_neg below).trans ?_))))
  rcases source with pcie | ⟨host, _⟩ | ⟨model, o, found⟩
  · exact if_neg (by omega)
  · exact if_neg (by omega)
  · refine (if_pos model).trans ?_
    rw [show c.check p.who (p.par 32 8) (p.par 16 8 * tDim t.block * (if p.par 24 1 / 16 = 0 then 4 else 2)) = .ok o from found]

end

/-! What a command's read leaves alone beside the ages and poison that it marks (R162, R383). -/

section
variable (c : Chip) (i a n : Nat)

theorem meetPoison_started (copy : Nat) : (c.meetPoison i copy a n).started = c.started := by
  unfold Chip.meetPoison; dsimp only; split <;> rfl

@[simp] theorem touchAt_started : (c.touchAt i a n).started = c.started := by
  unfold Chip.touchAt; split
  · exact meetPoison_started ..
  · rfl

@[simp] theorem touchAt_refOf (p : Icp) : (c.touchAt i a n).refOf p = c.refOf p := by simp [Chip.refOf]

theorem meetPoison_inst {α : Type} (get : Inst → α) (job : ∀ x j, get { x with job := j } = get x) (copy : Nat) :
    get ((c.meetPoison i copy a n).inst i) = get (c.inst i) := by
  unfold Chip.meetPoison; dsimp only; split
  · rfl
  · exact (congrArg get (Chip.setInst_inst_self ..)).trans (job ..)

/-- A read changes nothing of its instance but the ages in its objects and what its job knows of poison. -/
theorem touchAt_inst {α : Type} (get : Inst → α) (objs : ∀ x os, get { x with objs := os } = get x)
    (job : ∀ x j, get { x with job := j } = get x) : get ((c.touchAt i a n).inst i) = get (c.inst i) := by
  unfold Chip.touchAt; split
  · exact (meetPoison_inst _ _ _ _ get job _).trans ((congrArg get (Chip.setInst_inst_self ..)).trans (objs ..))
  · rfl

@[simp] theorem touchAt_hot : ((c.touchAt i a n).inst i).hot = (c.inst i).hot :=
  touchAt_inst c i a n Inst.hot (fun _ _ => rfl) (fun _ _ => rfl)

@[simp] theorem touchAt_tableOf (num : Nat) : (c.touchAt i a n).tableOf i num = c.tableOf i num :=
  congrArg (List.find? _) (touchAt_inst c i a n Inst.tables (fun _ _ => rfl) (fun _ _ => rfl))

end

/-- HOT_SET of a group of the instance, for an epoch still to open, comes to the verdict on its list (R207). -/
theorem hotSet_passes {c : Chip} {p : Icp} :
    let i := p.who
    let g := p.bits 9 0
    let f := p.bits 63 16
    let j := c.job i
    (c.group g).owner = some i → p.bits 148 128 ≤ 1048576 → (j.epoch + 1 < f ∨ (j.epoch < f ∧ j.close ≠ .closed)) →
    ((c.inst i).hot.any (fun h => h.group = g) = true ∨ (c.inst i).hot.length < 4) → ∀ v : Verdict,
    (if (c.group g).owner ≠ some i then .refuse stNoObject 0
      else if 1048576 < p.bits 148 128 then badParam 16
      else if f ≤ j.epoch || (f = j.epoch + 1 && j.close = .closed) then c.badState p
      else if !(c.inst i).hot.any (fun h => h.group = g) && 4 ≤ (c.inst i).hot.length then c.badState p
      else v) = v := by
  intro i g f j own few ahead room v
  have early : ¬(f ≤ j.epoch || (f = j.epoch + 1 && j.close = .closed)) = true := by
    simp only [Bool.or_eq_true, Bool.and_eq_true, decide_eq_true_eq]
    rcases ahead with later | ⟨next, opens⟩
    · omega
    · exact fun past => past.elim (by omega) (fun shut => opens shut.2)
  have full : ¬(!(c.inst i).hot.any (fun h => h.group = g) && 4 ≤ (c.inst i).hot.length) = true := by
    rcases room with has | below
    · rw [has]; exact Bool.false_ne_true
    · simp only [Bool.and_eq_true, decide_eq_true_eq]; omega
  exact (if_neg (not_not_intro own)).trans ((if_neg (Nat.not_lt.2 few)).trans ((if_neg early).trans (if_neg full)))

/-- A list of rows of tables of the group, each once, shows no fault (R207). -/
theorem hotList_sound {c : Chip} {i g n : Nat} {rows : List (Nat × Nat)}
    (sound : ∀ r ∈ rows, ∃ t, c.tableOf i r.1 = some t ∧ tGroup t.block = g ∧ r.2 < tRows t.block)
    (once : rows.eraseDups.length = n) :
    ((rows.map some).any (·.isNone) || !rows.all (fun r => match c.tableOf i r.1 with
      | some t => tGroup t.block = g && r.2 < tRows t.block
      | none => false) || rows.eraseDups.length < n) = false := by
  refine Bool.or_eq_false_iff.2 ⟨Bool.or_eq_false_iff.2 ⟨by simp, ?_⟩, by simp [once]⟩
  refine congrArg not (List.all_eq_true.2 fun r hr => ?_)
  obtain ⟨t, there, member, row⟩ := sound r hr
  simp [there, member, row]

/-- The chip with a list of rows as its group's next hot set, the list read (R162, R207). -/
def hotListed (p : Icp) (rows : List (Nat × Nat)) (c : Chip) : Chip :=
  (c.touchAt p.who (p.bits 127 64) (8 * p.bits 148 128)).onInst p.who (fun x =>
    { x with hot := withNext x.hot (p.bits 9 0) rows (p.bits 63 16) (c.refOf p) })

/-- What a next hot set comes to, by the tier in which its replicas do not fit (R63, R208). -/
def fitVerdict (d : Chip) : Option Nat → Verdict
  | some tier => .refuse stNoSpace tier
  | none => .pending d

section
variable {s : State} {p : Icp} (takes : s.Takes 0x43 p) (own : (s.chip.group (p.bits 9 0)).owner = some p.who)
  (few : p.bits 148 128 ≤ 1048576)
  (ahead : (s.chip.job p.who).epoch + 1 < p.bits 63 16 ∨
    ((s.chip.job p.who).epoch < p.bits 63 16 ∧ (s.chip.job p.who).close ≠ .closed))
  (room : (s.chip.inst p.who).hot.any (fun h => h.group = p.bits 9 0) = true ∨ (s.chip.inst p.who).hot.length < 4)
  (noNext : ((s.chip.inst p.who).hot.find? (fun h => h.group = p.bits 9 0)).bind (·.next) = none)
include takes own few ahead room noNext

/-- HOT_SET of no rows stands as the group's next set. -/
theorem hotSet_of_empty (empty : p.bits 148 128 = 0) :
    exec (.hotSet p) s = .next (s.pended 0x43 p (fun c => c.onInst p.who (fun x =>
      { x with hot := withNext x.hot (p.bits 9 0) [] (p.bits 63 16) (c.refOf p) }))) := by
  refine icp_pending takes ((hotSet_passes (by simpa using own) few (by simpa using ahead) (by simpa using room) _).trans ?_)
  simp [empty, noNext]

section
variable {o : Obj} {rows : List (Nat × Nat)} (any : 0 < p.bits 148 128)
  (found : s.chip.check p.who (p.bits 127 64) (8 * p.bits 148 128) = .ok o)
  (free : s.chip.cmdHeld p.who o (p.bits 127 64) (8 * p.bits 148 128) false = false)
  (list : (List.range (p.bits 148 128)).map (fun k => hotEntry
    (fieldAt (s.chip.frontRead p.who o (p.bits 127 64) (8 * p.bits 148 128)) (8 * k) 8)) = rows.map some)
  (sound : ∀ r ∈ rows, ∃ t, s.chip.tableOf p.who r.1 = some t ∧ tGroup t.block = p.bits 9 0 ∧ r.2 < tRows t.block)
  (once : rows.eraseDups.length = p.bits 148 128)
include any found free list sound once

/-- HOT_SET of a list that may be read and shows no fault comes to whether the replicas of its rows fit (R207, R208). -/
theorem hotSet_of_list {m : Option Nat} (misfit : (hotListed p rows (s.chip.begun 0x43 p)).hotMisfit p.who = m) :
    exec (.hotSet p) s = .next { s with
      chip := (s.chip.begun 0x43 p).settle p (fitVerdict (hotListed p rows (s.chip.begun 0x43 p)) m) } := by
  refine icp_verdict takes ((hotSet_passes (by simpa using own) few (by simpa using ahead) (by simpa using room) _).trans ?_)
  have filtered : (rows.map some).filterMap id = rows := by simp
  rw [hotListed] at misfit
  simp only [Nat.pos_iff_ne_zero.1 any, if_false, begun_check, found, begun_cmdHeld, free, begun_frontRead, list, filtered,
    touchAt_tableOf, begun_tableOf, touchAt_hot, begun_inst, noNext, touchAt_refOf, misfit, Bool.false_eq_true]
  refine (if_neg (Bool.eq_false_iff.1 (hotList_sound sound once))).trans ?_
  cases m <;> rfl

end

end

/-- Settles O17: each command by the verdict that its lemma gives; TABLE_CREATE by the places that its share finds, HOT_SET by
whether its replicas fit. -/
theorem tableCommandsComplete : Obligations.TableCommandsComplete := by
  intro s p c i b num es held
  have group op k : (s.chip.begun op p).group k = c.group k := begun_group s.chip op p k
  refine ⟨fun takes create sound free own member => ?_, fun t takes modify there same => icp_done takes ?_,
    fun t o takes there share => ?_, fun t takes there idle any rows kind source => icp_later takes ?_, ?_⟩
  · have free : (s.chip.begun 0x40 p).tableOf i num = none := by rw [begun_tableOf]; exact free
    have own : ((s.chip.begun 0x40 p).group (tGroup b)).owner = some i := by rw [group]; exact own
    have member : ((s.chip.begun 0x40 p).selfIn ((s.chip.begun 0x40 p).group (tGroup b)).members).isSome = true := by
      rw [group, begun_selfIn]; exact member
    have rows : heldRows b (max 1 ((s.chip.begun 0x40 p).group (tGroup b)).members.length)
        ((s.chip.begun 0x40 p).selfOf (tGroup b)) = held := by rw [group, begun_selfOf]
    have made {r} (share : (s.chip.begun 0x40 p).placeShare i b held = r) :
        (s.chip.begun 0x40 p).tableSet p = shareVerdict i b held r :=
      (tableSet_of_create create).trans (createTable_of_free rfl sound free own member rows share)
    exact ⟨fun big => icp_refuse takes (made big), fun d st t full => icp_overs takes (made full),
      fun d ps rots placed => icp_done takes (made placed)⟩
  · exact (tableSet_of_modify modify).trans (modifyTable_of_same (by simpa using there) same)
  · have there : s.chip.tableOf p.who (p.par 0 2) = some t := there
    have share : s.chip.shareOf p.who (p.par 0 2) = some o := share
    refine ⟨fun runs => icp_refuse takes ?_, fun idle => icp_done takes ?_⟩ <;>
      simp only [begun_tableOf, begun_shareOf, begun_jobRuns, there, share]
    · exact if_pos runs
    · exact if_neg (Bool.eq_false_iff.1 idle)
  · rw [loadFault_of_sound (by simpa using there) (by simpa using idle) any rows kind (by simpa using source)]
  · intro g f n a takes own few ahead room noNext
    refine ⟨fun empty => hotSet_of_empty takes own few ahead room noNext empty,
      fun o rows any found free list sound once => ?_⟩
    have listed {m} := hotSet_of_list (m := m) takes own few ahead room noNext any found free list sound once
    exact ⟨fun fits => listed fits, fun tier full => listed full⟩

end Sys2Proof.Machine

namespace Sys2Proof.Machine

/-! Replies and COMMAND_DONE (R61): what writing one touches. -/

/-- The chip d is c but for what replies and notices touch on their way out: the queues, the started commands, pending
interrupts, the PCIe function, host memory, the Ethernet ports' counts and the record of what leaves. -/
def Chip.SameButReports (c d : Chip) : Prop :=
  ∃ qs st cs pc h eth out,
    d = { c with queues := qs, started := st, cores := cs, pcie := pc, host := h, eth := eth, out := out }

theorem Chip.SameButReports.refl (c : Chip) : c.SameButReports c := ⟨_, _, _, _, _, _, _, rfl⟩

theorem Chip.SameButReports.trans {c d e : Chip} (h : c.SameButReports d) (k : d.SameButReports e) : c.SameButReports e := by
  obtain ⟨_, _, _, _, _, _, _, rfl⟩ := h
  obtain ⟨_, _, _, _, _, _, _, rfl⟩ := k
  exact ⟨_, _, _, _, _, _, _, rfl⟩

theorem Chip.SameButReports.inst {c d : Chip} (h : c.SameButReports d) (i : Nat) : d.inst i = c.inst i := by
  obtain ⟨_, _, _, _, _, _, _, rfl⟩ := h
  rfl

theorem Chip.SameButReports.tile {c d : Chip} (h : c.SameButReports d) (t : Nat) : d.tile t = c.tile t := by
  obtain ⟨_, _, _, _, _, _, _, rfl⟩ := h
  rfl

theorem foldl_sameButReports {α : Type} {f : Chip → α → Chip} (step : ∀ (c : Chip) a, c.SameButReports (f c a)) (l : List α)
    (c : Chip) : c.SameButReports (l.foldl f c) := by
  induction l generalizing c with
  | nil => exact .refl c
  | cons a l ih => exact (step c a).trans (ih _)

theorem setQueue_sameButReports (c : Chip) (q : Nat) (u : Queue) : c.SameButReports (c.setQueue q u) :=
  ⟨_, _, _, _, _, _, _, rfl⟩

theorem emit_sameButReports (c : Chip) (o : Out) : c.SameButReports (c.emit o) := ⟨_, _, _, _, _, _, _, rfl⟩

theorem raiseVector_sameButReports (c : Chip) (v : Nat) : c.SameButReports (c.raiseVector v) := ⟨_, _, _, _, _, _, _, rfl⟩

theorem raiseMsix_sameButReports (c : Chip) (e : Nat) : c.SameButReports (c.raiseMsix e) := by
  unfold Chip.raiseMsix
  dsimp only
  split
  · exact emit_sameButReports c _
  · exact ⟨_, _, _, _, _, _, _, rfl⟩

theorem sendUdp_sameButReports (c : Chip) (q : Nat) (peer : UdpPeer) (kind : Nat) (msg : Word) (wire : List Byte) :
    c.SameButReports (c.sendUdp q peer kind msg wire) :=
  (foldl_sameButReports (fun d _ => emit_sameButReports d _) _ c).trans ⟨_, _, _, _, _, _, _, rfl⟩

/-- A packet goes out on the route of its queue, or counts as stale there (R49, R324, R327, R337). -/
theorem deliver_sameButReports (c : Chip) (q kind : Nat) (msg : Word) (s : Option Session) (p : Packet) :
    c.SameButReports (c.deliver q kind msg s p) := by
  unfold Chip.deliver
  dsimp only
  split
  · split
    · exact setQueue_sameButReports c q _
    · split
      · exact sendUdp_sameButReports c _ _ _ _ _
      · exact setQueue_sameButReports c q _
  · split
    · exact (foldl_sameButReports (fun d _ => emit_sameButReports d _) _ c).trans
        ((setQueue_sameButReports _ q _).trans ((emit_sameButReports _ _).trans (raiseMsix_sameButReports _ _)))
    · exact setQueue_sameButReports c q _
  · exact Chip.SameButReports.trans ⟨_, _, _, _, _, _, _, rfl⟩ (raiseVector_sameButReports _ _)

theorem reply_sameButReports (c : Chip) (q : Nat) (tag : Word) (status detail result : Nat) (data : List Byte) :
    c.SameButReports (c.reply q tag status detail result data) := by
  unfold Chip.reply
  split
  · exact .refl c
  · exact (setQueue_sameButReports c q _).trans ((setQueue_sameButReports _ _ _).trans
      ((deliver_sameButReports _ _ _ _ _ _).trans ⟨_, _, _, _, _, _, _, rfl⟩))

theorem commandDone_sameButReports (c : Chip) (r : Ref) (status value : Nat) :
    c.SameButReports (c.commandDone r status value) := by
  unfold Chip.commandDone
  split
  · exact .refl c
  · exact (setQueue_sameButReports c r.queue _).trans
      ((deliver_sameButReports _ _ _ _ _ _).trans ⟨_, _, _, _, _, _, _, rfl⟩)

end Sys2Proof.Machine

namespace Sys2Proof.Machine

/-! What an update of a semaphore comes to (R235). -/

/-- An update that stays in range gives the sum (R235). -/
theorem semAdd_of_in_range {top v : Nat} {n : Int} (low : 0 ≤ (v : Int) + n) (high : (v : Int) + n ≤ top) :
    semAdd top v n = .inl ((v : Int) + n).toNat := by
  rw [semAdd]
  exact (if_neg (Int.not_lt.2 low)).trans (if_neg (Int.not_lt.2 high))

/-- The cause of an update that would take a semaphore to v, out of its range (R235). -/
def semCause (v : Int) : Nat := if v < 0 then 0x10 else 0x11

theorem semCause_ne_zero (v : Int) : semCause v ≠ 0 := by
  unfold semCause
  split <;> decide

/-- An update that would leave the range has its cause (R235). -/
theorem semAdd_of_out_of_range {top v : Nat} {n : Int} (out : (v : Int) + n < 0 ∨ (top : Int) < (v : Int) + n) :
    semAdd top v n = .inr (semCause ((v : Int) + n)) := by
  rw [semAdd, semCause]
  by_cases below : (v : Int) + n < 0
  · simp only [if_pos below]; rfl
  · simp only [if_neg below, if_pos (out.resolve_left below)]; rfl

/-! Hub semaphores and the host waits on them (R246 to R249). -/

/-- The value of a hub semaphore (R246). -/
def Chip.hubValue (c : Chip) (i sem : Nat) : Nat := (tget 0 (c.inst i).hubSems sem).toNat

/-- The host waits on a hub semaphore, the oldest first (R249). -/
def Chip.hubWaits (c : Chip) (i sem : Nat) : List HostWait := (c.inst i).waits.filter (fun w => w.sem = sem)

/-- The chip with a hub semaphore set and no wait tested yet. -/
def Chip.setHub (c : Chip) (i sem v : Nat) : Chip :=
  c.onInst i (fun x => { x with hubSems := tput x.hubSems sem (BitVec.ofNat 32 v) })

/-- The chip once the oldest wait w on a hub semaphore has ended: its COUNT is taken and its COMMAND_DONE sent (R249, R251). -/
def Chip.endWait (c : Chip) (i sem : Nat) (w : HostWait) : Chip :=
  let v := c.hubValue i sem - w.count
  (c.onInst i (fun x => { x with
    hubSems := tput x.hubSems sem (BitVec.ofNat 32 v)
    waits := dropFirst (fun y => decide (y.sem = sem)) x.waits })).commandDone w.cmd stOK v

/-- The first k of c's waits on a hub semaphore have ended in order, each with its COUNT taken; the oldest that is left wants
more than the value; the other semaphores and their waits are as they were (R249). -/
structure Chip.EndsWaits (c e : Chip) (i sem k : Nat) : Prop where
  waits : e.hubWaits i sem = (c.hubWaits i sem).drop k
  value : e.hubValue i sem + (((c.hubWaits i sem).take k).map (·.count)).sum = c.hubValue i sem
  short : ∀ w, (e.hubWaits i sem).head? = some w → e.hubValue i sem < w.count
  otherWaits : (e.inst i).waits.filter (fun w => w.sem ≠ sem) = (c.inst i).waits.filter (fun w => w.sem ≠ sem)
  otherValues : ∀ n, n ≠ sem → e.hubValue i n = c.hubValue i n

theorem filter_dropFirst_self {α : Type} (f : α → Bool) (l : List α) : (dropFirst f l).filter f = (l.filter f).tail := by
  induction l with
  | nil => rfl
  | cons a l ih => by_cases h : f a = true <;> simp [dropFirst, h, ih]

theorem filter_dropFirst_of_disjoint {α : Type} {f g : α → Bool} (apart : ∀ a, f a = true → g a = false) (l : List α) :
    (dropFirst f l).filter g = l.filter g := by
  induction l with
  | nil => rfl
  | cons a l ih =>
    by_cases h : f a = true
    · simp [dropFirst, h, apart a h]
    · simp [dropFirst, h, ih, List.filter_cons]

section
variable {c : Chip} {i sem : Nat}

@[simp] theorem hubValue_setHub {v : Nat} (fits : v < 2 ^ 32) : (c.setHub i sem v).hubValue i sem = v := by
  simpa [Chip.hubValue, Chip.setHub] using fits

theorem hubValue_setHub_of_ne (v : Nat) {n : Nat} (other : n ≠ sem) : (c.setHub i sem v).hubValue i n = c.hubValue i n := by
  simp [Chip.hubValue, Chip.setHub, other.symm]

@[simp] theorem waits_setHub (v : Nat) : ((c.setHub i sem v).inst i).waits = (c.inst i).waits := by
  simp [Chip.setHub]

/-- What the end of the oldest wait changes: the value and the list of waits. -/
theorem inst_endWait (w : HostWait) : (c.endWait i sem w).inst i = { c.inst i with
    hubSems := tput (c.inst i).hubSems sem (BitVec.ofNat 32 (c.hubValue i sem - w.count))
    waits := dropFirst (fun y => decide (y.sem = sem)) (c.inst i).waits } := by
  rw [Chip.endWait, (commandDone_sameButReports _ _ _ _).inst, Chip.onInst_eq, Chip.setInst_inst_self]

theorem hubWaits_endWait (w : HostWait) : (c.endWait i sem w).hubWaits i sem = (c.hubWaits i sem).tail := by
  rw [Chip.hubWaits, inst_endWait]
  exact filter_dropFirst_self _ _

theorem hubValue_endWait (w : HostWait) : (c.endWait i sem w).hubValue i sem = c.hubValue i sem - w.count := by
  have fits : c.hubValue i sem < 2 ^ 32 := (tget 0 (c.inst i).hubSems sem).isLt
  rw [Chip.hubValue, inst_endWait]
  simp only [tget_tput_self, BitVec.toNat_ofNat]
  exact Nat.mod_eq_of_lt (by omega)

theorem hubValue_endWait_of_ne (w : HostWait) {n : Nat} (other : n ≠ sem) :
    (c.endWait i sem w).hubValue i n = c.hubValue i n := by
  rw [Chip.hubValue, inst_endWait]
  simp only [tget_tput_ne _ _ _ other.symm, Chip.hubValue]

theorem otherWaits_endWait (w : HostWait) :
    ((c.endWait i sem w).inst i).waits.filter (fun w => w.sem ≠ sem) = (c.inst i).waits.filter (fun w => w.sem ≠ sem) := by
  rw [inst_endWait]
  exact filter_dropFirst_of_disjoint (fun a h => by simpa using h) _

/-- The test of the oldest wait: there is none, it is not satisfied, or it ends and the next is tested (R249). -/
theorem hubTest_of_none (none' : c.hubWaits i sem = []) (fuel : Nat) : Chip.hubTest i sem fuel c = c := by
  have first : (c.inst i).waits.find? (fun w => w.sem = sem) = none := by
    rw [← List.head?_filter, show (c.inst i).waits.filter _ = [] from none']; rfl
  cases fuel <;> simp only [Chip.hubTest, first]

theorem hubTest_of_first {w : HostWait} {ws : List HostWait} (waits : c.hubWaits i sem = w :: ws) (fuel : Nat) :
    Chip.hubTest i sem (fuel + 1) c = if c.hubValue i sem < w.count then c else Chip.hubTest i sem fuel (c.endWait i sem w) := by
  have first : (c.inst i).waits.find? (fun w => w.sem = sem) = some w := by
    rw [← List.head?_filter, show (c.inst i).waits.filter _ = w :: ws from waits]; rfl
  simp only [Chip.hubTest, first]
  rfl

end

/-- No wait has ended, and the oldest, if any, wants more than the value. -/
theorem Chip.EndsWaits.zero {c : Chip} {i sem : Nat}
    (short : ∀ w, (c.hubWaits i sem).head? = some w → c.hubValue i sem < w.count) : c.EndsWaits c i sem 0 :=
  ⟨rfl, rfl, short, rfl, fun _ _ => rfl⟩

/-- The oldest wait has ended, and k more after it. -/
theorem Chip.EndsWaits.succ {c e : Chip} {i sem k : Nat} {w : HostWait} {ws : List HostWait}
    (waits : c.hubWaits i sem = w :: ws) (enough : w.count ≤ c.hubValue i sem) (h : (c.endWait i sem w).EndsWaits e i sem k) :
    c.EndsWaits e i sem (k + 1) where
  waits := by rw [h.waits, hubWaits_endWait, waits]; rfl
  value := by
    have rest := h.value
    rw [hubWaits_endWait, hubValue_endWait, waits, List.tail_cons] at rest
    rw [waits, List.take_succ_cons, List.map_cons, List.sum_cons]
    omega
  short := h.short
  otherWaits := h.otherWaits.trans (otherWaits_endWait w)
  otherValues n other := (h.otherValues n other).trans (hubValue_endWait_of_ne w other)

/-- With fuel for every wait on the semaphore, the test ends as many of them, in order, as the value satisfies (R249). -/
theorem hubTest_endsWaits {i sem : Nat} (fuel : Nat) (c : Chip) (enough : (c.hubWaits i sem).length ≤ fuel) :
    ∃ k, c.EndsWaits (Chip.hubTest i sem fuel c) i sem k := by
  induction fuel generalizing c with
  | zero =>
    have none' := List.length_eq_zero_iff.1 (Nat.le_zero.1 enough)
    exact ⟨0, .zero (by simp [none'])⟩
  | succ fuel ih =>
    cases waits : c.hubWaits i sem with
    | nil =>
      rw [hubTest_of_none waits]
      exact ⟨0, .zero (by simp [waits])⟩
    | cons w ws =>
      rw [hubTest_of_first waits]
      split
      next short => exact ⟨0, .zero (by simpa [waits] using short)⟩
      next satisfied =>
        rw [waits] at enough
        obtain ⟨k, h⟩ := ih (c.endWait i sem w) (by rw [hubWaits_endWait, waits]; exact Nat.le_of_succ_le_succ enough)
        exact ⟨k + 1, .succ waits (Nat.not_lt.1 satisfied) h⟩

/-- An update of a hub semaphore in range sets the sum and tests the waits; one out of range gives its cause (R247, R249). -/
theorem hubAdd_of_in_range {c : Chip} {i sem : Nat} {n : Int} (low : 0 ≤ (c.hubValue i sem : Int) + n)
    (high : (c.hubValue i sem : Int) + n ≤ 4294967295) :
    let v := ((c.hubValue i sem : Int) + n).toNat
    c.hubAdd i sem n = .inr (v, Chip.hubTest i sem (c.inst i).waits.length (c.setHub i sem v)) := by
  have sum := semAdd_of_in_range (top := 4294967295) low high
  rw [Chip.hubValue] at sum
  simp only [Chip.hubAdd, sum]
  rfl

theorem hubAdd_of_out_of_range {c : Chip} {i sem : Nat} {n : Int}
    (out : (c.hubValue i sem : Int) + n < 0 ∨ 4294967295 < (c.hubValue i sem : Int) + n) :
    c.hubAdd i sem n = .inl (semCause ((c.hubValue i sem : Int) + n)) := by
  have cause := semAdd_of_out_of_range (top := 4294967295) out
  rw [Chip.hubValue] at cause
  simp only [Chip.hubAdd, cause]
  rfl

/-- An update that does not fault lies in range: it gives the sum, and ends the waits that the sum satisfies. -/
theorem hubAdd_endsWaits {c e : Chip} {i sem v : Nat} {n : Int} (ok : c.hubAdd i sem n = .inr (v, e)) :
    v < 2 ^ 32 ∧ (v : Int) = (c.hubValue i sem : Int) + n ∧ ∃ k, (c.setHub i sem v).EndsWaits e i sem k := by
  by_cases out : (c.hubValue i sem : Int) + n < 0 ∨ 4294967295 < (c.hubValue i sem : Int) + n
  · rw [hubAdd_of_out_of_range out] at ok
    cases ok
  · obtain ⟨low, high⟩ := not_or.1 out
    rw [hubAdd_of_in_range (by omega) (by omega)] at ok
    obtain ⟨rfl, rfl⟩ := Prod.mk.inj (Sum.inr.inj ok)
    refine ⟨by omega, by omega, hubTest_endsWaits _ _ ?_⟩
    rw [Chip.hubWaits, waits_setHub]
    exact List.length_filter_le _ _

/-! The verdict of HOST_SIGNAL by its OP (R250 to R253). -/

section
variable {c : Chip} {p : Icp}

/-- OP 0 with sound parameters writes its payload and sends its signal (R251, R252). -/
theorem hostSignal_of_tile (op : p.par 0 1 = 0) (short : p.par 16 4 ≤ 4096) (whole : p.par 16 4 % 64 = 0)
    (own : c.ownsTile p.who (p.bits 26 16) = true) (some' : toSigned 32 (p.par 8 4) ≠ 0)
    (low : -65535 ≤ toSigned 32 (p.par 8 4)) (high : toSigned 32 (p.par 8 4) ≤ 65535) (aligned : p.par 12 4 % 64 = 0)
    (inside : p.par 12 4 < 1048576) (fits : p.par 12 4 + p.par 16 4 ≤ 1048576) :
    let tile := p.bits 26 16
    let count := toSigned 32 (p.par 8 4)
    let d := c.storeWrite tile (p.par 12 4) (cut p.params 32 (p.par 16 4))
    c.hostSignal p = .later { d with
      sigs := d.sigs ++ [{ target := tile, sem := p.bits 45 40, count := count, sender := .host (d.refOf p) }] } := by
  simp [Chip.hostSignal, op, Nat.not_lt.2 short, whole, own, some', low, high, aligned, Nat.not_le.2 inside, Nat.not_lt.2 fits]

/-- OP 1 is the update of the hub semaphore, or is refused with the cause of its fault (R251, R253). -/
theorem hostSignal_of_hub (op : p.par 0 1 = 1) (plain : p.par 16 4 = 0) (some' : toSigned 32 (p.par 8 4) ≠ 0) :
    (∀ cause, c.hubAdd p.who (p.bits 45 40) (toSigned 32 (p.par 8 4)) = .inl cause →
      c.hostSignal p = .refuse stDescriptorError (errorWord 0 0x7FF cause).toNat) ∧
    (∀ v e, c.hubAdd p.who (p.bits 45 40) (toSigned 32 (p.par 8 4)) = .inr (v, e) → c.hostSignal p = .done v [] e) := by
  refine ⟨fun cause out => ?_, fun v e ok => ?_⟩
  · simp [Chip.hostSignal, op, plain, some', out]
  · simp [Chip.hostSignal, op, plain, some', ok]

/-- OP 2 takes its COUNT at once, or waits for the value or behind an older wait (R249, R251). -/
theorem hostSignal_of_wait (op : p.par 0 1 = 2) (plain : p.par 16 4 = 0) (pos : 0 < toSigned 32 (p.par 8 4))
    (room : (c.inst p.who).waits.length < 256) :
    let sem := p.bits 45 40
    let count := toSigned 32 (p.par 8 4)
    let v := c.hubValue p.who sem
    (count ≤ (v : Int) → (∀ w ∈ (c.inst p.who).waits, w.sem ≠ sem) →
      c.hostSignal p = .done (v - count.toNat) [] (c.setHub p.who sem (v - count.toNat))) ∧
    ((v : Int) < count ∨ (∃ w ∈ (c.inst p.who).waits, w.sem = sem) →
      c.hostSignal p = .pending (c.onInst p.who (fun x =>
        { x with waits := x.waits ++ [{ sem := sem, count := count.toNat, cmd := c.refOf p }] }))) := by
  intro sem count v
  have free : ¬256 ≤ (c.inst p.who).waits.length := Nat.not_le.2 room
  have sign : ¬toSigned 32 (p.par 8 4) < 0 := Int.not_lt.2 (Int.le_of_lt pos)
  have some' : toSigned 32 (p.par 8 4) ≠ 0 := Int.ne_of_gt pos
  have now : (decide (count ≤ (v : Int)) && !(c.inst p.who).waits.any (fun w => w.sem = sem)) = true ↔
      count ≤ (v : Int) ∧ ∀ w ∈ (c.inst p.who).waits, w.sem ≠ sem := by simp
  simp only [Chip.hostSignal, op, plain, some', sign, free, Nat.reduceLT, Nat.reduceEqDiff, decide_false, decide_true,
    Bool.false_and, Bool.and_false, Bool.false_eq_true, if_false, if_true, ne_eq, not_true_eq_false, not_false_eq_true]
  refine ⟨fun enough alone => if_pos (now.2 ⟨enough, alone⟩), fun waits => if_neg fun taken => ?_⟩
  obtain ⟨enough, alone⟩ := now.1 taken
  rcases waits with short | ⟨w, mem, same⟩
  · omega
  · exact alone w mem same

/-- OP 3 reads the value (R251). -/
theorem hostSignal_of_read (op : p.par 0 1 = 3) (plain : p.par 16 4 = 0) :
    c.hostSignal p = .done (c.hubValue p.who (p.bits 45 40)) [] c := by
  simp [Chip.hostSignal, op, plain, Chip.hubValue]

end

end Sys2Proof.Machine

namespace Sys2Proof.Machine

/-! Tile semaphores: an update, its fault, and the updates of one tc (R235, R238 to R240). -/

section
variable (c : Chip) (t : Nat)

/-- A change of a tile that keeps its semaphores leaves every semaphore as it stood. -/
theorem onTile_sem {f : Tile → Tile} (keeps : ∀ k, (f k).sems = k.sems) (x m : Nat) :
    ((c.onTile t f).tile x).sem m = (c.tile x).sem m := by
  by_cases at' : t = x
  · subst at'
    rw [Chip.onTile_eq, Chip.setTile_tile_self, Tile.sem, keeps, Tile.sem]
  · rw [Chip.onTile_eq, Chip.setTile_tile_ne _ _ at']

/-- The tiles that a fault stops keep their semaphores (R245). -/
theorem stopTiles_sem (ts : List Nat) (x m : Nat) : ((c.stopTiles ts).tile x).sem m = (c.tile x).sem m := by
  refine List.foldlRecOn ts _ (motive := fun d : Chip => (d.tile x).sem m = (c.tile x).sem m) rfl fun d same u _ => ?_
  refine Eq.trans ?_ same
  split
  · exact onTile_sem d u (by exact fun _ => rfl) x m
  · rfl

theorem stopTiles_inst (ts : List Nat) (i : Nat) : (c.stopTiles ts).inst i = c.inst i := by
  refine List.foldlRecOn ts _ (motive := fun d : Chip => d.inst i = c.inst i) rfl fun d same u _ => ?_
  refine Eq.trans ?_ same
  split <;> rfl

/-- A descriptor error leaves every semaphore as it stood (R235, R245). -/
theorem fault_sem (slot cause x m : Nat) : ((c.fault t slot cause).tile x).sem m = (c.tile x).sem m := by
  unfold Chip.fault
  split
  · split
    · rfl
    · split
      · rfl
      · split
        · rfl
        · exact stopTiles_sem _ _ x m
  · rfl

/-- The tile's own descriptor learns of a fault at once (R235). -/
theorem semAnswer_own {cause : Nat} (fails : cause ≠ 0) (slot : Nat) : c.semAnswer t (.tile t slot) cause = c.fault t slot cause :=
  (if_pos rfl).trans (if_neg fails)

/-- What an update tells its sender leaves every semaphore as it stood. -/
theorem semAnswer_sem (sender : Sender) (cause x m : Nat) :
    ((c.semAnswer t sender cause).tile x).sem m = (c.tile x).sem m := by
  cases sender with
  | tile u slot =>
    rw [Chip.semAnswer]
    split
    · split
      · rfl
      · exact fault_sem c t slot cause x m
    · rfl
  | host r =>
    rw [Chip.semAnswer]
    split <;> rw [(reply_sameButReports _ _ _ _ _ _ _).tile]

end

/-- A change of a launch that keeps its command is what a look for that command finds. -/
theorem onLaunch_launchBy (c : Chip) (i : Nat) (r : Ref) {f : Launch → Launch} (cmd : ∀ l, (f l).cmd = l.cmd) :
    (c.onLaunch i r f).launchBy i r = (c.launchBy i r).map f := by
  have key : ((fun l : Launch => decide (l.cmd = r)) ∘ fun l => if l.cmd = r then f l else l) = fun l => decide (l.cmd = r) := by
    funext l
    by_cases h : l.cmd = r <;> simp [h, cmd]
  rw [Chip.launchBy, Chip.onLaunch, Chip.onInst_eq, Chip.setInst_inst_self, List.find?_map, key, Chip.launchBy]
  cases found : (c.inst i).launches.find? (fun l => decide (l.cmd = r)) with
  | none => rfl
  | some l =>
    have same : l.cmd = r := by simpa using List.find?_some found
    exact congrArg some (if_pos same)

/-- The first fault of a launch that runs on is the one that it keeps (R96). -/
theorem fault_launchBy {c : Chip} {t i : Nat} {r : Ref} {l : Launch} (own : c.ownerOf t = some i)
    (runs : (c.tile t).launch = some r) (there : c.launchBy i r = some l) (sound : l.fault = none) (open' : l.final = none)
    (slot cause : Nat) :
    (c.fault t slot cause).launchBy i r = some { l with fault := some (errorWord slot t cause, c.tc, t) } := by
  have kept : c.fault t slot cause =
      (c.onLaunch i r (fun l => { l with fault := some (errorWord slot t cause, c.tc, t) })).stopTiles
        (l.tiles.filter (fun t => !l.overs.contains t)) := by
    simp only [Chip.fault, own, runs, there, sound, open', Option.isSome_none, Bool.false_eq_true, if_false]
  rw [kept, Chip.launchBy, stopTiles_inst]
  exact (onLaunch_launchBy c i r (by exact fun _ => rfl)).trans (congrArg (Option.map _) there)

/-- An update in range sets the sum and tells the sender that it was made (R235). -/
theorem semApply_of_in_range {c : Chip} {t : Nat} {u : Due} (low : 0 ≤ ((c.tile t).sem u.sem : Int) + u.count)
    (high : ((c.tile t).sem u.sem : Int) + u.count ≤ 65535) :
    let v := (((c.tile t).sem u.sem : Int) + u.count).toNat
    c.semApply t u =
      (c.setTile t { c.tile t with sems := tput (c.tile t).sems u.sem (BitVec.ofNat 16 v) }).semAnswer t u.sender 0 := by
  simp only [Chip.semApply, semAdd_of_in_range (top := 65535) low high]

/-- An update out of range only tells the sender its cause (R235). -/
theorem semApply_of_out_of_range {c : Chip} {t : Nat} {u : Due}
    (out : ((c.tile t).sem u.sem : Int) + u.count < 0 ∨ 65535 < ((c.tile t).sem u.sem : Int) + u.count) :
    c.semApply t u = c.semAnswer t u.sender (semCause (((c.tile t).sem u.sem : Int) + u.count)) := by
  simp only [Chip.semApply, semAdd_of_out_of_range (top := 65535) out]

theorem sem_tput_self (k : Tile) (n : Nat) {v : Nat} (fits : v ≤ 65535) :
    ({ k with sems := tput k.sems n (BitVec.ofNat 16 v) } : Tile).sem n = v := by
  simp only [Tile.sem, tget_tput_self, BitVec.toNat_ofNat]
  omega

/-- An update in range gives the sum, and every other semaphore of every tile stays. -/
theorem semApply_sem {c : Chip} {t : Nat} {u : Due} (low : 0 ≤ ((c.tile t).sem u.sem : Int) + u.count)
    (high : ((c.tile t).sem u.sem : Int) + u.count ≤ 65535) :
    ((((c.semApply t u).tile t).sem u.sem : Nat) : Int) = ((c.tile t).sem u.sem : Int) + u.count ∧
      ∀ x m, x ≠ t ∨ m ≠ u.sem → ((c.semApply t u).tile x).sem m = (c.tile x).sem m := by
  rw [semApply_of_in_range low high]
  refine ⟨?_, fun x m other => ?_⟩
  · rw [semAnswer_sem, Chip.setTile_tile_self, sem_tput_self _ _ (by omega)]
    exact Int.toNat_of_nonneg low
  · rw [semAnswer_sem]
    by_cases at' : t = x
    · subst at'
      rw [Chip.setTile_tile_self, Tile.sem, tget_tput_ne _ _ _ (other.resolve_left (not_not_intro rfl)).symm]
      rfl
    · rw [Chip.setTile_tile_ne _ _ at']

/-- The updates of the ranks below n, by rank, are those updates. -/
theorem flatMap_rank_perm (us : List Due) (n : Nat) :
    ((List.range n).flatMap (fun r => us.filter (fun u => u.rank = r))).Perm (us.filter (fun u => u.rank < n)) := by
  induction n with
  | zero => simp
  | succ n ih =>
    have below : (us.filter (fun u => u.rank < n + 1)).filter (fun u => u.rank < n) = us.filter (fun u => u.rank < n) := by
      rw [List.filter_filter]
      exact List.filter_congr fun u _ => by simp only [← Bool.decide_and, decide_eq_decide]; omega
    have at' : (us.filter (fun u => u.rank < n + 1)).filter (fun u => !decide (u.rank < n)) = us.filter (fun u => u.rank = n) := by
      rw [List.filter_filter]
      exact List.filter_congr fun u _ => by simp only [← decide_not, ← Bool.decide_and, decide_eq_decide]; omega
    have split := List.filter_append_perm (fun u : Due => u.rank < n) (us.filter (fun u => u.rank < n + 1))
    rw [below, at'] at split
    rw [List.range_succ, List.flatMap_append, List.flatMap_singleton]
    exact (ih.append_right _).trans split

/-- The order of R240 holds every update of ranks 0 to 5 once. -/
theorem dueOrder_perm {us : List Due} (ranks : ∀ u ∈ us, u.rank ≤ 5) : (dueOrder us).Perm us := by
  have all : us.filter (fun u => u.rank < 6) = us :=
    List.filter_eq_self.2 fun u mem => decide_eq_true (Nat.lt_succ_of_le (ranks u mem))
  exact (flatMap_rank_perm us 6).trans (.of_eq all)

/-- The order of R240 never goes back in rank. -/
theorem dueOrder_sorted (us : List Due) : (dueOrder us).Pairwise (fun a b => a.rank ≤ b.rank) := by
  have rank {u : Due} {r : Nat} (mem : u ∈ us.filter (fun u => u.rank = r)) : u.rank = r := by
    simpa using (List.mem_filter.1 mem).2
  refine List.pairwise_flatMap.2 ⟨fun r _ => ?_, List.pairwise_lt_range.imp fun {r q} lt a ha b hb => ?_⟩
  · exact List.pairwise_of_forall_mem_list fun a ha b hb => Nat.le_of_eq ((rank ha).trans (rank hb).symm)
  · rw [rank ha, rank hb]
    exact Nat.le_of_lt lt

/-- Settles O52: an update by whether its sum lies in range, a fault by the launch that keeps it, the updates of a tc by the
order of their ranks. -/
theorem signalsStayInRange : Obligations.SignalsStayInRange := by
  refine ⟨fun c t u => ⟨semApply_sem, fun out => ?_⟩, fun s t n i x r l live first fails own runs there sound open' => ?_,
    fun c t => fun due ranks => ⟨dueOrder (c.tile t).due, dueOrder_perm ranks, dueOrder_sorted _, ?_⟩, fun v n => ?_⟩
  · have fails := semCause_ne_zero (((c.tile t).sem u.sem : Int) + u.count)
    rw [semApply_of_out_of_range out]
    refine ⟨semAnswer_sem c t _ _, fun slot i r l sender own runs there sound open' => ?_, fun x slot sender other => ?_,
      fun q sender => ?_⟩ <;> rw [sender]
    · rw [semAnswer_own c t fails]
      exact fault_launchBy own runs there sound open' slot _
    · exact semAnswer_tile other _
    · exact semAnswer_host fails q
  · let c : Chip := { s.chip with acks := dropFirst (fun y => y.target = t && y.source = n) s.chip.acks }
    refine ⟨(c.fault t x.slot x.cause).onTile t (fun k => { k with unacked := k.unacked - 1 }),
      (ackReceived_of_find live first).trans (by rw [if_neg fails]), fault_launchBy (c := c) own runs there sound open' x.slot x.cause, fun u m => ?_⟩
    exact (onTile_sem _ t (by exact fun _ => rfl) u m).trans (fault_sem c t x.slot x.cause u m)
  · rw [Chip.semBlock]
    exact if_neg (by simpa using due)
  · rw [semAdd, if_neg (by omega)]
    split <;> simp [caSemOverflow]

end Sys2Proof.Machine

namespace Sys2Proof.Machine

/-! HOST_SIGNAL as a command and as a descriptor (R247 to R254). -/

/-- Settles O19: each clause is the verdict of its OP on the chip as the command begins. -/
theorem hostSignalsComplete : Obligations.HostSignalsComplete := by
  intro s p c i tile sem count v takes
  have value : (s.chip.begun 0x56 p).hubValue p.who sem = v := by rw [Chip.hubValue, begun_inst]
  refine ⟨fun op short whole own some' low high aligned inside fits => icp_later takes ?_,
    fun op plain some' => ⟨fun under => icp_refuse takes ?_, fun above => icp_refuse takes ?_, fun low high none' =>
      icp_done takes ?_⟩,
    fun op plain pos room => ⟨fun enough alone => icp_done takes ?_, fun waits => icp_pending takes ?_⟩,
    fun op plain => icp_done takes ?_⟩
  · exact hostSignal_of_tile op short whole (by simpa using own) some' low high aligned inside fits
  · refine (hostSignal_of_hub op plain some').1 0x10 ?_
    rw [hubAdd_of_out_of_range (by rw [value]; exact .inl under), value, semCause, if_pos under]
  · refine (hostSignal_of_hub op plain some').1 0x11 ?_
    rw [hubAdd_of_out_of_range (by rw [value]; exact .inr above), value, semCause, if_neg (by omega)]
  · refine (hostSignal_of_hub op plain some').2 _ _ ?_
    rw [hubAdd_of_in_range (by rw [value]; exact low) (by rw [value]; exact high), value, begun_inst,
      show (s.chip.inst p.who).waits = [] from none']
    rfl
  · rw [(hostSignal_of_wait op plain pos (by simpa using room)).1 (by rw [value]; exact enough) (by simpa using alone), value]
    rfl
  · exact (hostSignal_of_wait op plain pos (by simpa using room)).2 (by rw [value, begun_inst]; exact waits)
  · rw [hostSignal_of_read op plain, value]
    rfl

/-- The tile's descriptor makes its update once it is fetched, and its acknowledgement comes from the hub (R237, R247, R248). -/
theorem start_hostSignal {c e : Chip} {i t v : Nat} {d : Desc} (is : dOp d = 0x78) (noSig : dSig d = false)
    (ok : (c.onTile t (fun k => { k with unacked := k.unacked + 1 })).hubAdd i (kSem d) (toSigned 32 (kCount d)) = .inr (v, e)) :
    c.start i t d =
      ({ e with acks := e.acks ++ [{ target := t, source := 1600, slot := (c.tile t).pc, cause := 0 }] } : Chip).advance t
        (c.tile t).pc := by
  have sequencer : unitOf d = none := by simp [unitOf, opClass, is]
  have runs : c.start i t d = c.hubSignalDesc i t (c.tile t).pc d := by simp [Chip.start, sequencer, Chip.control, is]
  rw [runs]
  simp only [Chip.hubSignalDesc, ok, Chip.headSig, noSig, Bool.false_eq_true, if_false]

/-- Settles O56: `hubTest` ends the waits in order, by induction on its fuel, from the chip with the sum set; the command and
the descriptor are that update and their reply or acknowledgement. -/
theorem hubWaitsEndInOrder : Obligations.HubWaitsEndInOrder := by
  refine ⟨fun c e i sem v n ok => ?_, fun s p v e takes op plain some' ok => ?_, fun s i t v d e fetches noSig is ok => ?_⟩
  · obtain ⟨fits, sum, k, ends⟩ := hubAdd_endsWaits ok
    have waits : (c.setHub i sem v).hubWaits i sem = c.hubWaits i sem := by rw [Chip.hubWaits, waits_setHub]; rfl
    have left := ends.waits
    have value := ends.value
    have others := ends.otherWaits
    rw [waits] at left value
    rw [hubValue_setHub fits] at value
    rw [waits_setHub] at others
    exact ⟨sum, k, left, value, ends.short, others,
      fun m other => (ends.otherValues m other).trans (hubValue_setHub_of_ne v other)⟩
  · exact icp_verdict takes ((hostSignal_of_hub op plain some').2 v e ok)
  · show execHostSignalDescriptor t d s = _
    refine onChip_to fetches.1 ?_
    rw [issue_of_fetches fetches, start_hostSignal is noSig ok, passFence_pc]

end Sys2Proof.Machine

namespace Sys2Proof.Machine

/-! The states of a link (R256, R260, R264, R266, R267, R285). -/

section
variable {c : Chip} {k : Nat}

/-- The third fast retrain that fails within a second gives way to a new training (R260). -/
theorem fastRetrain_of_third_failure :
    let l := c.link k
    let again := l.failedRetrains.filter (fun t => c.tc < t + 2000000000) ++ [c.tc]
    l.st = .fastRetrain → 3 ≤ again.length → c.fastRetrain k = (c.trainLink k).faultEvent ⟨0, k⟩ .sixteen := by
  intro l again retrains third
  exact if_pos (Bool.and_eq_true_iff.2 ⟨decide_eq_true retrains, decide_eq_true third⟩)

/-- Every other fast retrain of a link that has a partner counts, searches anew and is one event (R260, R267, R272). -/
theorem fastRetrain_of_partner :
    let l := c.link k
    let again := l.failedRetrains.filter (fun t => c.tc < t + 2000000000) ++ [c.tc]
    (l.st = .up ∨ l.st = .train106 ∨ (l.st = .train53 ∧ l.major = 2) ∨ (l.st = .fastRetrain ∧ again.length < 3)) →
    let searching := c.setLink k { l.startSearch with
      st := .fastRetrain, retrains := satAdd l.retrains 1, relocks := satAdd l.relocks 1, probes := [],
      replay := l.replay.map (fun f => { f with replays := 0 }),
      failedRetrains := if l.st = .fastRetrain then again else l.failedRetrains }
    c.fastRetrain k = (searching.rebuild.sendProbes k).faultEvent ⟨0, k⟩ .one := by
  intro l again partner searching
  have early : ¬(l.st = .fastRetrain && decide (3 ≤ again.length)) = true := by
    rcases partner with up | trains | ⟨trains, -⟩ | ⟨-, few⟩
    · simp [up]
    · simp [trains]
    · simp [trains]
    · simp [Nat.not_le.2 few]
  have able : (l.st = .up || l.st = .fastRetrain || l.st = .train106 || (l.st = .train53 && l.major = 2)) = true := by
    rcases partner with up | trains | ⟨trains, two⟩ | ⟨fast, -⟩
    · simp [up]
    · simp [trains]
    · simp [trains, two]
    · simp [fast]
  exact (if_neg early).trans (if_pos able)

end

section
variable {s : State} {k : Nat} (live : s.Live)
include live

theorem fastRetrain_to {d : Chip} (e : s.chip.fastRetrain k = d) : exec (.fastRetrain k) s = .next { s with chip := d } := by
  show execFastRetrain k s = _
  exact onChip_to live e

/-- A search that times out is a fast retrain (R267). -/
theorem searchTimeout_of_search {d : Chip} (lost : (s.chip.link k).lock = none) (e : s.chip.fastRetrain k = d) :
    exec (.alignmentSearchTimeout k) s = .next { s with chip := d } :=
  onChip_to live ((if_pos (Option.isNone_iff_eq_none.2 lost)).trans e)

theorem searchTimeout_of_lock (locked : (s.chip.link k).lock ≠ none) : exec (.alignmentSearchTimeout k) s = .next s :=
  onChip_to live (if_neg (mt Option.isNone_iff_eq_none.1 locked))

/-- The first words of a partner settle plane, version, retired lanes and session, and are answered (R256, R260, R261, R264,
R283). -/
theorem trainingWords_exchanged (trains : (s.chip.link k).st = .train53) (first : (s.chip.link k).major = 0) (w : TrainingWords) :
    let c := s.chip
    let l := c.link k
    let d := (c.emit (.training k (c.ownWords k w.sessionHere))).drew
    let m := { l with pstep := w.stepping, pplane := w.plane, pdev := w.devnum, precode := w.precode,
                      partnerRetired := w.retired, session := w.sessionHere ^^^ w.sessionThere }
    let goes := fun (e : Chip) (lanes : Nat) => if m.liveLanes < lanes then e.retireLink k 0 else e.sendProbes k
    exec (.trainingWordsReceived k w) s = .next { s with chip := (
      if w.plane.toNat ≠ k then d.setLink k { m with st := .planeMismatch }
      else if w.major3 then goes (d.setLink k { m.startSearch with st := .train106, major := 3 }) 12
      else if w.major2 then goes (d.setLink k { m.startSearch with major := 2 }) 16
      else d.setLink k { m with st := .down, lasers := false }) } := by
  show execTrainingWordsReceived k w s = _
  exact onChip_to live (if_neg (by simp [trains, first]))

/-- Training ends: the link comes up, asks for a retry after a fast retrain, tells of version 2 after a whole one, and takes
its packets (R260, R261, R263, R266, R270, R279, R286). -/
theorem trainingDone_of_trained (trained : (s.chip.link k).st = .train106 ∨
      ((s.chip.link k).st = .train53 ∧ (s.chip.link k).major = 2) ∨ (s.chip.link k).st = .fastRetrain) :
    let c := s.chip
    let l := c.link k
    let up := (c.setLink k { l with
      st := .up, xlat := c.xlatOf l, probes := [], lock := some (c.trainedLock l), lockAge := 0, noMarker := 0,
      retrying := l.st = .fastRetrain, flitNo := 0 }).drew
    let told := if l.st = .fastRetrain then up.putRetry k
      else if l.major = 2 then ((List.range 16).foldl (fun (d : Chip) i =>
        if d.jobRuns i && (d.job i).encReq then d.notify [i] ncPartnerRefused k 1 else d) (up.notify [] ncLinkV2 k l.pstep.toNat))
      else up
    exec (.linkTrainingDone k) s = .next { s with chip := told.rebuild.pump k } := by
  show execLinkTrainingDone k s = _
  refine onChip_to live (if_neg ?_)
  rcases trained with whole | ⟨short, two⟩ | fast
  · simp [whole]
  · simp [short, two]
  · simp [fast]

/-! A group at a receiver that listens (R266, R267). -/
section
variable (listens : (s.chip.link k).st = .up ∨ (s.chip.link k).st = .fastRetrain ∨ (s.chip.link k).st = .train106 ∨
  (s.chip.link k).st = .train53) {o : Nat} (valid : Nat) (marker : Bool)
include listens

theorem flitGroup_to {d : Chip} (e : (if (s.chip.link k).lock = some o then s.chip.lockedGroup k o valid marker
      else if (s.chip.link k).lock.isSome && (s.chip.link k).lockAge ≠ 0 then s.chip
      else s.chip.searchGroup k o valid marker) = d) :
    exec (.flitGroupReceived k o valid marker) s = .next { s with chip := d } := by
  show execFlitGroupReceived k o valid marker s = _
  refine onChip_to live ((if_neg ?_).trans e)
  rcases listens with st | st | st | st <;> simp [st]

theorem flitGroup_of_lock (locked : (s.chip.link k).lock = some o) : exec (.flitGroupReceived k o valid marker) s =
    .next { s with chip := s.chip.lockedGroup k o valid marker } :=
  flitGroup_to live listens valid marker (if_pos locked)

theorem flitGroup_of_search (other : (s.chip.link k).lock ≠ some o)
    (searches : (s.chip.link k).lock = none ∨ (s.chip.link k).lockAge = 0) :
    exec (.flitGroupReceived k o valid marker) s = .next { s with chip := s.chip.searchGroup k o valid marker } := by
  refine flitGroup_to live listens valid marker ((if_neg other).trans (if_neg ?_))
  rcases searches with none | fresh
  · simp [none]
  · simp [fresh]

theorem flitGroup_of_other_lock (other : (s.chip.link k).lock ≠ some o) (locked : (s.chip.link k).lock ≠ none)
    (old : (s.chip.link k).lockAge ≠ 0) : exec (.flitGroupReceived k o valid marker) s = .next s :=
  flitGroup_to live listens valid marker ((if_neg other).trans (if_pos (by simp [Option.isSome_iff_ne_none, locked, old])))

end

end

/-- Settles O38: each row by the state of the link; a timeout is the fast retrain, a group goes by the lock. -/
theorem linkStatesComplete : Obligations.LinkStatesComplete := by
  intro s k live c l upd listens
  refine ⟨fun num down on sound => ?_, fun there => onChip_to live (if_pos there),
    fun gone => onChip_to live (if_neg (Bool.eq_false_iff.1 gone)), fun num off => ?_,
    fun w trains first => trainingWords_exchanged live trains first w, trainingDone_of_trained live,
    ⟨fun retrains third => fastRetrain_to live (fastRetrain_of_third_failure retrains third), fun partner => ?_⟩,
    searchTimeout_of_lock live, fun o valid marker on => flitGroup_of_lock live on valid marker,
    fun o valid marker on => flitGroup_of_search live on valid marker,
    fun o valid marker on => flitGroup_of_other_lock live on valid marker⟩
  · exact onChip_to live (if_pos (by simpa [num, on, sound, c] using down))
  · exact onChip_to live (if_pos (by simpa [num] using off))
  · have retrains := fastRetrain_of_partner partner
    exact ⟨fastRetrain_to live retrains, fun lost => searchTimeout_of_search live lost retrains⟩

end Sys2Proof.Machine

namespace Sys2Proof.Machine

/-! Flits at a link that is up and locked (R263 to R273). -/

section
variable (c : Chip) (k : Nat) (f : List Byte)

/-- What a flit other than a marker acknowledges and returns is taken in (R263, R271, R273). -/
def Chip.takeAck : Chip :=
  let h := fieldAt f 0 12
  if bits h 5 0 = 0 then c
  else c.setLink k ((c.link k).acked (BitVec.ofNat 16 (bits h 79 64)) (bits h 63 62) (bits h 61 48))

/-- What a RETRY asks for goes out again (R270). -/
def Chip.takeRetry : Chip :=
  if bits (fieldAt f 0 12) 31 28 = 3 && f.getD 12 0 = 1 then c.replayFrom k (BitVec.ofNat 16 (fieldAt f 14 2)) else c

/-- How far a flit's SEQ lies ahead of the one expected (R269). -/
def Chip.seqGap : Nat := (BitVec.ofNat 16 (bits (fieldAt f 0 12) 47 32) - (c.link k).rxSeq).toNat

/-- The expected data flit is accepted, a gap asks for a retry (R269, R270). -/
def Chip.takeSeq : Chip :=
  let h := fieldAt f 0 12
  if bits h 31 28 = 1 && c.seqGap k f = 0 then c.setLink k ((c.link k).accept h (cut f 12 (bits h 23 16)))
  else if 0 < c.seqGap k f && c.seqGap k f < 32768 && (c.link k).st = .up then c.askRetry k
  else c

end

section
variable {c : Chip} {k : Nat} {f : List Byte}

/-! Whether a flit asks for one to be sent again (R270). -/

theorem takeRetry_of_retry (type : bits (fieldAt f 0 12) 31 28 = 3) (asks : f.getD 12 0 = 1) :
    c.takeRetry k f = c.replayFrom k (BitVec.ofNat 16 (fieldAt f 14 2)) := if_pos (by rw [type, asks]; rfl)

theorem takeRetry_of_other (other : bits (fieldAt f 0 12) 31 28 ≠ 3 ∨ f.getD 12 0 ≠ 1) : c.takeRetry k f = c := by
  refine if_neg fun both => ?_
  obtain ⟨type, asks⟩ := Bool.and_eq_true_iff.1 both
  exact other.elim (· (of_decide_eq_true type)) (· (of_decide_eq_true asks))

/-- A link that is not up and locked takes no flit. -/
theorem takeFlit_of_deaf (deaf : (c.link k).st ≠ .up ∨ (c.link k).lock = none) (data : Bool) : c.takeFlit k f data = c := by
  refine if_pos ?_
  rcases deaf with off | lost
  · simp [off]
  · simp [lost]

section
variable (up : (c.link k).st = .up) (locked : (c.link k).lock.isSome = true)
include up locked

theorem not_deaf : ¬((c.link k).st ≠ .up || (c.link k).lock.isNone) = true := by
  simp [up, Option.isSome_iff_ne_none.1 locked]

/-- A flit that fails its check is counted, and a data flit asks for a retry (R264, R270). -/
theorem takeFlit_of_bad (bad : (c.link k).flitOk f = false) :
    let d := c.setLink k { c.link k with dropped := satAdd (c.link k).dropped 1 }
    c.takeFlit k f true = d.askRetry k ∧ c.takeFlit k f false = d := by
  have fails : (!(c.link k).flitOk f) = true := by simp [bad]
  exact ⟨(if_neg (not_deaf up locked)).trans (if_pos fails), (if_neg (not_deaf up locked)).trans (if_pos fails)⟩

/-- A good flit is taken in three stages: what it acknowledges, what it asks for, its number; then the link sends. -/
theorem takeFlit_of_good (good : (c.link k).flitOk f = true) (data : Bool) :
    c.takeFlit k f data = (((c.takeAck k f).takeRetry k f).takeSeq k f).pump k :=
  (if_neg (not_deaf up locked)).trans (if_neg (by simp [good]))

section
variable (good : (c.link k).flitOk f = true) {d : Chip} (data : Bool)
include good

theorem takeFlit_of_no_retry (other : bits (fieldAt f 0 12) 31 28 ≠ 3 ∨ f.getD 12 0 ≠ 1)
    (e : (c.takeAck k f).takeSeq k f = d) : c.takeFlit k f data = d.pump k := by
  rw [takeFlit_of_good up locked good, takeRetry_of_other other, e]

theorem takeFlit_of_retry (type : bits (fieldAt f 0 12) 31 28 = 3) (asks : f.getD 12 0 = 1)
    (e : ((c.takeAck k f).replayFrom k (BitVec.ofNat 16 (fieldAt f 14 2))).takeSeq k f = d) :
    c.takeFlit k f data = d.pump k := by
  rw [takeFlit_of_good up locked good, takeRetry_of_retry type asks, e]

end

end

/-- Acknowledgements leave the state of the link. -/
@[simp] theorem takeAck_st (c : Chip) (k : Nat) (f : List Byte) : ((c.takeAck k f).link k).st = (c.link k).st := by
  dsimp only [Chip.takeAck]
  split
  · rfl
  · rw [Chip.setLink_link_self]; rfl

/-! A flit's number against the one expected (R269, R270). -/

theorem takeSeq_of_expected (type : bits (fieldAt f 0 12) 31 28 = 1) (expected : c.seqGap k f = 0) :
    c.takeSeq k f = c.setLink k ((c.link k).accept (fieldAt f 0 12) (cut f 12 (bits (fieldAt f 0 12) 23 16))) :=
  if_pos (by simp [type, expected])

theorem takeSeq_of_gap (missing : 0 < c.seqGap k f) (ahead : c.seqGap k f < 32768) (up : (c.link k).st = .up) :
    c.takeSeq k f = c.askRetry k :=
  (if_neg (by simp [Nat.ne_of_gt missing])).trans (if_pos (by simp [missing, ahead, up]))

theorem takeSeq_of_old (old : 32768 ≤ c.seqGap k f) : c.takeSeq k f = c := by
  have ahead : c.seqGap k f ≠ 0 := by omega
  exact (if_neg (by simp [ahead])).trans (if_neg (by simp [Nat.not_lt.2 old]))

theorem takeSeq_of_not_data (type : bits (fieldAt f 0 12) 31 28 ≠ 1)
    (none' : c.seqGap k f = 0 ∨ 32768 ≤ c.seqGap k f ∨ (c.link k).st ≠ .up) : c.takeSeq k f = c := by
  refine (if_neg (by simp [type])).trans (if_neg ?_)
  rcases none' with next | old | off
  · simp [next]
  · simp [Nat.not_lt.2 old]
  · simp [off]

end

/-! Packets that a link has received whole (R273, R274, R278, R279). -/

/-- A packet that came over link k leaves its buffer, and its credits go back (R273). -/
def Chip.freePacket (c : Chip) (k : Nat) (wire : List Byte) : Chip :=
  let l := c.link k
  let n := divUp wire.length 240
  match l.arrived.find? (fun a => a.2 = wire) with
  | none => c
  | some a => (c.setLink k { l with
      arrived := dropFirst (fun b => b = a) l.arrived, owed := lmod (· - n) l.owed a.1, back := lmod (· + n) l.back a.1 }).pump k

/-- What the device does with a packet opened (R274, R276, R278, R279). -/
def Chip.takeOpened (c : Chip) : Opened → Chip
  | .stray => { c with fabricDrops := c.fabricDrops + 1 }
  | .refused i n => c.count i n 1
  | .clear p => c.takeStream p

theorem fabricPacket_to {s : State} (live : s.Live) {k : Nat} {hdr : BitVec 192} {body : List Byte} {o : Opened}
    (opened : (s.chip.freePacket k (leBytes 24 hdr.toNat ++ body)).openPacket hdr (packetOf hdr body) = o) :
    exec (.fabricPacketReceived k hdr body) s =
      .next { s with chip := (s.chip.freePacket k (leBytes 24 hdr.toNat ++ body)).takeOpened o } := by
  show execFabricPacketReceived k hdr body s = _
  rw [← opened]
  exact onChip_live live _

section
variable {s : State} {k : Nat} {f : List Byte} {d : Chip} (live : s.Live)
include live

/-! Every kind of flit is taken in one way (R265, R270). -/

theorem dataFlit_to (e : s.chip.takeFlit k f true = d) : exec (.dataFlit k f) s = .next { s with chip := d } := by
  show execDataFlit k f s = _
  exact onChip_to live e

theorem idleFlit_to (e : s.chip.takeFlit k f false = d) : exec (.idleFlit k f) s = .next { s with chip := d } := by
  show execIdleFlit k f s = _
  exact onChip_to live e

theorem retryFlit_to (e : s.chip.takeFlit k f false = d) : exec (.retry k f) s = .next { s with chip := d } := by
  show execRetry k f s = _
  exact onChip_to live e

/-! The timer repeats the RETRY of a link that still waits for what it asked for (R270). -/

theorem retryTimer_of_retrying (up : (s.chip.link k).st = .up) (locked : (s.chip.link k).lock.isSome = true)
    (asks : (s.chip.link k).retrying = true) : exec (.retryRepeatTimer k) s = .next { s with chip := s.chip.askRetry k } := by
  show execRetryRepeatTimer k s = _
  exact onChip_to live (if_pos (by simp [up, locked, asks]))

theorem retryTimer_of_idle (idle : (s.chip.link k).st ≠ .up ∨ (s.chip.link k).lock = none ∨ (s.chip.link k).retrying = false) :
    exec (.retryRepeatTimer k) s = .next s := by
  show execRetryRepeatTimer k s = _
  refine onChip_to live (if_neg ?_)
  rcases idle with off | lost | done
  · simp [off]
  · simp [lost]
  · simp [done]

end

/-- Settles O39: a flit by its check, then by the three stages of `takeFlit_of_good`; a packet by what it opens to. -/
theorem linkFlitsComplete : Obligations.LinkFlitsComplete := by
  intro s k live c l upd
  refine ⟨fun f up locked good => ?_, fun f up locked bad => ?_, fun f deaf => ?_, retryTimer_of_retrying live,
    retryTimer_of_idle live, fun hdr body => ⟨fun p opened => fabricPacket_to live opened,
      fun i m opened => fabricPacket_to live opened, fun opened => fabricPacket_to live opened⟩⟩
  · intro h d m gap
    have stillUp : ((s.chip.takeAck k f).link k).st = .up := (takeAck_st _ _ _).trans up
    have ofData {e : Chip} (type : bits h 31 28 = 1) : (s.chip.takeAck k f).takeSeq k f = e → s.chip.takeFlit k f true = e.pump k :=
      takeFlit_of_no_retry up locked good true (.inl (by rw [type]; decide))
    refine ⟨fun type next => dataFlit_to live (ofData type (takeSeq_of_expected type next)),
      fun type missing ahead => dataFlit_to live (ofData type (takeSeq_of_gap missing ahead stillUp)),
      fun type old => dataFlit_to live (ofData type (takeSeq_of_old old)), fun type => ?_, fun type asks => ?_⟩
    · have noData : bits h 31 28 ≠ 1 := by omega
      have noRetry : bits h 31 28 ≠ 3 ∨ f.getD 12 0 ≠ 1 := type.imp (fun idle => by omega) And.right
      have ofIdle {e : Chip} : (s.chip.takeAck k f).takeSeq k f = e → s.chip.takeFlit k f false = e.pump k :=
        takeFlit_of_no_retry up locked good false noRetry
      exact ⟨fun inOrder => idleFlit_to live (ofIdle (takeSeq_of_not_data noData (inOrder.imp_right .inl))),
        fun missing ahead => idleFlit_to live (ofIdle (takeSeq_of_gap missing ahead stillUp))⟩
    · have noData : bits h 31 28 ≠ 1 := by omega
      have ofRetry {e : Chip} : ((s.chip.takeAck k f).replayFrom k (BitVec.ofNat 16 (fieldAt f 14 2))).takeSeq k f = e →
          s.chip.takeFlit k f false = e.pump k := takeFlit_of_retry up locked good false type asks
      exact ⟨fun inOrder => retryFlit_to live (ofRetry (takeSeq_of_not_data noData inOrder)),
        fun missing ahead still => retryFlit_to live (ofRetry (takeSeq_of_gap missing ahead still))⟩
  · obtain ⟨data, other⟩ := takeFlit_of_bad up locked bad
    exact ⟨dataFlit_to live data, idleFlit_to live other, retryFlit_to live other⟩
  · have kept (data : Bool) := takeFlit_of_deaf (f := f) deaf data
    exact ⟨dataFlit_to live (kept true), idleFlit_to live (kept false), retryFlit_to live (kept false)⟩

end Sys2Proof.Machine

namespace Sys2Proof.Machine

/-! Lane control words and lanes (R259, R260, R262, R281 to R283, R286, R381). -/

/-- The lowest lane of those up is the first that is live (R258, R283). -/
theorem lanesUp_head (l : Link) : l.lanesUp.head? = (List.range 16).find? (l.laneLive ·) := by
  have same : l.lanesUp = (List.range 16).filter (l.laneLive ·) :=
    List.filter_congr fun n num => by simp [Link.laneLive, List.mem_range.1 num]
  rw [same, List.head?_filter]

/-- A unit that has an event of this kind and is still in service retires at once (R381). -/
theorem faultEvent_of_atOnce {c : Chip} {u : UnitId} (there : unitOk u = true) (serves : c.isRetired u.cls u.idx = false)
    (has : hasEvent u.cls .atOnce = true) : c.faultEvent u .atOnce = c.retire u 0 :=
  if_neg (by simp [there, serves, has])

section
variable {s : State} {k : Nat} {w : BitVec 80} (live : s.Live)
include live

/-! A word is handled where its type, its lane and the link's state fit (R259, R262, R281 to R283, R286). -/

theorem tapRequest_of_tuned (type : laneType w = some 1) (tunes : (s.chip.link k).tunes = true)
    (there : (s.chip.link k).laneLive (wordLane w) = true) (tap : wordTap w ≤ 4) :
    let n := wordLane w
    let t := wordTap w
    let v := ((s.chip.link k).lane n).taps.getD t 0 + (if wordDown w then -1 else 1)
    let d := (s.chip.onLane k n (fun x => { x with taps := lput x.taps t v })).emit
      (.laneWord k n (laneWord 2 (n + t * 16 + bit (wordDown w) * 128 + (BitVec.ofInt 8 v).toNat * 256)))
    exec (.tapRequest k w) s = .next { s with chip := d } := by
  show execTapRequest k w s = _
  exact onChip_to live (if_neg (by simp [type, tunes, there, tap]))

theorem tapAnswer_of_asked {down : Bool} (type : laneType w = some 2)
    (asked : ((s.chip.link k).lane (wordLane w)).asked = some (wordTap w, down)) :
    exec (.tapAnswer k w) s = .next { s with chip := s.chip.onLane k (wordLane w) (fun x => { x with
      asked := none, judged := some (wordTap w, down)
      partner := (lput x.partner (wordTap w) (BitVec.ofNat 8 (bits w.toNat 31 24)).toInt) }) } := by
  show execTapAnswer k w s = _
  refine onChip_to live ?_
  simp only [type, asked]
  exact if_neg (not_not_intro rfl)

section
variable {lane corrected : Nat} {un : Bool} (tunes : (s.chip.link k).tunes = true)
  (there : (s.chip.link k).laneLive lane = true) (answered : ((s.chip.link k).lane lane).asked = none)
include tunes there answered

/-- A step that made the lane worse is taken back (R282). -/
theorem tapStepEvaluate_of_judged {tap : Nat} {down : Bool} (judged : ((s.chip.link k).lane lane).judged = some (tap, down)) :
    let d := s.chip.onLane k lane (fun x => { x with judged := none, before := corrected })
    let e := if un || ((s.chip.link k).lane lane).before < corrected then d.askTap k lane (tap, !down) else d
    exec (.tapStepEvaluate k lane corrected un) s = .next { s with chip := e } := by
  show execTapStepEvaluate k lane corrected un s = _
  refine onChip_to live ((if_neg (by simp [tunes, there, answered])).trans ?_)
  simp only [judged]

/-- Without a step to judge, whether one is tried, and which, is free (log 76). -/
theorem tapStepEvaluate_of_unjudged (none' : ((s.chip.link k).lane lane).judged = none) :
    let c := s.chip
    let d := c.onLane k lane (fun x => { x with judged := none, before := corrected })
    let e := if c.freeNow % 2 = 0 then d.drew
      else d.drew.askTap k lane (c.freeNow / 2 % 5, decide (c.freeNow / 10 % 2 = 1))
    exec (.tapStepEvaluate k lane corrected un) s = .next { s with chip := e } := by
  show execTapStepEvaluate k lane corrected un s = _
  refine onChip_to live ((if_neg (by simp [tunes, there, answered])).trans ?_)
  simp only [none']

end

theorem laneRetire_of_live (type : laneType w = some 3) (up : (s.chip.link k).st = .up)
    (there : (s.chip.link k).laneLive (wordLane w) = true) :
    let l := s.chip.link k
    let n := wordLane w
    let m := { l with partnerRetired := l.partnerRetired ||| BitVec.ofNat 16 (2 ^ n) }
    let d := ((List.range 16).filter (m.laneLive ·)).foldl (fun (d : Chip) j => d.emit (.laneWord k j (laneWord 4 n)))
      (s.chip.setLink k m)
    let e := if m.liveLanes < 12 || m.major = 2 then d.retireLink k 0 else d.fastRetrain k
    exec (.laneRetire k w) s = .next { s with chip := e } := by
  show execLaneRetire k w s = _
  exact onChip_to live (if_neg (by simp [type, up, there]))

theorem retireAnswer_of_retiring (type : laneType w = some 4) (retires : wordLane w ∈ (s.chip.link k).retiring) :
    let l := s.chip.link k
    let n := wordLane w
    exec (.retireAnswer k w) s = .next { s with chip := (s.chip.setLink k { l with
      retiring := l.retiring.erase n, retiredLanes := l.retiredLanes ||| BitVec.ofNat 16 (2 ^ n) }).fastRetrain k } := by
  show execRetireAnswer k w s = _
  exact onChip_to live (if_neg (by simp [type, retires]))

theorem latencyProbe_of_live {m : Nat} (holding : Nat) (lowest : (List.range 16).find? ((s.chip.link k).laneLive ·) = some m)
    (type : laneType w = some 5) (there : (s.chip.link k).st.live = true) :
    exec (.latencyProbe k w holding) s = .next { s with chip := s.chip.emit (.laneWord k m (laneWord 6 (holding % 65536))) } := by
  show execLatencyProbe k w holding s = _
  refine onChip_to live ?_
  simp only [(lanesUp_head _).trans lowest]
  exact if_pos (by simp [type, there])

theorem probeEcho_of_training (trip : Nat) (type : laneType w = some 6)
    (trains : (s.chip.link k).st = .train53 ∨ (s.chip.link k).st = .train106 ∨ (s.chip.link k).st = .fastRetrain)
    (few : (s.chip.link k).probes.length < 16) :
    let l := s.chip.link k
    let d := s.chip.setLink k { l with probes := l.probes ++ [trip - bits w.toNat 31 16] }
    exec (.probeEcho k w trip) s = .next { s with chip := d } := by
  show execProbeEcho k w trip s = _
  exact onChip_to live (if_pos (by simpa [type, few, or_assoc] using trains))

theorem laneLossOfSignal_of_live {lane : Nat} (num : lane < 16) (link : k < 32) (up : (s.chip.link k).st = .up)
    (serves : s.chip.isRetired 6 (16 * k + lane) = false) :
    exec (.laneLossOfSignal k lane) s = .next { s with chip := s.chip.retire ⟨6, 16 * k + lane⟩ 0 } := by
  have there : unitOk ⟨6, 16 * k + lane⟩ = true := decide_eq_true (show 16 * k + lane < 512 by omega)
  show execLaneLossOfSignal k lane s = _
  exact onChip_to live ((if_pos (by simp [num, up])).trans (faultEvent_of_atOnce there serves rfl))

end

/-- Settles O40: each word by its type, its lane and the state of its link; a lane without signal is an event at once. -/
theorem laneWordsComplete : Obligations.LaneWordsComplete := by
  intro s k w live
  exact ⟨tapRequest_of_tuned live, fun down => tapAnswer_of_asked live,
    fun lane corrected un tunes there answered =>
      ⟨fun tap down => tapStepEvaluate_of_judged live tunes there answered, tapStepEvaluate_of_unjudged live tunes there answered⟩,
    laneRetire_of_live live, retireAnswer_of_retiring live, fun m holding => latencyProbe_of_live live holding,
    probeEcho_of_training live, fun lane => laneLossOfSignal_of_live live⟩

end Sys2Proof.Machine

namespace Sys2Proof.Machine

/-! COLL (R294 to R298, R304, R309). -/

theorem unless_of_none {f : Option Nat} {k : Unit → Ran} (sound : f = none) : Ran.unless f k = k () := by
  rw [sound]
  rfl

/-- What the row of a descriptor answers that its unit has carried out: it waits there, has left it, or is over. -/
theorem issue_awaits_gone_done {s : State} {i t u : Nat} {d : Desc} (h : s.Issues i t u d) {f : Chip → Chip} {a b : Prop}
    [Decidable a] [Decidable b]
    (e : (s.seen i t u d).runDesc i t (s.chip.job i).lexp d =
      if a then .awaits (f (s.seen i t u d)) else if b then .gone (f (s.seen i t u d)) else .done (f (s.seen i t u d))) :
    onChip s (fun c => c.issue t d) =
      .next (if a then s.ran i t u d f true else if b then s.left i t u d f else s.ran i t u d f false) := by
  by_cases waits : a
  · rw [if_pos waits] at e ⊢
    exact issue_awaits h e
  · rw [if_neg waits] at e ⊢
    by_cases gone : b
    · rw [if_pos gone] at e ⊢
      exact issue_gone h e
    · rw [if_neg gone] at e ⊢
      exact issue_done h e

/-- A COLL that the tile takes shows no fault of its own fields to its channel. -/
theorem cStatic_of_issues {s : State} {i t u : Nat} {d : Desc} (h : s.Issues i t u d) (is : dOp d = 0x52) :
    cStatic d = none := by
  have sound := seen_unitFault h
  simp only [Chip.unitFault, is, show opClass 0x52 = some .exchange from rfl, if_true] at sound
  exact eq_none_of_orElse sound

/-- Settles O31: past every check of `opColl` the COLL joins the group's collectives, whatever its KIND; what stands at its
channel after the Pack engine's turn says whether it waits. -/
theorem collDescriptorsComplete : Obligations.CollDescriptorsComplete := by
  intro s i t d h is u z g n sz look lists bytes new taken joined after own me shape aux auxFree src dst srcFree fours
  have began : z.runDesc i t (s.chip.job i).lexp d =
      if ((joined z).coll g (cCseq d)).isSome then .awaits (joined z)
      else if (((joined z).tile t).unitQ u).length < (((taken z).tile t).unitQ u).length then .gone (joined z)
      else .done (joined z) := by
    have run : z.runDesc i t (s.chip.job i).lexp d = z.opColl i t d := by simp [Chip.runDesc, is]
    have member : (decide ((z.group g).owner ≠ some i) || (z.selfIn (z.group g).members).isNone) = false := by
      simp [own, me]
    have auxHeld : (decide (sz.2.2 ≠ 0) && z.refHeld i (cAux d) sz.2.2 false) = false := by
      rcases auxFree with empty | free
      · simp [empty]
      · simp [free]
    have multiple :
        (decide (cKind d = 6) && (List.range n).any (fun m => decide (fieldAt lists (4 * m) 4 % 4 ≠ 0))) = false := by
      by_cases k : cKind d = 6
      · simpa [k] using fours k
      · simp [k]
    have listed : (if decide (sz.2.2 = 0) || (look (cAux d) sz.2.2 (cKind d = 6)).isSome then []
        else z.refRead i t (cAux d) sz.2.2) = lists := by simp [aux, lists]
    have ranges : (look (cSrc d) bytes false).orElse (fun _ => look (cDst d) sz.2.1 true) = none := by rw [src]; exact dst
    rw [run, Chip.opColl]
    refine (unless_of_none (cStatic_of_issues h is)).trans ?_
    refine (if_neg (Bool.eq_false_iff.1 member)).trans ?_
    refine (unless_of_none shape).trans ?_
    refine (unless_of_none aux).trans ?_
    refine (if_neg (Bool.eq_false_iff.1 auxHeld)).trans ?_
    rw [listed]
    refine (unless_of_none ranges).trans ?_
    refine (if_neg (Bool.eq_false_iff.1 multiple)).trans ?_
    exact if_neg (Bool.eq_false_iff.1 srcFree)
  have coll := issue_awaits_gone_done h began
  exact ⟨fun _ => coll, fun _ => coll, fun _ => coll, fun _ => coll, fun _ => coll, fun _ => coll, fun _ => coll,
    fun _ => coll⟩

end Sys2Proof.Machine

namespace Sys2Proof.Machine

/-! Packets of the Pack engine (R299 to R308, R311, R315, R396). -/

section
variable {c : Chip} {p : PackPkt} {i m opc : Nat} {x : Coll}

/-- A packet that a check of the running collective lets pass reaches it, and the collective goes on (R299). -/
theorem feed'_of_taken {now : Nat} {e : Chip} (there : c.coll p.group (BitVec.ofNat 32 p.cseq) = some x) (kind : x.kind = p.kind)
    (takes : c.takePacket i p.group x opc m now p = some e) :
    c.feed' i p.group opc m now p = match e.coll p.group (BitVec.ofNat 32 p.cseq) with
      | none => e
      | some y => if y.refused then e.refuseColl p.group y else e.progress i p.group (BitVec.ofNat 32 p.cseq) := by
  simp only [Chip.feed', there, kind, ne_eq, not_true_eq_false, if_false, takes]
  cases e.coll p.group (BitVec.ofNat 32 p.cseq) <;> rfl

theorem feed'_of_not_taken {now : Nat} (there : c.coll p.group (BitVec.ofNat 32 p.cseq) = some x) (kind : x.kind = p.kind)
    (fails : c.takePacket i p.group x opc m now p = none) :
    c.feed' i p.group opc m now p = c.failMember i p.group m := by
  simp only [Chip.feed', there, kind, ne_eq, not_true_eq_false, if_false, fails]

/-- A packet with another digest aborts the job (R299). -/
theorem packPacket_of_alien (sender : c.packFrom p = some (i, m)) (alien : ¬ p.gdigest = (c.group p.group).digest) :
    c.packPacket opc p = ((c.wakeHub 2).takeDelivered opc p).failMember i p.group m := by
  have sender : ((c.wakeHub 2).takeDelivered opc p).packFrom p = some (i, m) := sender
  rw [Chip.packPacket, sender]
  exact if_pos alien

variable (sender : c.packFrom p = some (i, m)) (own : p.gdigest = (c.group p.group).digest)
  (ahead : (BitVec.ofNat 32 p.cseq - (c.group p.group).next).toNat < 2147483648)
include sender own ahead

/-- A packet of a collective that runs is fed to it (R298). -/
theorem packPacket_of_active (active : (c.coll p.group (BitVec.ofNat 32 p.cseq)).any (·.active) = true) :
    c.packPacket opc p =
      ((((c.wakeHub 2).takeDelivered opc p).feed' i p.group opc m c.tc p).packTurn).ctrLimit i := by
  have sender : ((c.wakeHub 2).takeDelivered opc p).packFrom p = some (i, m) := sender
  rw [Chip.packPacket, sender]
  exact (if_neg (not_not_intro own)).trans ((if_neg (Nat.not_le.2 ahead)).trans (if_pos active))

/-- A packet of a collective that has not begun is kept for it (R298). -/
theorem packPacket_of_inactive (active : (c.coll p.group (BitVec.ofNat 32 p.cseq)).any (·.active) = false) :
    c.packPacket opc p = ((c.wakeHub 2).takeDelivered opc p).onGroup p.group (fun e =>
      { e with early := e.early ++ [(opc, p, c.tc)] }) := by
  have sender : ((c.wakeHub 2).takeDelivered opc p).packFrom p = some (i, m) := sender
  rw [Chip.packPacket, sender]
  exact (if_neg (not_not_intro own)).trans ((if_neg (Nat.not_le.2 ahead)).trans (if_neg (Bool.eq_false_iff.1 active)))

variable (there : c.coll p.group (BitVec.ofNat 32 p.cseq) = some x) (active : x.active = true) (kind : x.kind = p.kind)
include there active kind

theorem packPacket_of_taken {e : Chip}
    (takes : ((c.wakeHub 2).takeDelivered opc p).takePacket i p.group x opc m c.tc p = some e) :
    c.packPacket opc p = ((match e.coll p.group (BitVec.ofNat 32 p.cseq) with
      | none => e
      | some y =>
        if y.refused then e.refuseColl p.group y else e.progress i p.group (BitVec.ofNat 32 p.cseq)).packTurn).ctrLimit i := by
  rw [packPacket_of_active sender own ahead (by simp [there, active])]
  exact congrArg (fun e : Chip => e.packTurn.ctrLimit i) (feed'_of_taken there kind takes)

theorem packPacket_of_not_taken
    (fails : ((c.wakeHub 2).takeDelivered opc p).takePacket i p.group x opc m c.tc p = none) :
    c.packPacket opc p =
      (((c.wakeHub 2).takeDelivered opc p).failMember i p.group m).packTurn.ctrLimit i := by
  rw [packPacket_of_active sender own ahead (by simp [there, active])]
  exact congrArg (fun e : Chip => e.packTurn.ctrLimit i) (feed'_of_not_taken there kind fails)

end

/-! What the running collective makes of a packet, by its opcode (R299, R302 to R305, R311). -/

section
variable {c : Chip} {i g m now : Nat} {q : Word} {x : Coll} {p : PackPkt}

theorem takePacket_leaf_none
    (bad : 1 < x.kind ∨ leafBytes x.desc (c.groupSize g) (c.selfOf g) < p.offset + p.data.length) :
    c.takePacket i g x 1 m now p = none :=
  if_pos (by simpa using bad)

theorem takePacket_counts_none
    (bad : x.kind ≠ 6 ∨ x.pieces.any (fun y => y.1 = m && creditOf p < y.2.1 + y.2.2.length) = true) :
    c.takePacket i g x 3 m now p = none :=
  if_pos (by simpa using bad)

theorem takePacket_refuse_none (other : x.kind ≠ 6) : c.takePacket i g x 6 m now p = none :=
  if_pos other

variable (cseq : x.cseq = q)
include cseq

theorem takePacket_leaf (reduction : x.kind ≤ 1)
    (fits : p.offset + p.data.length ≤ leafBytes x.desc (c.groupSize g) (c.selfOf g)) :
    c.takePacket i g x 1 m now p = some ((c.onColl g q (fun y => y.enter m now)).onColl g q (fun y =>
      { y with pieces := y.pieces ++ [(m, p.offset, p.data)] })) := by
  rw [← cseq]
  exact if_neg (by simpa using ⟨reduction, fits⟩)

theorem takePacket_result : c.takePacket i g x 2 m now p =
    if x.kind = 4 then none
    else if x.kind = 7 then (c.onColl g q (fun y => y.enter m now)).takeSplitResult i g x m p.offset p.data
    else (c.onColl g q (fun y => y.enter m now)).takeResult i g x m p.offset p.data := by
  rw [← cseq]
  rfl

theorem takePacket_counts (six : x.kind = 6)
    (fits : x.pieces.any (fun y => y.1 = m && creditOf p < y.2.1 + y.2.2.length) = false) :
    c.takePacket i g x 3 m now p = some ((c.onColl g q (fun y => y.enter m now)).onColl g q (fun y =>
      if y.counts.any (fun e => e.1 = m) then y else { y with counts := y.counts ++ [(m, creditOf p)] })) := by
  rw [← cseq]
  exact if_neg (Bool.eq_false_iff.1 (Bool.or_eq_false_iff.2 ⟨by simp [six], fits⟩))

theorem takePacket_token (four : x.kind = 4) :
    c.takePacket i g x 4 m now p = some ((c.onColl g q (fun y => y.enter m now)).onColl g q (fun y =>
      { y with tokens := y.tokens ++ [(m, fieldAt p.data 0 4, BitVec.ofNat 64 (fieldAt p.data 4 8), now)] })) := by
  rw [← cseq]
  exact if_neg (not_not_intro four)

theorem takePacket_credit (whole : x.kind ≠ 7) :
    c.takePacket i g x 5 m now p = some (((c.onColl g q (fun y => y.enter m now)).onColl g q (fun y =>
      { y with credits := bump y.credits m (creditOf p) })).sendLeaves i g m q) := by
  rw [← cseq]
  exact if_neg whole

theorem takePacket_splitCredit (split : x.kind = 7) :
    c.takePacket i g x 5 m now p =
      some ((c.onColl g q (fun y => y.enter m now)).onColl g q (fun y => y.splitCredit m p)) := by
  rw [← cseq]
  exact if_pos split

theorem takePacket_refuse (six : x.kind = 6) :
    c.takePacket i g x 6 m now p =
      some ((c.onColl g q (fun y => y.enter m now)).onColl g q (fun y => { y with refused := true })) := by
  rw [← cseq]
  exact if_neg (not_not_intro six)

end

theorem coll_cseq {c : Chip} {g : Nat} {q : Word} {x : Coll} (there : c.coll g q = some x) : x.cseq = q := by
  simpa using List.find?_some there

/-! The rows of packets of a collective: each comes to `packPacket` with its opcode (R293). -/

section
variable {s : State} (live : s.Live) {p : PackPkt} {e : Chip}
include live

theorem leaf_to (h : s.chip.packPacket 1 p = e) : exec (.leaf p) s = .next { s with chip := e } :=
  onChip_to (f := fun c => c.packPacket 1 p) live h

theorem result_to (h : s.chip.packPacket 2 p = e) : exec (.result p) s = .next { s with chip := e } :=
  onChip_to (f := fun c => c.packPacket 2 p) live h

theorem counts_to (h : s.chip.packPacket 3 p = e) : exec (.counts p) s = .next { s with chip := e } :=
  onChip_to (f := fun c => c.packPacket 3 p) live h

theorem token_to (bound : p.kind ≠ kindFree) (h : s.chip.packPacket 4 p = e) :
    exec (.token p) s = .next { s with chip := e } :=
  onChip_to (f := fun c => if p.kind = kindFree then c.freeToken p else c.packPacket 4 p) live ((if_neg bound).trans h)

theorem credit_to (h : s.chip.packPacket 5 p = e) : exec (.credit p) s = .next { s with chip := e } :=
  onChip_to (f := fun c => c.packPacket 5 p) live h

theorem refuse_to (h : s.chip.packPacket 6 p = e) : exec (.refuse p) s = .next { s with chip := e } :=
  onChip_to (f := fun c => c.packPacket 6 p) live h

end

/-! Free tokens, aborts, split packets and hand-offs (R303, R305 to R308, R311, R315, R396). -/

section
variable {s : State} (live : s.Live) {p : PackPkt} {i m : Nat} (sender : s.chip.packFrom p = some (i, m))
include live sender

/-- A token of no collective goes by its round: the probe, a hold token, or one of the vote or the flip barrier. -/
theorem freeToken_to (free : p.kind = kindFree) (own : p.gdigest = (s.chip.group p.group).digest)
    (runs : s.chip.jobRuns i = true) (epoch : p.group = (s.chip.job i).group) :
    let c := s.chip.takeDelivered 4 p
    let round := fieldAt p.data 0 4
    let flags := BitVec.ofNat 64 (fieldAt p.data 4 8)
    exec (.token p) s = .next { s with chip :=
      if round = 0xFFFFFFFF then (if s.chip.selfOf (s.chip.job i).group = 0 then c.echoProbe i m else c.takeEcho i flags)
      else if round = 0xFFFFFFFE then c
      else (c.onJob i (fun j => { j with tokens := j.tokens ++ [(m, round, flags, s.chip.tc)] })).jobBarrier i } := by
  intro c round flags
  have sender : c.packFrom p = some (i, m) := sender
  have job : (!c.jobRuns i || decide (p.group ≠ (c.job i).group)) = false := by
    simpa using ⟨runs, epoch⟩
  refine onChip_to (f := fun c => if p.kind = kindFree then c.freeToken p else c.packPacket 4 p) live ((if_pos free).trans ?_)
  rw [Chip.freeToken, sender]
  exact (if_neg (Bool.eq_false_iff.1 job)).trans (if_neg (not_not_intro own))

theorem abort_to (runs : s.chip.jobRuns i = true) :
    exec (.abort p) s = .next { s with chip := (((s.chip.takeDelivered 7 p).notify [i] ncMemberFailed
      (fieldAt p.data 0 2) (fieldAt p.data 2 4)).abortJob i none) } := by
  have sender : (s.chip.takeDelivered 7 p).packFrom p = some (i, m) := sender
  have runs : (s.chip.takeDelivered 7 p).jobRuns i = true := runs
  show execAbort p s = _
  refine onChip_to live ?_
  simp only [sender]
  exact if_neg (by simp [runs])

theorem split_to : exec (.split p) s = .next { s with chip :=
    if p.gdigest ≠ (s.chip.group p.group).digest || p.kind ≠ 7 then (s.chip.takeDelivered 8 p).failMember i p.group m
    else (((s.chip.takeDelivered 8 p).takeSplit i m s.chip.tc p).packTurn.ctrLimit i) } := by
  have sender : (s.chip.takeDelivered 8 p).packFrom p = some (i, m) := sender
  show execSplit p s = _
  refine onChip_to live ?_
  simp only [sender]
  rfl

theorem handoff_to {e : Chip} (h : (s.chip.takeDelivered 9 p).takeHandoff i m p = e) :
    exec (.handoff p) s = .next { s with chip := e.ctrLimit i } := by
  have sender : (s.chip.takeDelivered 9 p).packFrom p = some (i, m) := sender
  show execHandoff p s = _
  refine onChip_to live ?_
  simp only [sender, h]

end

theorem takeHandoff_of_alien {c : Chip} {p : PackPkt} {i m : Nat} (alien : ¬ p.gdigest = (c.group p.group).digest) :
    c.takeHandoff i m p = c.failMember i p.group m :=
  if_pos alien

section
variable {c : Chip} {p : PackPkt} {i m : Nat} {b : BObj} {o : Obj} (own : p.gdigest = (c.group p.group).digest)
  (object : (sortedObjs (c.inst i).bobjs)[p.cseq / 65536]? = some b) (group : b.f 329 320 = p.group)
  (shard : p.cseq % 65536 < b.f 383 368) (inside : p.offset + p.data.length ≤ b.elems * wBytes b.block.toNat)
  (other : (b.f 351 336 + p.cseq % 65536) % max 1 (c.groupSize p.group) ≠ c.selfOf p.group)
  (start : c.objStart i b.addr = some o)
include own object group shard inside other start

/-- A hand-off of a piece of another member's shard waits while its update is not due, or its shard is over, or its place is
held (R303, R308). -/
theorem takeHandoff_of_waits (waits : o.due = [] ∨ p.cseq % 65536 ∈ o.shardsDone ∨
      c.copyHeld o (b.addr + p.cseq % 65536 * (b.elems * wBytes b.block.toNat) + p.offset) p.data.length = true) :
    c.takeHandoff i m p = c.onGroup p.group (fun e => { e with early := e.early ++ [(9, p, c.tc)] }) := by
  rw [Chip.takeHandoff, if_neg (not_not_intro own), object]
  refine (if_neg ?_).trans ((if_neg other).trans (if_pos ?_))
  · simpa using ⟨⟨group, shard⟩, inside⟩
  · simpa [start, or_assoc] using waits

/-- One that need not wait lands, and the owner's own range of it goes on to the other members (R303, R308). -/
theorem takeHandoff_of_lands (lands : ¬ (o.due = [] ∨ p.cseq % 65536 ∈ o.shardsDone ∨
      c.copyHeld o (b.addr + p.cseq % 65536 * (b.elems * wBytes b.block.toNat) + p.offset) p.data.length = true)) :
    c.takeHandoff i m p =
      let u := castRange (b.elems * wBytes b.block.toNat) (c.groupSize p.group)
      let e := c.landShard i b (p.cseq % 65536) p.offset p.data
      if m = (b.f 351 336 + p.cseq % 65536) % max 1 (c.groupSize p.group) && c.selfOf p.group * u ≤ p.offset &&
          p.offset < (c.selfOf p.group + 1) * u then
        (e.others p.group).foldl (fun (c : Chip) k =>
          c.sendPack i p.group k 9 kindFree (BitVec.ofNat 32 p.cseq) 0 p.offset p.data) e
      else e := by
  rw [Chip.takeHandoff, if_neg (not_not_intro own), object]
  refine (if_neg ?_).trans ((if_neg other).trans (if_neg ?_))
  · simpa using ⟨⟨group, shard⟩, inside⟩
  · simpa [start, or_assoc] using lands

end

/-- Settles O36: a packet of a collective by whether it is the running one's, one's that has not begun, or of another digest;
the others by what they find on the chip. -/
theorem packPacketsComplete : Obligations.PackPacketsComplete := by
  intro s p i m live sender upd g q w taken own ahead
  refine ⟨?running, ?early, ?alien, ?free, ?abort, ?split, ?handoff⟩
  case running =>
    intro x own ahead there active kind entered goes fails leaf count late
    have cseq : x.cseq = q := coll_cseq there
    have gone {opc : Nat} {e : Chip} (takes : (w opc).takePacket i g x opc m s.chip.tc p = some e) :=
      packPacket_of_taken sender own ahead there active kind takes
    have failed {opc : Nat} (fault : (w opc).takePacket i g x opc m s.chip.tc p = none) :=
      packPacket_of_not_taken sender own ahead there active kind fault
    exact ⟨fun reduction fits => leaf_to live (gone (takePacket_leaf cseq reduction fits)),
      fun bad => leaf_to live (failed (takePacket_leaf_none bad)),
      fun e result => result_to live (gone ((takePacket_result cseq).trans result)),
      fun bad => result_to live (failed ((takePacket_result cseq).trans bad)),
      fun six inTime => counts_to live (gone (takePacket_counts cseq six inTime)),
      fun bad => counts_to live (failed (takePacket_counts_none bad)),
      fun four => token_to live (by rw [← kind, four]; decide) (gone (takePacket_token cseq four)),
      fun whole => credit_to live (gone (takePacket_credit cseq whole)),
      fun split => credit_to live (gone (takePacket_splitCredit cseq split)),
      fun six => refuse_to live (gone (takePacket_refuse cseq six)),
      fun other => refuse_to live (failed (takePacket_refuse_none other))⟩
  case early =>
    intro own ahead inactive kept
    have kept (opc : Nat) := packPacket_of_inactive (opc := opc) sender own ahead inactive
    exact ⟨leaf_to live (kept 1), result_to live (kept 2), counts_to live (kept 3), fun bound => token_to live bound (kept 4),
      credit_to live (kept 5), refuse_to live (kept 6)⟩
  case alien =>
    intro alien fails
    have fails (opc : Nat) := packPacket_of_alien (opc := opc) sender alien
    refine ⟨leaf_to live (fails 1), result_to live (fails 2), counts_to live (fails 3),
      fun bound => token_to live bound (fails 4), credit_to live (fails 5), refuse_to live (fails 6), ?_, ?_⟩
    · rw [split_to live sender, if_pos (by simpa using .inl alien)]
    · exact handoff_to live sender (takeHandoff_of_alien alien)
  case free =>
    intro free own runs epoch round flags
    have comes := freeToken_to live sender free own runs epoch
    refine ⟨fun low => ?_, fun hold => ?_, fun probe root => ?_, fun probe member => ?_⟩
    · exact comes.trans (by rw [if_neg (by omega), if_neg (by omega)])
    · exact comes.trans (by rw [if_neg (by omega), if_pos hold])
    · exact comes.trans (by rw [if_pos probe, if_pos (epoch ▸ root)])
    · exact comes.trans (by rw [if_pos probe, if_neg (epoch ▸ member)])
  case abort => exact abort_to live sender
  case split =>
    intro own seven
    rw [split_to live sender, if_neg (by simpa using ⟨own, seven⟩)]
  case handoff =>
    intro b o own object group shard size n me u owner waits e fits inside other start
    exact ⟨fun wait => handoff_to live sender (takeHandoff_of_waits own object group fits inside other start wait),
      fun go => handoff_to live sender (takeHandoff_of_lands own object group fits inside other start go)⟩

end Sys2Proof.Machine

namespace Sys2Proof.Machine

/-! The logarithm of the rounds and of the sum's levels (R300, R305). -/

/-- Below 2^64 the model's logarithm is the library's. -/
theorem log2_eq {n : Nat} (pos : n ≠ 0) (small : n < 2 ^ 64) : log2 n = Nat.log2 n := by
  have below : Nat.log2 n < 64 := (Nat.log2_lt pos).2 small
  have split : List.range 64 = List.range (Nat.log2 n + 1) ++ (List.range (63 - Nat.log2 n)).map (Nat.log2 n + 1 + ·) := by
    rw [← List.range_add]
    congr 1
    omega
  have low : (List.range (Nat.log2 n + 1)).filter (fun k => 2 ^ k ≤ n) = List.range (Nat.log2 n + 1) :=
    List.filter_eq_self.2 fun k mem => by
      simpa using (Nat.le_log2 pos).1 (Nat.le_of_lt_succ (List.mem_range.1 mem))
  have high : ((List.range (63 - Nat.log2 n)).map (Nat.log2 n + 1 + ·)).filter (fun k => 2 ^ k ≤ n) = [] := by
    rw [List.filter_eq_nil_iff]
    intro k mem
    obtain ⟨j, -, rfl⟩ := List.mem_map.1 mem
    simpa using (Nat.log2_lt pos).1 (by omega)
  simp [log2, split, low, high]

end Sys2Proof.Machine

namespace Sys2Proof.Machine

/-! Barriers by dissemination (R305). -/
/-- The rounds of a barrier are the least whose power of two reaches the group's size. -/
theorem barrierRounds_least {n : Nat} (small : n < 2 ^ 64) :
    n ≤ 2 ^ barrierRounds n ∧ (0 < barrierRounds n → 2 ^ (barrierRounds n - 1) < n) := by
  unfold barrierRounds
  split
  · exact ⟨by simpa, fun h => absurd h (Nat.lt_irrefl 0)⟩
  · have pos : n - 1 ≠ 0 := by omega
    rw [log2_eq pos (by omega)]
    have low := Nat.log2_self_le pos
    have high := Nat.lt_log2_self (n := n - 1)
    exact ⟨by omega, fun _ => by rw [Nat.add_sub_cancel]; omega⟩

section
variable {n : Nat} (pos : 0 < n)
include pos

theorem memberBack_cast (k j : Nat) : ((memberBack n k j : Nat) : Int) = ((k : Int) - j) % n :=
  Int.toNat_of_nonneg (Int.emod_nonneg _ (by omega))

theorem memberBack_lt (k j : Nat) : memberBack n k j < n := by
  have := Int.emod_lt_of_pos ((k : Int) - j) (show (0 : Int) < n by omega)
  rw [← memberBack_cast pos] at this
  exact_mod_cast this

theorem memberBack_zero {k : Nat} (member : k < n) : memberBack n k 0 = k := by
  have : ((memberBack n k 0 : Nat) : Int) = k := by
    rw [memberBack_cast pos, Int.ofNat_zero, Int.sub_zero]
    exact Int.emod_eq_of_lt (by omega) (by omega)
  exact_mod_cast this

theorem memberBack_memberBack (k a b : Nat) : memberBack n (memberBack n k a) b = memberBack n k (a + b) := by
  have : ((memberBack n (memberBack n k a) b : Nat) : Int) = memberBack n k (a + b) := by
    rw [memberBack_cast pos, memberBack_cast pos, memberBack_cast pos, Int.emod_sub_emod, Int.natCast_add, Int.sub_sub]
  exact_mod_cast this

/-- Every member of the group is some number of places back. -/
theorem memberBack_back {k m : Nat} (member : m < n) : memberBack n k (memberBack n k m) = m := by
  have : ((memberBack n k (memberBack n k m) : Nat) : Int) = m := by
    rw [memberBack_cast pos, memberBack_cast pos, Int.sub_emod_emod, Int.sub_sub_self]
    exact Int.emod_eq_of_lt (by omega) (by omega)
  exact_mod_cast this

/-- The member whose token the model looks for in a round (R305). -/
theorem memberBack_eq (k j : Nat) : (k + n - j % n) % n = memberBack n k j := by
  have below := Nat.mod_lt j pos
  have : (((k + n - j % n) % n : Nat) : Int) = memberBack n k j := by
    rw [memberBack_cast pos, Int.natCast_emod, Int.ofNat_sub (by omega), Int.natCast_emod, Int.sub_emod_emod, Int.natCast_add,
      show (k : Int) + n - j = k - j + n by omega, Int.add_emod_right]
  exact_mod_cast this

end

theorem getLsbD_foldl_or {w : Nat} (f : Nat → BitVec w) (l : List Nat) (a : BitVec w) (x : Nat) :
    (l.foldl (fun a j => a ||| f j) a).getLsbD x = (a.getLsbD x || l.any (fun j => (f j).getLsbD x)) := by
  induction l generalizing a with
  | nil => simp
  | cons j l ih => simp [ih, Bool.or_assoc]

section
variable {n : Nat} {flags : Nat → Double} {k r : Nat}

theorem getLsbD_heard (x : Nat) :
    (heard n flags k r).getLsbD x = (List.range (2 ^ r)).any (fun j => (flags (memberBack n k j)).getLsbD x) := by
  simp [heard, getLsbD_foldl_or (fun j => flags (memberBack n k j))]

theorem heard_zero (member : k < n) : heard n flags k 0 = flags k := by
  simp [heard, memberBack_zero (Nat.zero_lt_of_lt member) member]

/-- A round doubles the members heard of: the sender's are those before this member's. -/
theorem heard_succ (pos : 0 < n) :
    heard n flags k r ||| heard n flags (memberBack n k (2 ^ r)) r = heard n flags k (r + 1) := by
  refine BitVec.eq_of_getLsbD_eq fun x _ => ?_
  rw [BitVec.getLsbD_or, getLsbD_heard, getLsbD_heard, getLsbD_heard, Nat.pow_succ, Nat.mul_two, List.range_add,
    List.any_append, List.any_map]
  simp only [memberBack_memberBack pos, Function.comp_def]

/-- Once a round's distance reaches the group's size every member has been heard of. -/
theorem getLsbD_heard_all (pos : 0 < n) (far : n ≤ 2 ^ r) (x : Nat) :
    (heard n flags k r).getLsbD x = (List.range n).any (fun m => (flags m).getLsbD x) := by
  rw [getLsbD_heard, Bool.eq_iff_iff, List.any_eq_true, List.any_eq_true]
  constructor
  · rintro ⟨j, -, set⟩
    exact ⟨_, List.mem_range.2 (memberBack_lt pos k j), set⟩
  · rintro ⟨m, member, set⟩
    refine ⟨memberBack n k m, List.mem_range.2 (Nat.lt_of_lt_of_le (memberBack_lt pos k m) far), ?_⟩
    rwa [memberBack_back pos (List.mem_range.1 member)]

end

/-- The one element of a list that meets a test is the one found, and dropping it leaves the others. -/
theorem find?_dropFirst_of_perm {α : Type} {f : α → Bool} {a : α} {l rest : List α} (perm : l.Perm (a :: rest))
    (meets : f a = true) (only : ∀ y ∈ rest, f y = false) : l.find? f = some a ∧ (dropFirst f l).Perm rest := by
  have one : l.find? f = some a := by
    cases found : l.find? f with
    | none => exact absurd meets (by simpa using List.find?_eq_none.1 found a (perm.mem_iff.2 List.mem_cons_self))
    | some y =>
      rcases List.mem_cons.1 (perm.mem_iff.1 (List.mem_of_find?_eq_some found)) with rfl | other
      · rfl
      · exact absurd (List.find?_some found) (by simp [only y other])
  have dropped : ∀ m : List α, m.find? f = some a → m.Perm (a :: dropFirst f m) := by
    intro m
    induction m with
    | nil => intro h; cases h
    | cons b m ih =>
      intro h
      by_cases k : f b = true
      · obtain rfl : b = a := by simpa [k] using h
        simp [dropFirst, k]
      · have h : m.find? f = some a := by simpa [k] using h
        rw [dropFirst, if_neg k]
        exact ((ih h).cons b).trans (.swap a b _)
  exact ⟨one, (List.perm_cons a).1 ((dropped l one).symm.trans perm)⟩

/-- The token of round r for member k, which carries what its sender had heard by then, and when it came (R305). -/
def roundToken (n k : Nat) (flags : Nat → Double) (when : Nat → Nat) (r : Nat) : Nat × Nat × Double × Nat :=
  (memberBack n k (2 ^ r), r, heard n flags (memberBack n k (2 ^ r)) r, when r)

/-- A barrier that has taken the token of its round. -/
def Barrier.took (b : Barrier) (t : Nat × Nat × Double × Nat) : Barrier :=
  { b with acc := b.acc ||| t.2.2.1, round := b.round + 1,
           entries := if b.entries.any (fun e => e.1 = t.1) then b.entries else b.entries ++ [(t.1, t.2.2.2)] }

/-- A token is the one of member m for round r. -/
def tokenFrom (m r : Nat) (t : Nat × Nat × Double × Nat) : Bool := decide (t.1 = m && t.2.1 = r)

section
variable {n k : Nat} {b : Barrier} {ts : List (Nat × Nat × Double × Nat)}

theorem advance_of_ended (fuel : Nat) (ended : barrierRounds n ≤ b.round) :
    b.advance n k (fuel + 1) ts = ({ b with done := true }, ts, []) :=
  if_pos ended

/-- With the token of its round there a barrier takes it, sends that of the next round if there is one, and goes on. -/
theorem advance_of_found {t : Nat × Nat × Double × Nat} (fuel : Nat) (pos : 0 < n) (running : b.round < barrierRounds n)
    (found : ts.find? (tokenFrom (memberBack n k (2 ^ b.round)) b.round) = some t) :
    b.advance n k (fuel + 1) ts =
      let rest := (b.took t).advance n k fuel (dropFirst (tokenFrom (memberBack n k (2 ^ b.round)) b.round) ts)
      if b.round + 1 < barrierRounds n then (rest.1, rest.2.1, (b.round + 1, b.acc ||| t.2.2.1) :: rest.2.2) else rest := by
  obtain ⟨sender, -⟩ : t.1 = memberBack n k (2 ^ b.round) ∧ t.2.1 = b.round := by
    simpa [tokenFrom] using List.find?_some found
  have found' : ts.find? (fun t => decide (t.1 = memberBack n k (2 ^ b.round) && t.2.1 = b.round)) = some t := found
  rw [Barrier.advance, if_neg (Nat.not_le.2 running)]
  simp only [memberBack_eq pos, found', Barrier.took, sender]
  rfl

end

/-- With the tokens of all rounds from its own on a barrier ends, once it has heard of every member those rounds reach, and
has sent a token on entering each later round. -/
theorem advance_of_tokens {n k : Nat} {flags : Nat → Double} {when : Nat → Nat} (pos : 0 < n) (left : Nat) :
    ∀ (b : Barrier) (ts : List (Nat × Nat × Double × Nat)),
      b.round + left = barrierRounds n → b.acc = heard n flags k b.round →
      ts.Perm ((List.range' b.round left).map (roundToken n k flags when)) →
      let run := b.advance n k (left + 1) ts
      run.1.done = true ∧ run.2.1 = [] ∧ run.1.acc = heard n flags k (barrierRounds n) ∧
        run.2.2 = (List.range' (b.round + 1) (left - 1)).map (fun r => (r, heard n flags k r)) := by
  induction left with
  | zero =>
    intro b ts rounds acc tokens
    rw [advance_of_ended 0 (by omega)]
    exact ⟨rfl, List.perm_nil.1 tokens, by rw [← rounds]; exact acc, rfl⟩
  | succ left ih =>
    intro b ts within acc tokens
    have only : ∀ t ∈ (List.range' (b.round + 1) left).map (roundToken n k flags when),
        tokenFrom (memberBack n k (2 ^ b.round)) b.round t = false := by
      intro t mem
      obtain ⟨q, later, rfl⟩ := List.mem_map.1 mem
      have later := (List.mem_range'_1.1 later).1
      have : q ≠ b.round := by omega
      simp [tokenFrom, roundToken, this]
    obtain ⟨found, others⟩ := find?_dropFirst_of_perm tokens (by simp [tokenFrom, roundToken]) only
    have heardNow : b.acc ||| (roundToken n k flags when b.round).2.2.1 = heard n flags k (b.round + 1) := by
      rw [acc]; exact heard_succ pos
    have rounds : (b.took (roundToken n k flags when b.round)).round + left = barrierRounds n := by
      simp only [Barrier.took]
      omega
    obtain ⟨done, spent, all, sent⟩ := ih _ _ rounds heardNow others
    rw [advance_of_found (left + 1) pos (by omega) found, heardNow]
    cases left with
    | zero => rw [if_neg (by omega)]; exact ⟨done, spent, all, sent⟩
    | succ left =>
      rw [if_pos (by omega)]
      exact ⟨done, spent, all, by rw [sent]; rfl⟩

/-- Settles O54: the rounds by the logarithm, the run by induction on the rounds left (`advance_of_tokens`), the result because
every member is less than 2^R places back. -/
theorem barrierEndsWithEveryFlag : Obligations.BarrierEndsWithEveryFlag := by
  intro n k flags when vote now ts pos small member R sender run tokens
  obtain ⟨done, spent, all, sent⟩ := advance_of_tokens pos R (Barrier.enter vote (flags k) now) ts (Nat.zero_add _)
    (heard_zero member).symm (by rw [Barrier.enter, ← List.range_eq_range']; exact tokens)
  have least := barrierRounds_least (n := n) (by omega)
  refine ⟨least, done, spent, fun x => ?_, ?_, fun c i g kind mark r cseq w => rfl⟩
  · rw [all, getLsbD_heard_all pos least.1]
  · rw [sent, List.range_eq_range']
    by_cases one : n ≤ 1
    · have alone : R = 0 := if_pos one
      simp [firstTokens, one, alone]
    · have rounds : R = R - 1 + 1 := (Nat.sub_add_cancel (by simp [R, barrierRounds, one])).symm
      rw [firstTokens, if_neg one, rounds, List.range'_succ, List.map_cons, heard_zero member]
      rfl

end Sys2Proof.Machine

namespace Sys2Proof.Machine

/-! The order of the Pack engine's sum (R300). -/

/-- A level of the tree adds neighbours, as `packAdd` does. -/
theorem getD_levelUp (v : List Counted) (j : Nat) (z : Counted) (inside : 2 * j + 1 < v.length) :
    (levelUp v).getD j z = packAdd (v.getD (2 * j) z) (v.getD (2 * j + 1) z) := by
  induction j generalizing v with
  | zero => match v, inside with
    | a :: b :: r, _ => rfl
  | succ j ih => match v, inside with
    | a :: b :: r, inside => exact ih r (by simp only [List.length_cons] at inside; omega)

theorem length_levelUp (v : List Counted) : (levelUp v).length = (v.length + 1) / 2 := by
  unfold levelUp
  fun_induction pairUp addC v with
  | case1 a b r ih => simp [ih]; omega
  | case2 v short => match v, short with
    | [], _ => rfl
    | [_], _ => simp
    | a :: b :: r, short => exact absurd rfl (short a b r)

/-- The first K additions of the pass at width w. -/
def packPassTo (w K : Nat) (v : List Counted) : List Counted :=
  (List.range K).foldl (fun v j =>
    v.set (2 * w * j) (packAdd (v.getD (2 * w * j) (plainC Num.zero)) (v.getD (2 * w * j + w) (plainC Num.zero)))) v

theorem packPass_eq (p w : Nat) (v : List Counted) : packPass p w v = packPassTo w (p / (2 * w)) v := rfl

theorem packPassTo_succ (w K : Nat) (v : List Counted) :
    packPassTo w (K + 1) v = (packPassTo w K v).set (2 * w * K) (packAdd ((packPassTo w K v).getD (2 * w * K) (plainC Num.zero))
      ((packPassTo w K v).getD (2 * w * K + w) (plainC Num.zero))) := by
  rw [packPassTo, List.range_succ, List.foldl_append]
  rfl

@[simp] theorem length_packPassTo (w K : Nat) (v : List Counted) : (packPassTo w K v).length = v.length := by
  induction K with
  | zero => rfl
  | succ K ih => rw [packPassTo_succ, List.length_set, ih]

theorem getD_set_of_ne {v : List Counted} {x y : Nat} (a z : Counted) (apart : y ≠ x) : (v.set y a).getD x z = v.getD x z := by
  rw [List.getD_eq_getElem?_getD, List.getElem?_set_ne apart, List.getD_eq_getElem?_getD]

/-- Places that no addition of the pass writes stay. -/
theorem getD_packPassTo_of_apart {w K x : Nat} (v : List Counted) (apart : ∀ j < K, 2 * w * j ≠ x) :
    (packPassTo w K v).getD x (plainC Num.zero) = v.getD x (plainC Num.zero) := by
  induction K with
  | zero => rfl
  | succ K ih =>
    rw [packPassTo_succ, getD_set_of_ne _ _ (apart K (by omega))]
    exact ih fun j small => apart j (by omega)

theorem mul_even (w j : Nat) : w * (2 * j) = 2 * w * j := by rw [Nat.mul_left_comm, Nat.mul_assoc]

theorem mul_odd (w j : Nat) : w * (2 * j + 1) = 2 * w * j + w := by rw [Nat.mul_add, Nat.mul_one, mul_even]

/-- Every place that an addition of the pass writes holds the sum of what two places held before the pass. -/
theorem getD_packPassTo {w K j : Nat} (v : List Counted) (pos : 0 < w) (small : j < K) (inside : 2 * w * j < v.length) :
    (packPassTo w K v).getD (2 * w * j) (plainC Num.zero) =
      packAdd (v.getD (2 * w * j) (plainC Num.zero)) (v.getD (2 * w * j + w) (plainC Num.zero)) := by
  induction K with
  | zero => omega
  | succ K ih =>
    rw [packPassTo_succ]
    have apart : ∀ k, k ≠ j → 2 * w * k ≠ 2 * w * j := fun k ne e => ne (Nat.eq_of_mul_eq_mul_left (by omega) e)
    by_cases last : j = K
    · subst last
      have odd : ∀ k < j, 2 * w * k ≠ 2 * w * j + w := fun k _ e => by
        have : w * (2 * k) = w * (2 * j + 1) := by rw [mul_even, mul_odd, e]
        have := Nat.eq_of_mul_eq_mul_left pos this
        omega
      rw [getD_packPassTo_of_apart v fun k small => apart k (by omega), getD_packPassTo_of_apart v odd]
      simp [inside]
    · rw [getD_set_of_ne _ _ (apart K (Ne.symm last))]
      exact ih (by omega)

/-- The values of u stand w places apart in v: where R300's passes in place keep a level of the tree. -/
def Strided (w : Nat) (v u : List Counted) : Prop :=
  v.length = w * u.length ∧ ∀ j < u.length, v.getD (w * j) (plainC Num.zero) = u.getD j (plainC Num.zero)

/-- The pass at width w takes a level to the next one (R300). -/
theorem strided_packPass {p w h : Nat} {v u : List Counted} (pos : 0 < w) (even : u.length = 2 * h) (whole : p = v.length)
    (s : Strided w v u) : Strided (2 * w) (packPass p w v) (levelUp u) := by
  obtain ⟨length, values⟩ := s
  have half : (levelUp u).length = h := by rw [length_levelUp]; omega
  have count : p / (2 * w) = h := by
    rw [whole, length, even, mul_even]
    exact Nat.mul_div_cancel_left h (by omega)
  rw [packPass_eq, count]
  refine ⟨by rw [length_packPassTo, length, half, even, mul_even], fun j small => ?_⟩
  rw [half] at small
  have inside : 2 * w * j < v.length := by
    rw [length, even, mul_even]
    exact Nat.mul_lt_mul_of_pos_left small (by omega)
  rw [getD_packPassTo v pos small inside, getD_levelUp u j _ (by omega), ← values (2 * j) (by omega),
    ← values (2 * j + 1) (by omega), mul_even, mul_odd]

/-- r passes from width w on make r levels. -/
theorem strided_packPasses (p : Nat) : ∀ (r k : Nat) (v u : List Counted),
    u.length = 2 ^ r → p = v.length → Strided (2 ^ k) v u →
    Strided (2 ^ (k + r)) ((List.range' k r).foldl (fun v r => packPass p (2 ^ r) v) v) (levels r u)
  | 0, _, _, _, _, _, s => s
  | r + 1, k, v, u, length, whole, s => by
    have next := strided_packPass (Nat.two_pow_pos k) (h := 2 ^ r) (by rw [length, Nat.pow_succ']) whole s
    rw [← Nat.pow_succ'] at next
    have half : (levelUp u).length = 2 ^ r := by
      rw [length_levelUp, length, Nat.pow_succ]; omega
    have := strided_packPasses p r (k + 1) _ _ half (by rw [packPass_eq, length_packPassTo]; exact whole) next
    rwa [show k + 1 + r = k + (r + 1) by omega] at this

theorem strided_one (v : List Counted) : Strided 1 v v := ⟨by simp, fun j _ => by simp⟩

theorem length_levels (r : Nat) (u : List Counted) (length : u.length = 2 ^ r) : (levels r u).length = 1 := by
  induction r generalizing u with
  | zero => exact length
  | succ r ih => exact ih _ (by rw [length_levelUp, length, Nat.pow_succ]; omega)

/-- The first additions of R300 on the values c[0 .. n−1], for p = 2^m. -/
def packPairs (m : Nat) (c : List Num) : List Counted :=
  (List.range (2 ^ m)).map (fun k =>
    if 2 ^ m + k < c.length then packAdd (plainC (c.getD k Num.zero)) (plainC (c.getD (2 ^ m + k) Num.zero))
    else plainC (c.getD k Num.zero))

theorem length_packPairs (m : Nat) (c : List Num) : (packPairs m c).length = 2 ^ m := by simp [packPairs]

theorem packLoop_eq (m : Nat) (c : List Num) :
    packLoop m c =
      ((List.range m).foldl (fun v r => packPass (2 ^ m) (2 ^ r) v) (packPairs m c)).getD 0 (plainC Num.zero) := rfl

/-- The model's sum climbs m levels from the same first additions. -/
theorem packSum_eq {m : Nat} {c : List Num} (low : 2 ^ m ≤ c.length) (high : c.length < 2 ^ (m + 1)) (bound : c.length ≤ 65536) :
    packSum c = (levels m (packPairs m c)).headD (plainC Num.zero) := by
  have pos := Nat.two_pow_pos m
  have log : log2 c.length = m :=
    (log2_eq (by omega) (by omega)).trans ((Nat.log2_eq_iff (by omega)).2 ⟨low, high⟩)
  have depth : log2 (2 ^ m) = m := (log2_eq (Nat.ne_of_gt pos) (by omega)).trans Nat.log2_two_pow
  simp only [packSum, topPow, log, depth]
  rfl

/-- Settles O55: the passes of the loop keep the tree's levels at their widths, so that its first place ends with the root. -/
theorem packSumFollowsTheOrder : Obligations.PackSumFollowsTheOrder := by
  intro m c low high bound
  have length := length_packPairs m c
  obtain ⟨-, root⟩ := strided_packPasses (2 ^ m) m 0 _ _ length length.symm (strided_one (packPairs m c))
  calc packSum c
    _ = (levels m (packPairs m c)).getD 0 (plainC Num.zero) := by
      rw [packSum_eq low high bound, List.headD_eq_head?_getD, List.head?_eq_getElem?, List.getD_eq_getElem?_getD]
    _ = _ := (root 0 (by rw [length_levels m _ length]; decide)).symm
    _ = packLoop m c := by rw [Nat.mul_zero, ← List.range_eq_range', packLoop_eq]

end Sys2Proof.Machine

namespace Sys2Proof.Machine

/-! Feed streams (R336, R337, R342). -/

/-- What a stream's block holds after a whole store to its first double that leaves EN as it is (R342): LOG2_SLOTS of an
enabled stream stands. -/
def Feed.storing (f : Feed) (v : Double) : Feed :=
  { f with vector := v.extractLsb' 48 8, udpPort := v.extractLsb' 32 16
           log2Slots := if f.en then f.log2Slots else v.extractLsb' 16 5
           coalesce := v.extractLsb' 0 16 }

/-- Fields below EN do not see EN set. -/
theorem extract_or_en (v : Double) {i n : Nat} (below : i + n ≤ 63) :
    (v ||| BitVec.ofNat 64 (2 ^ 63)).extractLsb' i n = v.extractLsb' i n := by
  ext j h
  rw [BitVec.getElem_extractLsb', BitVec.getElem_extractLsb', BitVec.getLsbD_or, BitVec.getLsbD_ofNat,
    Nat.testBit_two_pow_of_ne (by omega), Bool.and_false, Bool.or_false]

/-- Fields below EN do not see EN cleared. -/
theorem extract_and_not_en (v : Double) {i n : Nat} (below : i + n ≤ 63) :
    (v &&& BitVec.ofNat 64 (2 ^ 63 - 1)).extractLsb' i n = v.extractLsb' i n := by
  ext j h
  have kept : i + j < 64 ∧ i + j < 63 := by omega
  rw [BitVec.getElem_extractLsb', BitVec.getElem_extractLsb', BitVec.getLsbD_and, BitVec.getLsbD_ofNat,
    Nat.testBit_two_pow_sub_one, decide_eq_true kept.1, decide_eq_true kept.2, Bool.and_true, Bool.and_true]

theorem Feed.storing_or_en (f : Feed) (v : Double) : f.storing (v ||| BitVec.ofNat 64 (2 ^ 63)) = f.storing v := by
  simp only [Feed.storing, extract_or_en v (show 48 + 8 ≤ 63 by decide), extract_or_en v (show 32 + 16 ≤ 63 by decide),
    extract_or_en v (show 16 + 5 ≤ 63 by decide), extract_or_en v (show 0 + 16 ≤ 63 by decide)]

theorem Feed.storing_and_not_en (f : Feed) (v : Double) :
    f.storing (v &&& BitVec.ofNat 64 (2 ^ 63 - 1)) = f.storing v := by
  simp only [Feed.storing, extract_and_not_en v (show 48 + 8 ≤ 63 by decide),
    extract_and_not_en v (show 32 + 16 ≤ 63 by decide), extract_and_not_en v (show 16 + 5 ≤ 63 by decide),
    extract_and_not_en v (show 0 + 16 ≤ 63 by decide)]

section
variable {c : Chip} {k : Nat}

/-- A whole store to the first double of a stream's block: EN set where it is asked for and may be, else cleared, and with
it HEAD and TAIL where the stream was enabled or EN is written 0 (R342). -/
theorem feedWrite_control (num : k < 32) (v : Double) :
    let g := (c.feed k).storing v
    c.feedWrite k 0 (BitVec.allOnes 64) v =
      if v.getLsbD 63 && c.feedMay k g then c.setFeed k { g with en := true }
      else if (c.feed k).en || !v.getLsbD 63 then c.setFeed k { g with en := false, head := 0, tail := 0 }
      else c.setFeed k { g with en := false } := by
  have whole : (BitVec.allOnes 64).getLsbD 63 = true := by decide
  simp only [Chip.feedWrite, if_neg (Nat.not_le.2 num), extract_full 48 8 (by decide), extract_full 32 16 (by decide),
    extract_full 16 5 (by decide), extract_full 0 16 (by decide), merge_full, whole, Bool.true_and, if_true]
  rfl

/-- Setting EN of a stream that may be enabled. -/
theorem feedWrite_enable (num : k < 32) {v : Double} (may : c.feedMay k ((c.feed k).storing v) = true) :
    c.feedWrite k 0 (BitVec.allOnes 64) (v ||| BitVec.ofNat 64 (2 ^ 63)) =
      c.setFeed k { (c.feed k).storing v with en := true } := by
  have en : (v ||| BitVec.ofNat 64 (2 ^ 63)).getLsbD 63 = true := by simp
  rw [feedWrite_control num, Feed.storing_or_en, en, may, Bool.and_self, if_pos rfl]

/-- Clearing EN returns HEAD and TAIL to 0. -/
theorem feedWrite_disable (num : k < 32) (v : Double) :
    c.feedWrite k 0 (BitVec.allOnes 64) (v &&& BitVec.ofNat 64 (2 ^ 63 - 1)) =
      c.setFeed k { (c.feed k).storing v with en := false, head := 0, tail := 0 } := by
  have en : (v &&& BitVec.ofNat 64 (2 ^ 63 - 1)).getLsbD 63 = false := by simp
  rw [feedWrite_control num, Feed.storing_and_not_en, en, Bool.false_and, if_neg Bool.false_ne_true, Bool.not_false,
    Bool.or_true, if_pos rfl]

/-- The low half at +10h is TAIL. -/
theorem feedWrite_tail (num : k < 32) (t : Word) :
    c.feedWrite k 16 0xFFFFFFFF (t.zeroExtend 64) = c.setFeed k { c.feed k with tail := t } := by
  have full : (0xFFFFFFFF : Double).extractLsb' 0 32 = BitVec.allOnes 32 := by decide
  have low : (t.zeroExtend 64).extractLsb' 0 32 = t := by
    ext j h
    simp [h, show j < 64 by omega]
  simp only [Chip.feedWrite, if_neg (Nat.not_le.2 num), full, low, merge_full]
  rfl

/-- A full ring drops the datagram and counts it. -/
theorem feedLand_of_full (full : ((c.feed k).head.toNat + 1) % 2 ^ (c.feed k).log2Slots.toNat = (c.feed k).tail.toNat)
    (src : BitVec 128) (sp : Half) (data : List Byte) :
    c.feedLand k src sp data = c.setFeed k { c.feed k with dropped := satAdd (c.feed k).dropped 1 } :=
  if_pos full

/-- A ring with room takes the datagram behind its feed header, and the stream signals where COALESCE have gathered. -/
theorem feedLand_of_room (room : ((c.feed k).head.toNat + 1) % 2 ^ (c.feed k).log2Slots.toNat ≠ (c.feed k).tail.toNat)
    (src : BitVec 128) (sp : Half) (data : List Byte) :
    let f := c.feed k
    let landed := (c.hostWrite (f.base.toNat + 16384 * f.head.toNat) (feedHeader src c.sc sp data.length ++ data)).setFeed k
      { f with head := BitVec.ofNat 32 ((f.head.toNat + 1) % 2 ^ f.log2Slots.toNat), received := f.received + 1
               unsignalled := if f.coalesce.toNat ≤ f.unsignalled + 1 then 0 else f.unsignalled + 1 }
    c.feedLand k src sp data =
      if f.coalesce.toNat ≤ f.unsignalled + 1 then landed.raiseVector f.vector.toNat else landed :=
  if_neg room

end

section
variable {s : State} (live : s.Live) {port : Nat} {fr : Frame} {sp up sum : Half} {data : List Byte}
  (takes : s.chip.TakesUdp port fr sp up sum data)
include live takes

/-- A datagram for no enabled stream of its port is unmatched (R336). -/
theorem feedDatagram_of_miss
    (miss : (List.range 32).find? (fun k => k / 16 = port && (s.chip.feed k).en && (s.chip.feed k).udpPort = up) = none) :
    exec (.feedDatagram port fr sp up sum data) s = .next { s with chip := (s.chip.heardFrame port).noMatch port } := by
  have miss' : (List.range 32).find? (fun k => k / 16 = port && ((s.chip.heardFrame port).feed k).en &&
    ((s.chip.heardFrame port).feed k).udpPort = up) = none := miss
  show execFeedDatagram port fr sp up sum data s = _
  exact onChip_to live ((udpIn_of_takesUdp takes _).trans (by simp only [miss']))

/-- A datagram goes to the first enabled stream of its port and UDP port (R342). -/
theorem feedDatagram_of_hit {k : Nat} {d : Chip}
    (hit : (List.range 32).find? (fun k => k / 16 = port && (s.chip.feed k).en && (s.chip.feed k).udpPort = up) = some k)
    (lands : (s.chip.heardFrame port).feedLand k fr.src sp data = d) :
    exec (.feedDatagram port fr sp up sum data) s = .next { s with chip := d } := by
  have hit' : (List.range 32).find? (fun k => k / 16 = port && ((s.chip.heardFrame port).feed k).en &&
    ((s.chip.heardFrame port).feed k).udpPort = up) = some k := hit
  show execFeedDatagram port fr sp up sum data s = _
  exact onChip_to live ((udpIn_of_takesUdp takes _).trans (by simp only [hit', lands]))

end

/-- Settles O10: the two writes of EN and the tail's are branches of the block's store; a datagram goes by the stream it
hits and by the room in its ring; the timer by what is unsignalled. -/
theorem feedStreamsComplete : Obligations.FeedStreamsComplete := by
  intro s live
  refine ⟨fun k v num => ⟨fun may => ?_, ?_⟩, fun k t num => ?_, fun port fr sp up sum data takes =>
    ⟨feedDatagram_of_miss live takes, fun k hit => ⟨fun full => ?_, fun room => ?_⟩⟩, fun k due => ?_, fun k signalled => ?_⟩
  · show execFeedStreamEnable k v s = _
    exact onChip_to live (feedWrite_enable num may)
  · show execFeedStreamDisable k v s = _
    exact onChip_to live (feedWrite_disable num v)
  · show execFeedTailWrite k t s = _
    exact onChip_to live (feedWrite_tail num t)
  · exact feedDatagram_of_hit live takes hit (feedLand_of_full (c := s.chip.heardFrame port) full fr.src sp data)
  · exact feedDatagram_of_hit live takes hit (feedLand_of_room (c := s.chip.heardFrame port) room fr.src sp data)
  · show execFeedInterruptTimer k s = _
    exact onChip_to live (if_neg due)
  · show execFeedInterruptTimer k s = _
    exact onChip_to live (if_pos signalled)

end Sys2Proof.Machine

namespace Sys2Proof.Machine

/-! The SMBus target, the I2C controller and JTAG (R343 to R347, R402, R406). -/

section
variable {s : State} (sound : s.power.broken = false)
include sound

/-- With VAUX running the SMBus target answers. -/
theorem onBus_powered (powered : s.power.inputOk = true) (f : State → Out) :
    onBus s f = .next { s with chip := s.chip.emit (f s) } := by
  rw [onBus, onPins_sound sound, if_pos powered]

/-- Without VAUX nothing answers. -/
theorem onBus_dark (dark : s.power.inputOk = false) (f : State → Out) : onBus s f = .next s := by
  rw [onBus, onPins_sound sound, dark, if_neg Bool.false_ne_true]

/-- A Block Read of a code of the table answers its bytes, with the PEC where one is read. -/
theorem blockRead_powered (powered : s.power.inputOk = true) {code : Nat} {dies : List Half} {bs : List Byte}
    (has : s.blockOf dies code = some bs) (pec : Bool) :
    let answer : Out := .smbus bs (if pec then some (blockPec s.chip.boot.smbusAddr code bs) else none)
    blockRead pec code dies s = .next { s with chip := s.chip.emit answer } := by
  rw [blockRead, onBus_powered sound powered, has]

/-- A Block Read without VAUX meets no answer. -/
theorem blockRead_dark (dark : s.power.inputOk = false) (pec : Bool) (code : Nat) (dies : List Half) :
    blockRead pec code dies s = .next s :=
  onBus_dark sound dark _

/-- A poll of a live bus: the failures of at most four attempts, then the readings where an attempt was left and the bus
still serves (R344, R345). -/
theorem i2cPollTimer_of_live {bus : Nat} (powered : s.power.inputOk = true) (num : bus < 4)
    (serves : s.chip.isRetired 10 bus = false) (faults : List BusFault) (readings : List Half) :
    let c := (faults.take 4).foldl (fun (c : Chip) _ => c.busFault bus) s.chip
    exec (.i2cPollTimer bus faults readings) s = .next (if 4 ≤ faults.length || c.isRetired 10 bus then { s with chip := c }
      else { s with chip := { (c.countBus bus 0 1) with side := (c.countBus bus 0 1).side.poll bus readings } }) := by
  show execI2cPollTimer bus faults readings s = _
  rw [execI2cPollTimer, onPins_sound sound, if_neg (by simp [powered, num, serves])]

/-- A recovery of a live bus keeps it where SDA goes high within three attempts, else retires it (R346). -/
theorem i2cBusRecovery_of_live {bus : Nat} (powered : s.power.inputOk = true) (num : bus < 4)
    (serves : s.chip.isRetired 10 bus = false) (n : Nat) :
    let c := (s.chip.countBus bus 2 (s.chip.freeNow % 2)).drew
    exec (.i2cBusRecovery bus n) s =
      .next { s with chip := if 1 ≤ n && n ≤ 3 then c else c.retire ⟨10, bus⟩ 0 } := by
  intro c
  have gone : c.faultEvent ⟨10, bus⟩ .atOnce = c.retire ⟨10, bus⟩ 0 :=
    faultEvent_of_atOnce (decide_eq_true num) serves rfl
  show execI2cBusRecovery bus n s = _
  rw [← gone, execI2cBusRecovery, onPins_sound sound, if_neg (by simp [powered, num, serves])]

end

/-- Settles O43: the six Block Reads and the alert response by VAUX, a poll by its failures, a recovery by its attempts, and
the JTAG instructions at the pins. -/
theorem sidebandComplete : Obligations.SidebandComplete := by
  intro s sound
  refine ⟨fun powered => ⟨fun pec dies => ?_, fun low => ?_, fun high => ?_, fun bus faults readings num serves => ?_,
    fun bus n num serves => ?_⟩, fun dark pec dies => ?_, ?_, ?_, ?_, ?_, ?_, fun code shut => ?_⟩
  · refine ⟨?_, ?_, ?_, ?_, ?_, ?_⟩
    · exact blockRead_powered sound powered (code := 0) (dies := []) rfl pec
    · exact blockRead_powered sound powered (code := 1) (dies := []) rfl pec
    · exact blockRead_powered sound powered (code := 2) (dies := []) rfl pec
    · exact blockRead_powered sound powered (code := 3) (dies := dies) rfl pec
    · exact blockRead_powered sound powered (code := 4) (dies := []) rfl pec
    · exact blockRead_powered sound powered (code := 5) (dies := []) rfl pec
  · show execAlertResponseAddressRead s = _
    rw [execAlertResponseAddressRead, onBus_powered sound powered, if_pos low]
  · show execAlertResponseAddressRead s = _
    rw [execAlertResponseAddressRead, onBus_powered sound powered, high, if_neg Bool.false_ne_true]
  · intro c
    have polls : exec (.i2cPollTimer bus faults readings) s = .next (if 4 ≤ faults.length || c.isRetired 10 bus then _ else _) :=
      i2cPollTimer_of_live sound powered num serves faults readings
    refine ⟨fun lost => polls.trans (congrArg _ (if_pos ?_)), fun left lives => polls.trans (congrArg _ (if_neg ?_))⟩
    · simpa using lost
    · simpa using And.intro left lives
  · have tries := i2cBusRecovery_of_live sound powered num serves n
    refine ⟨fun freed => ?_, fun stuck => ?_⟩
    · rw [tries, if_pos (by simp; omega)]
    · rw [tries, if_neg (by simp; omega)]
  · refine ⟨?_, ?_, ?_, ?_, ?_, ?_, ?_⟩
    · exact blockRead_dark sound dark pec 0 []
    · exact blockRead_dark sound dark pec 1 []
    · exact blockRead_dark sound dark pec 2 []
    · exact blockRead_dark sound dark pec 3 dies
    · exact blockRead_dark sound dark pec 4 []
    · exact blockRead_dark sound dark pec 5 []
    · show execAlertResponseAddressRead s = _
      exact onBus_dark sound dark _
  · exact onPins_sound sound (fun s => s.jtag .bypass false)
  · show execIdcode s = _
    exact onPins_sound sound _
  · exact onPins_sound sound (fun s => s.jtag .samplePreload false)
  · exact onPins_sound sound (fun s => s.jtag .extest s.held)
  · exact onPins_sound sound (fun s => s.jtag .clamp s.held)
  · show execJtagDebugInstruction code s = _
    rw [execJtagDebugInstruction, sound, shut, if_neg Bool.false_ne_true, if_neg Bool.false_ne_true]

end Sys2Proof.Machine

namespace Sys2Proof.Machine

/-! Frames at an Ethernet port (R335 to R337, R379). -/

/-- The length of a frame with n bytes above its Ethernet header, from its destination address to its check sequence (log
82). -/
def frameLength (vlan : Option Nat) (n : Nat) : Nat := 18 + (if vlan.isSome then 4 else 0) + n

/-! Counting a frame leaves the port's addresses alone. -/

@[simp] theorem Chip.heardFrame_ipv4 (c : Chip) (port : Nat) : (c.heardFrame port).ipv4 port = c.ipv4 port := rfl
@[simp] theorem Chip.heardFrame_ipv6 (c : Chip) (port : Nat) : (c.heardFrame port).ipv6 port = c.ipv6 port := rfl
@[simp] theorem Chip.heardFrame_ownAddr (c : Chip) (port : Nat) (a : BitVec 128) :
    (c.heardFrame port).ownAddr port a = c.ownAddr port a := rfl

theorem length_leBytes (n v : Nat) : (leBytes n v).length = n := by
  induction n generalizing v with
  | zero => rfl
  | succ n ih => rw [leBytes, List.length_cons, ih]

/-- The model's test for a port that is not up. -/
theorem notUp_iff (c : Chip) (port : Nat) :
    (2 ≤ port || !c.ethUp port) = true ↔ ¬ (port < 2 ∧ c.ethUp port = true) := by
  rw [Bool.or_eq_true, decide_eq_true_iff, Bool.not_eq_true', Decidable.not_and_iff_not_or_not, Nat.not_lt,
    Bool.not_eq_true]

/-- A port that is not up drops every frame (R337). -/
theorem frame_of_down {c : Chip} {port : Nat} (down : ¬ (port < 2 ∧ c.ethUp port = true)) (vlan : Option Nat) (n : Nat)
    (k : Chip → Chip) : c.frame port vlan n k = c :=
  if_pos ((notUp_iff c port).2 down)

/-- A port that is up counts a frame; then an oversize one is malformed, one without the port's VLAN matches nothing, and
any other goes on (R335, R336, R379). -/
theorem frame_of_up {c : Chip} {port : Nat} (up : port < 2 ∧ c.ethUp port = true) (vlan : Option Nat) (n : Nat)
    (k : Chip → Chip) :
    let h := c.heardFrame port
    c.frame port vlan n k =
      if 9216 < frameLength vlan n then h.malformed port else if vlan ≠ c.vlan port then h.noMatch port else k h :=
  if_neg (mt (notUp_iff c port).1 (not_not_intro up))

section
variable {s : State} {port : Nat} (live : s.Live)
include live

/-- A row of frames at a port that is down changes nothing. -/
theorem onChip_frame_of_down (down : ¬ (port < 2 ∧ s.chip.ethUp port = true)) {vlan : Option Nat} {n : Nat}
    {k : Chip → Chip} : onChip s (fun c => c.frame port vlan n k) = .next s :=
  onChip_to live (frame_of_down down vlan n k)

/-- A row of frames at a port that is up: what is neither oversize nor of another VLAN comes to `good`. -/
theorem onChip_frame_of_up (up : port < 2 ∧ s.chip.ethUp port = true) {vlan : Option Nat} {n : Nat} {k : Chip → Chip}
    {good : State} (e : frameLength vlan n ≤ 9216 → vlan = s.chip.vlan port →
      { s with chip := k (s.chip.heardFrame port) } = good) :
    let h := s.chip.heardFrame port
    onChip s (fun c => c.frame port vlan n k) = .next (
      if 9216 < frameLength vlan n then { s with chip := h.malformed port }
      else if vlan ≠ s.chip.vlan port then { s with chip := h.noMatch port } else good) := by
  intro h
  rw [onChip_live live, frame_of_up up]
  by_cases big : 9216 < frameLength vlan n
  · rw [if_pos big, if_pos big]
  · rw [if_neg big, if_neg big]
    by_cases other : vlan ≠ s.chip.vlan port
    · rw [if_pos other, if_pos other]
    · rw [if_neg other, if_neg other, e (Nat.not_lt.1 big) (Decidable.not_not.1 other)]

/-- A UDP datagram that a port which is up does not take: one not oversize and of the port's VLAN is for another MAC or IP
address, or its checksum is wrong (R335, R336). -/
theorem onChip_udpIn_of_untaken (up : port < 2 ∧ s.chip.ethUp port = true) {f : Frame} {sp dp sum : Half}
    {data : List Byte} {m : Nat} (length : data.length = m) (untaken : ¬ s.chip.TakesUdp port f sp dp sum data) (k : Chip → Chip) :
    let h := s.chip.heardFrame port
    let n := (if isV4 f.dst then 28 else 48) + m
    onChip s (fun c => c.udpIn port f sp dp sum data k) = .next (
      if 9216 < frameLength f.vlan n then { s with chip := h.malformed port }
      else if f.vlan ≠ s.chip.vlan port then { s with chip := h.noMatch port }
      else if f.mac ≠ Config.mac port ∨ s.chip.ownAddr port f.dst = false then { s with chip := h.noMatch port }
      else { s with chip := h.malformed port }) := by
  intro h n
  subst length
  refine onChip_frame_of_up live up fun fits inVlan => ?_
  rw [Chip.heardFrame_ownAddr]
  by_cases away : f.mac ≠ Config.mac port ∨ s.chip.ownAddr port f.dst = false
  · rw [if_pos (by simpa using away), if_pos away]
  · obtain ⟨mac, own⟩ : f.mac = Config.mac port ∧ s.chip.ownAddr port f.dst = true := by simpa using away
    have wrong : ¬ (sum = udpSum f.src f.dst sp dp data ∨ (isV4 f.dst = true ∧ sum = 0)) :=
      fun right => untaken ⟨⟨up.1, up.2, fits, inVlan⟩, mac, own, right⟩
    obtain ⟨differs, summed⟩ := not_or.1 wrong
    have unsummed : (sum ≠ udpSum f.src f.dst sp dp data && !(isV4 f.dst && sum = 0)) = true := by
      rw [Bool.and_eq_true, decide_eq_true_iff, Bool.not_eq_true', ← Bool.not_eq_true, Bool.and_eq_true, decide_eq_true_iff]
      exact ⟨differs, summed⟩
    rw [if_neg (by simp [mac, own]), if_neg away, if_pos unsummed]

end

/-- What a frame is answered with, or that it matches nothing, by a test of the chip. -/
theorem chip_ite_eq {s : State} {b : Bool} {P : Prop} [Decidable P] (same : b = true ↔ P) (x y : Chip) :
    ({ s with chip := if b then x else y } : State) = if P then { s with chip := x } else { s with chip := y } := by
  by_cases h : P
  · rw [if_pos h, if_pos (same.2 h)]
  · rw [if_neg h, if_neg (mt same.1 h)]

/-- An address is a port's own where it is its IPv6 address or its mapped IPv4 address (R336). -/
theorem ownAddr_iff (c : Chip) (port : Nat) (a : BitVec 128) :
    c.ownAddr port a = true ↔ (a ≠ 0 ∧ a = c.ipv6 port) ∨ (c.ipv4 port ≠ 0 ∧ a = mapped (c.ipv4 port)) := by
  simp [Chip.ownAddr]

/-- Settles O44: at a port that is up each row is its frame's checks and then its own test; at one that is down each does
nothing. -/
theorem framesComplete : Obligations.FramesComplete := by
  intro s port live
  refine ⟨fun up => ⟨fun vlan target sender mac => ?_, fun vlan target sender mac => ?_, fun f body => ?_, ?_, ?_,
    fun f sp dp sum data untaken => ?_, fun f sp sum hdr seg untaken => ?_⟩,
    fun down => ⟨fun vlan target sender mac => ?_, fun vlan target sender mac => ?_, fun f body => ?_, fun m => ?_,
    fun f sp dp sum data => ?_, fun f sp sum hdr seg => ?_⟩⟩
  · show execArpRequest port vlan target sender mac s = _
    exact onChip_frame_of_up live up fun _ _ => chip_ite_eq (by
      rw [Bool.and_eq_true, decide_eq_true_iff, decide_eq_true_iff, Chip.heardFrame_ipv4]) _ _
  · show execNeighborSolicitation port vlan target sender mac s = _
    exact onChip_frame_of_up live up fun _ _ => chip_ite_eq (by
      rw [Bool.and_eq_true, decide_eq_true_iff, decide_eq_true_iff, Chip.heardFrame_ipv6]) _ _
  · show execEchoRequest port f body s = _
    exact onChip_frame_of_up live up fun _ _ => chip_ite_eq (by simp [ownAddr_iff]) _ _
  · show execUnmatchedFrame port false s = _
    exact onChip_to live (if_neg (mt (notUp_iff _ _).1 (not_not_intro up)))
  · show execUnmatchedFrame port true s = _
    exact onChip_to live (if_neg (mt (notUp_iff _ _).1 (not_not_intro up)))
  · show execFeedDatagram port f sp dp sum data s = _
    exact onChip_udpIn_of_untaken live up rfl untaken _
  · have length : (leBytes 16 hdr.toNat ++ seg).length = 16 + seg.length := by rw [List.length_append, length_leBytes]
    show execUdpSegment port f sp sum hdr seg s = _
    exact onChip_udpIn_of_untaken live up length untaken _
  · show execArpRequest port vlan target sender mac s = _
    exact onChip_frame_of_down live down
  · show execNeighborSolicitation port vlan target sender mac s = _
    exact onChip_frame_of_down live down
  · show execEchoRequest port f body s = _
    exact onChip_frame_of_down live down
  · show execUnmatchedFrame port m s = _
    exact onChip_to live (if_pos ((notUp_iff _ _).2 down))
  · show execFeedDatagram port f sp dp sum data s = _
    exact onChip_frame_of_down live down
  · show execUdpSegment port f sp sum hdr seg s = _
    exact onChip_frame_of_down live down

end Sys2Proof.Machine

namespace Sys2Proof.Machine

/-! Commands that act on the chip alone (R390, R393 to R395, R399, R402, R406). -/

/-- What a command that leaves the supply alone answers: the fault of a lost supply (R399), or, on any other, a change of
the chip or a refusal. -/
inductive State.ActsOnChip (s : State) : Host.Outcome State Fault Refusal → Prop
  | fault (lost : s.power.broken = true) : s.ActsOnChip (.fault .supplyUndefined)
  | next (sound : s.power.broken = false) (c : Chip) : s.ActsOnChip (.next { s with chip := c })
  | refused (sound : s.power.broken = false) (r : Refusal) : s.ActsOnChip (.refused r)

section
variable {s t : State} {o : Host.Outcome State Fault Refusal}

theorem State.ActsOnChip.power_eq (h : s.ActsOnChip o) (n : o = .next t) : t.power = s.power := by
  cases h with
  | next => cases n; rfl
  | fault => cases n
  | refused => cases n

theorem State.ActsOnChip.eq_fault (h : s.ActsOnChip o) (lost : s.power.broken = true) : o = .fault .supplyUndefined := by
  cases h with
  | fault => rfl
  | next sound => exact absurd lost (by simp [sound])
  | refused sound => exact absurd lost (by simp [sound])

end

theorem onPins_broken {s : State} (lost : s.power.broken = true) (f : State → State) :
    onPins s f = .fault .supplyUndefined := if_pos lost

theorem onChip_actsOnChip (s : State) (f : Chip → Chip) : s.ActsOnChip (onChip s f) := by
  cases sound : s.power.broken with
  | true => rw [onChip_broken sound]; exact .fault sound
  | false =>
    by_cases on : s.power.phase = .running
    · rw [onChip_live ⟨sound, on⟩]; exact .next sound _
    · rw [onChip_idle sound on]; exact .next sound s.chip

theorem icp_actsOnChip (s : State) (op : Byte) (p : Icp) (f : Chip → Icp → Verdict) : s.ActsOnChip (icp op p s f) :=
  onChip_actsOnChip s _

/-- A meaning at the pins that changes the chip alone. -/
theorem onPins_actsOnChip (s : State) {f : State → State} (alone : ∃ c, f s = { s with chip := c }) :
    s.ActsOnChip (onPins s f) := by
  cases sound : s.power.broken with
  | true => rw [onPins_broken sound]; exact .fault sound
  | false =>
    obtain ⟨c, only⟩ := alone
    rw [onPins_sound sound, only]
    exact .next sound c

theorem onBus_actsOnChip (s : State) (f : State → Out) : s.ActsOnChip (onBus s f) := by
  refine onPins_actsOnChip s ?_
  split
  · exact ⟨_, rfl⟩
  · exact ⟨s.chip, rfl⟩

theorem blockRead_actsOnChip (s : State) (pec : Bool) (code : Nat) (dies : List Half) :
    s.ActsOnChip (blockRead pec code dies s) :=
  onBus_actsOnChip s _

theorem i2cPollTimer_actsOnChip (s : State) (bus : Nat) (faults : List BusFault) (readings : List Half) :
    s.ActsOnChip (execI2cPollTimer bus faults readings s) := by
  refine onPins_actsOnChip s ?_
  dsimp only
  split
  · exact ⟨s.chip, rfl⟩
  · split
    · exact ⟨_, rfl⟩
    · exact ⟨_, rfl⟩

theorem i2cBusRecovery_actsOnChip (s : State) (bus n : Nat) : s.ActsOnChip (execI2cBusRecovery bus n s) := by
  refine onPins_actsOnChip s ?_
  split
  · exact ⟨s.chip, rfl⟩
  · exact ⟨_, rfl⟩

theorem jtagDebugInstruction_actsOnChip (s : State) (code : Nat) : s.ActsOnChip (execJtagDebugInstruction code s) := by
  cases sound : s.power.broken with
  | true => rw [execJtagDebugInstruction, if_pos sound]; exact .fault sound
  | false =>
    rw [execJtagDebugInstruction, if_neg (by simp [sound])]
    split
    · exact .refused sound _
    · exact .next sound _

/-- Every command but those of the supply, the boot and the resets acts on the chip alone: at the pins those of the sideband
and JTAG, behind the supply all others. -/
theorem exec_actsOnChip {i : Instr} (s : State) (h : i.movesSupply = false) : s.ActsOnChip (exec i s) := by
  cases i with
  | powerInputInRange | inputLeavesRange | pwrOkRise | pwrOkFall | coldHoldAssert | coldHoldRelease | thermalStop
  | thermalRecover | coldBoot | iboonReadyTimeout | moduleResetWarm | moduleResetCold => cases h
  | identity | serial | status | temps | power | rails => unfold exec; exact blockRead_actsOnChip s _ _ _
  | alertResponseAddressRead => unfold exec; exact onBus_actsOnChip s _
  | i2cPollTimer bus faults readings => exact i2cPollTimer_actsOnChip s bus faults readings
  | i2cBusRecovery bus n => exact i2cBusRecovery_actsOnChip s bus n
  | bypass | idcode | samplePreload | extest | clamp => unfold exec; exact onPins_actsOnChip s ⟨_, rfl⟩
  | jtagDebugInstruction code => exact jtagDebugInstruction_actsOnChip s code
  | nop | openSession | closeSession | identify | readReg | writeReg | keyAgree | attest | queueCreate | queueDelete
  | queueFlush | noticeAck | instanceCreate | instanceModify | instanceReset | instanceDestroy | quotaSet | guaranteeSet
  | alloc | free | write | read | migrate | pin | unpin | fence | tableCreate | tableModify | tableDestroy | tableLoad
  | hotSet | jobStart | jobEnd | launch | stepClose | publish | releaseSnapshot | hostSignalTile | hostSignalHub
  | hostSignalWait | hostSignalRead | bruinSetJob | bruinSetRegister | bruinSetChange | bruinSetRemove | bruinSetStatus
  | groupSet | groupClear | unitDisable | unitEnable | unitRetire | countersRead | debugOpen | debugClose | configRead
  | configWrite | configCommit => exact icp_actsOnChip s _ _ _
  | _ => unfold exec; exact onChip_actsOnChip s _

/-- Settles O48: such a command acts on the chip alone. -/
theorem onlySupplyCommandsMoveTheSupply : Obligations.OnlySupplyCommandsMoveTheSupply :=
  fun _ s _ other => (exec_actsOnChip s other).power_eq

end Sys2Proof.Machine

namespace Sys2Proof.Machine

/-! What a command can do to the supply (R390, R393, R395, R399, R402, R406). -/

/-- The supply of a module in cold reset with its rails on, to boot with this cause. -/
def Power.held (p : Power) (cause : BitVec 4) : Power :=
  { p with phase := .coldReset, rails := 0xFF, cause := cause, otherCopy := false }

/-- The supply with rails 6 to 0 off. -/
def Power.cut (p : Power) : Power :=
  { p with phase := .off, rails := p.rails &&& 0x80, cause := 0, otherCopy := false }

/-- The moves of the supply: `p.Moves i q` where command `i` can take supply `p` to `q`. -/
inductive Power.Moves (p : Power) : Instr → Power → Prop
  | stays (i : Instr) : p.Moves i p
  | inputIn : p.Moves .powerInputInRange { p with inputOk := true, rails := p.rails ||| 0x80 }
  | inputLost (logicRan : p.broken = true ∨ p.phase ≠ .off) :
      p.Moves .inputLeavesRange { p with inputOk := false, rails := p.rails &&& 0x7F, broken := true }
  | inputOut (off : p.phase = .off) : p.Moves .inputLeavesRange { p with inputOk := false, rails := 0, therm := false }
  | okWaits : p.Moves .pwrOkRise { p with pwrOk := true }
  | okStarts (powered : p.inputOk = true) (cool : p.therm = false) :
      p.Moves .pwrOkRise ({ p with pwrOk := true }.held 0)
  | okFalls : p.Moves .pwrOkFall { p.cut with pwrOk := false }
  | lossEnds (lost : p.broken = true) :
      p.Moves .pwrOkFall { p with broken := false, pwrOk := false, therm := false, phase := .off, cause := 0,
                                  otherCopy := false, rails := if p.inputOk then 0x80 else 0 }
  | holdWaits (idle : p.phase ≠ .running) : p.Moves .coldHoldAssert { p with coldHold := true }
  | holdResets (on : p.phase = .running) : p.Moves .coldHoldAssert ({ p with coldHold := true }.held 0)
  | holdEnds : p.Moves .coldHoldRelease { p with coldHold := false }
  | overheats (powered : p.inputOk = true) (k : Nat) (r : Half) : p.Moves (.thermalStop k r) { p.cut with therm := true }
  | cools : p.Moves .thermalRecover { p with therm := false }
  | coolsToBoot (hot : p.therm = true) (ok : p.pwrOk = true) :
      p.Moves .thermalRecover ({ p with therm := false }.held 3)
  | boots (waits : p.phase = .coldReset) (up : p.coldHold = false) (ds : List CxlDevice) :
      p.Moves (.coldBoot ds) { p with phase := .running, otherCopy := false }
  | takesOther : p.Moves .iboonReadyTimeout { p with otherCopy := true }
  | resets (on : p.phase = .running) (i : Instr) : p.Moves i (p.held 1)

theorem onPins_eq_next {s t : State} {f : State → State} (h : onPins s f = .next t) : f s = t := by
  cases sound : s.power.broken with
  | true => rw [onPins_broken sound] at h; cases h
  | false => rw [onPins_sound sound] at h; exact Host.Outcome.next.inj h

section
variable {s t : State}

theorem inputLeavesRange_moves (h : execInputLeavesRange s = .next t) : s.power.Moves .inputLeavesRange t.power := by
  unfold execInputLeavesRange at h
  split at h
  next logicRan => cases h; exact .inputLost (by simpa using logicRan)
  next quiet => cases h; exact .inputOut (by simp at quiet; exact quiet.2)

theorem pwrOkRise_moves (h : execPwrOkRise s = .next t) : s.power.Moves .pwrOkRise t.power := by
  obtain rfl := onPins_eq_next h
  dsimp only
  split
  · exact .stays _
  · split
    next starts =>
      obtain ⟨powered, cool⟩ := Bool.and_eq_true_iff.1 starts
      exact .okStarts powered (by simpa using cool)
    · exact .okWaits

theorem pwrOkFall_moves (h : execPwrOkFall s = .next t) : s.power.Moves .pwrOkFall t.power := by
  unfold execPwrOkFall at h
  split at h
  next lost => cases h; exact .lossEnds lost
  next => cases h; exact .okFalls

theorem coldHoldAssert_moves (h : execColdHoldAssert s = .next t) : s.power.Moves .coldHoldAssert t.power := by
  obtain rfl := onPins_eq_next h
  dsimp only
  split
  next on => exact .holdResets on
  next idle => exact .holdWaits idle

theorem coldHoldRelease_moves (h : execColdHoldRelease s = .next t) : s.power.Moves .coldHoldRelease t.power := by
  obtain rfl := onPins_eq_next h
  exact .holdEnds

theorem thermalStop_moves {k : Nat} {r : Half} (h : execThermalStop k r s = .next t) :
    s.power.Moves (.thermalStop k r) t.power := by
  obtain rfl := onPins_eq_next h
  split
  · exact .stays _
  next hot => exact .overheats (by simp at hot; exact hot.1) k r

theorem thermalRecover_moves (h : execThermalRecover s = .next t) : s.power.Moves .thermalRecover t.power := by
  obtain rfl := onPins_eq_next h
  dsimp only
  split
  · exact .stays _
  next hot =>
    split
    next ok => exact .coolsToBoot (by simpa using hot) ok
    · exact .cools

theorem coldBoot_moves {ds : List CxlDevice} (h : execColdBoot ds s = .next t) : s.power.Moves (.coldBoot ds) t.power := by
  obtain rfl := onPins_eq_next h
  dsimp only
  split
  next free =>
    obtain ⟨waits, up⟩ := Bool.and_eq_true_iff.1 free
    exact .boots (of_decide_eq_true waits) (by simpa using up) ds
  · exact .stays _

theorem iboonReadyTimeout_moves (h : execIboonReadyTimeout s = .next t) : s.power.Moves .iboonReadyTimeout t.power := by
  obtain rfl := onPins_eq_next h
  dsimp only
  split
  · exact .stays _
  · split
    · exact .stays _
    · exact .takesOther
    · split
      · exact .stays _
      · exact .stays _

theorem moduleResetRow_moves {p : Icp} (h : moduleResetRow p s = .next t) (i : Instr) : s.power.Moves i t.power := by
  obtain rfl := onPins_eq_next h
  split
  next on =>
    rw [State.moduleReset]
    split
    · exact .resets on i
    · exact .stays i
  · exact .stays i

end

/-- All that a command can do to the supply. -/
theorem exec_moves {i : Instr} {s t : State} (h : exec i s = .next t) : s.power.Moves i t.power := by
  cases i with
  | powerInputInRange =>
    obtain rfl := Host.Outcome.next.inj h
    exact .inputIn
  | inputLeavesRange => exact inputLeavesRange_moves h
  | pwrOkRise => exact pwrOkRise_moves h
  | pwrOkFall => exact pwrOkFall_moves h
  | coldHoldAssert => exact coldHoldAssert_moves h
  | coldHoldRelease => exact coldHoldRelease_moves h
  | thermalStop k r => exact thermalStop_moves h
  | thermalRecover => exact thermalRecover_moves h
  | coldBoot ds => exact coldBoot_moves h
  | iboonReadyTimeout => exact iboonReadyTimeout_moves h
  | moduleResetWarm p | moduleResetCold p => exact moduleResetRow_moves h _
  | _ => rw [(exec_actsOnChip s rfl).power_eq h]; exact .stays _

end Sys2Proof.Machine

namespace Sys2Proof.Machine

/-! A sound supply (R395, R399, R402, R406) and its moves. -/

theorem rails_or_vaux (r : Byte) : (r ||| 0x80) &&& 0x7F = r &&& 0x7F := by
  have apart : (0x80 : Byte) &&& 0x7F = 0 := by decide
  rw [BitVec.and_or_distrib_right, apart]
  exact BitVec.or_zero

/-- VAUX by itself: on exactly with the input range. -/
theorem vaux_alone (b : Bool) :
    (if b then 0x80 else 0 : Byte).getLsbD 7 = b ∧ (if b then 0x80 else 0 : Byte) &&& 0x7F = 0 := by
  cases b with
  | true => decide
  | false => decide

section
variable {p q : Power}

theorem Power.Sound.of_off (off : p.phase = .off) (vaux : p.rails.getLsbD 7 = p.inputOk)
    (dark : p.rails &&& 0x7F = 0) (stop : p.therm = true → p.inputOk = true) : p.Sound := by
  have idle : p.phase ≠ .running := by simp [off]
  exact .inr ⟨vaux, fun _ => dark, fun on => absurd off on, fun on => absurd on idle, stop⟩

/-- VAUX stays as it is beside rails 6 to 0 going off. -/
theorem Power.Sound.of_cut (off : q.phase = .off) (rails : q.rails = p.rails &&& 0x80)
    (vaux : p.rails.getLsbD 7 = q.inputOk) (stop : q.therm = true → q.inputOk = true) : q.Sound := by
  refine .of_off off ?_ ?_ stop
  · simpa [rails] using vaux
  · rw [rails, BitVec.and_assoc]
    exact BitVec.and_zero

theorem Power.Sound.of_coldReset (waits : p.phase = .coldReset) (rails : p.rails = 0xFF) (ok : p.pwrOk = true)
    (powered : p.inputOk = true) (cool : p.therm = false) : p.Sound := by
  have vaux : p.rails.getLsbD 7 = true := by rw [rails]; decide
  have lit : p.rails &&& 0x7F = 0x7F := by rw [rails]; decide
  exact .inr ⟨vaux.trans powered.symm, fun off => by simp [waits] at off, fun _ => ⟨lit, ok, powered, cool⟩,
    fun on => by simp [waits] at on, fun _ => powered⟩

/-- A command leaves a lost supply lost, or ends the loss. -/
theorem Power.Moves.sound_of_lost {i : Instr} (h : p.Moves i q) (lost : p.broken = true) : q.Sound := by
  cases h with
  | lossEnds => exact .of_off rfl (vaux_alone _).1 (vaux_alone _).2 nofun
  | inputLost => exact .inl rfl
  | _ => exact .inl lost

theorem Power.Moves.sound {i : Instr} (h : p.Moves i q) (sound : p.Sound) : q.Sound := by
  obtain lost | ⟨vaux, dark, lit, free, stop⟩ := sound
  · exact h.sound_of_lost lost
  cases h with
  | stays | takesOther => exact .inr ⟨vaux, dark, lit, free, stop⟩
  | inputIn =>
    refine .inr ⟨by simp, fun off => (rails_or_vaux _).trans (dark off), fun on => ?_, free, fun _ => rfl⟩
    obtain ⟨rails, ok, -, cool⟩ := lit on
    exact ⟨(rails_or_vaux _).trans rails, ok, rfl, cool⟩
  | inputLost => exact .inl rfl
  | inputOut off => exact .of_off off BitVec.getLsbD_zero BitVec.zero_and nofun
  | okWaits =>
    refine .inr ⟨vaux, dark, fun on => ?_, free, stop⟩
    obtain ⟨rails, -, powered, cool⟩ := lit on
    exact ⟨rails, rfl, powered, cool⟩
  | okStarts powered cool => exact .of_coldReset rfl rfl rfl powered cool
  | okFalls => exact .of_cut rfl rfl vaux stop
  | lossEnds => exact .of_off rfl (vaux_alone _).1 (vaux_alone _).2 nofun
  | holdWaits idle => exact .inr ⟨vaux, dark, lit, fun on => absurd on idle, stop⟩
  | holdResets on =>
    obtain ⟨-, ok, powered, cool⟩ := lit (by simp [on])
    exact .of_coldReset rfl rfl ok powered cool
  | holdEnds => exact .inr ⟨vaux, dark, lit, fun _ => rfl, stop⟩
  | overheats powered => exact .of_cut rfl rfl vaux fun _ => powered
  | cools =>
    refine .inr ⟨vaux, dark, fun on => ?_, free, nofun⟩
    obtain ⟨rails, ok, powered, -⟩ := lit on
    exact ⟨rails, ok, powered, rfl⟩
  | coolsToBoot hot ok => exact .of_coldReset rfl rfl ok (stop hot) rfl
  | boots waits up => exact .inr ⟨vaux, nofun, fun _ => lit (by simp [waits]), fun _ => up, stop⟩
  | resets on =>
    obtain ⟨-, ok, powered, cool⟩ := lit (by simp [on])
    exact .of_coldReset rfl rfl ok powered cool

theorem Power.Moves.boot_of_running {i : Instr} (h : p.Moves i q) (idle : p.phase ≠ .running) (on : q.phase = .running) :
    (∃ ds, i = .coldBoot ds) ∧ p.phase = .coldReset ∧ p.coldHold = false := by
  cases h with
  | boots waits up ds => exact ⟨⟨ds, rfl⟩, waits, up⟩
  | okStarts | okFalls | lossEnds | holdResets | overheats | coolsToBoot | resets => cases on
  | _ => exact absurd on idle

end

/-- Settles O2: with an empty queue the step takes nothing. -/
theorem emptyQueueIdles : Obligations.EmptyQueueIdles := by
  intro s empty
  rw [step, empty]

/-- All that a step can do: nothing with an empty queue, else the command at the front on the queue's rest. -/
theorem step_eq_next {s t : State} (h : step s = .next t) :
    t = s ∨ ∃ i rest, exec i { s with pending := rest } = .next t := by
  cases waits : s.pending with
  | nil =>
    rw [emptyQueueIdles s waits] at h
    exact .inl (Host.Outcome.next.inj h).symm
  | cons i rest =>
    rw [step, waits] at h
    exact .inr ⟨i, rest, h⟩

/-- Settles O46: a step carries out one command or none, and every move of the supply keeps it sound. -/
theorem supplyStaysSound : Obligations.SupplyStaysSound := by
  intro s t sound h
  obtain rfl | ⟨i, rest, carried⟩ := step_eq_next h
  · exact sound
  · exact (exec_moves carried).sound sound

/-- Settles O49: of the moves of the supply only the boot's ends in the running phase. -/
theorem onlyTheBootStartsTheModule : Obligations.OnlyTheBootStartsTheModule :=
  fun _ _ _ idle h on => (exec_moves h).boot_of_running idle on

end Sys2Proof.Machine

namespace Sys2Proof.Machine

/-! The commands of the supply, of COLD_HOLD# and of the thermal stop (R393, R395, R399, R402, R406). -/

theorem onPins_to {s t : State} (sound : s.power.broken = false) {f : State → State} (e : f s = t) :
    onPins s f = .next t := by
  rw [onPins_sound sound, e]

/-- The sensors after a recovery: one that read 95 °C or more has a free value below it (R395, log 64). -/
def cooled (n : Nat) (temps : List Half) : List Half :=
  temps.map (fun t => if 760 ≤ t.toInt then BitVec.ofNat 16 (Config.freeNat n % 760) else t)

theorem toInt_ofNat_mod_lt (n : Nat) : (BitVec.ofNat 16 (n % 760)).toInt < 760 := by
  have small : n % 760 < 760 := Nat.mod_lt _ (by decide)
  have value : (BitVec.ofNat 16 (n % 760)).toNat = n % 760 := by rw [BitVec.toNat_ofNat]; omega
  rw [BitVec.toInt_eq_toNat_of_lt (by omega), value]
  omega

theorem cooled_of_getElem? {temps : List Half} {k : Nat} {r : Half} (has : temps[k]? = some r) (n : Nat) :
    ∃ v : Half, (cooled n temps)[k]? = some v ∧ v.toInt < 760 ∧ (r.toInt < 760 → v = r) := by
  have there : (cooled n temps)[k]? = some (if 760 ≤ r.toInt then BitVec.ofNat 16 (Config.freeNat n % 760) else r) := by
    rw [cooled, List.getElem?_map, has]; rfl
  by_cases hot : 760 ≤ r.toInt
  · rw [if_pos hot] at there
    exact ⟨_, there, toInt_ofNat_mod_lt _, fun cool => absurd hot (by omega)⟩
  · rw [if_neg hot] at there
    exact ⟨r, there, by omega, fun _ => rfl⟩

/-- Settles O3: each command at the pins of a supply that was never lost, by the branch that its pins take. -/
theorem supplyCommandsComplete : Obligations.SupplyCommandsComplete := by
  intro s sound
  refine ⟨rfl, fun off => ?_, fun on => ?_, fun ok => ?_, fun low powered cool => ?_, fun low waits => ?_, ?_, fun on => ?_,
    fun idle => ?_, ?_, fun k r powered hot => ?_, fun k r stays => ?_, fun cool => ?_,
    fun hot => ⟨cooled s.chip.freeCount s.chip.side.temps, fun k r has => cooled_of_getElem? has _, fun low => ?_, fun ok => ?_⟩⟩
  · show execInputLeavesRange s = _
    exact if_neg (by simp [sound, off])
  · show execInputLeavesRange s = _
    exact if_pos (by simp [on])
  · show execPwrOkRise s = _
    exact onPins_to sound (if_pos ok)
  · show execPwrOkRise s = _
    exact onPins_to sound (by simp [low, powered, cool, State.holdReset])
  · show execPwrOkRise s = _
    refine onPins_to sound ?_
    rcases waits with dark | hot
    · simp [low, dark]
    · simp [low, hot]
  · show execPwrOkFall s = _
    exact if_neg (by simp [sound])
  · show execColdHoldAssert s = _
    exact onPins_to sound (if_pos on)
  · show execColdHoldAssert s = _
    exact onPins_to sound (if_neg idle)
  · show execColdHoldRelease s = _
    exact onPins_to sound rfl
  · show execThermalStop k r s = _
    exact onPins_to sound (if_neg (by simp [powered, hot]))
  · show execThermalStop k r s = _
    refine onPins_to sound (if_pos ?_)
    rcases stays with dark | low
    · simp [dark]
    · simp [low]
  · show execThermalRecover s = _
    exact onPins_to sound (if_pos (by simp [cool]))
  · show execThermalRecover s = _
    exact onPins_to sound ((if_neg (by simp [hot])).trans (if_neg (by simp [low])))
  · show execThermalRecover s = _
    exact onPins_to sound ((if_neg (by simp [hot])).trans (if_pos ok))

end Sys2Proof.Machine

namespace Sys2Proof.Machine

/-! A lost supply (R399, log 63). -/

/-- The last clause of O50, which holds: on a lost supply every command but those of the input and the fall of PWR_OK stops
with the fault. -/
theorem exec_of_lost {i : Instr} {s : State} (lost : s.power.broken = true) (notIn : i ≠ .powerInputInRange)
    (notOut : i ≠ .inputLeavesRange) (notFall : i ≠ .pwrOkFall) : exec i s = .fault .supplyUndefined := by
  cases supply : i.movesSupply with
  | false => exact (exec_actsOnChip s supply).eq_fault lost
  | true =>
    cases i with
    | powerInputInRange => exact absurd rfl notIn
    | inputLeavesRange => exact absurd rfl notOut
    | pwrOkFall => exact absurd rfl notFall
    | pwrOkRise | coldHoldAssert | coldHoldRelease | thermalStop | thermalRecover | coldBoot | iboonReadyTimeout
    | moduleResetWarm | moduleResetCold => unfold exec; exact onPins_broken lost _
    | _ => cases supply

/-- The end of a lost supply takes the units out of service that the free store's retire log names (R391), not those of the
store before. -/
theorem retired_of_pwrOkFall_of_lost {s t : State} (lost : s.power.broken = true) (h : exec .pwrOkFall s = .next t) :
    t.chip.retired = (Store.undefinedAt s.chip.freeCount).retired := by
  have fall : execPwrOkFall s = .next t := h
  rw [execPwrOkFall, if_pos lost] at fall
  rw [← Host.Outcome.next.inj fall]
  rfl

/-- A module whose supply was lost while it ran, with this retire log. -/
def lostWith (log : List RetireEntry) : State :=
  { State.reset with
    power := { Power.initial with broken := true, inputOk := false, rails := 0x7F }
    chip := { Chip.initial with store := { Store.initial with retireLog := log } } }

/-- Refutes O50: PWR_OK_FALL takes `retired` from the store that it leaves, where the statement keeps it as the store before
gives it. Two modules that draw the same free store, one without an entry in its retire log and one with link 0 in it, would
then have the same units retired. -/
theorem not_brokenSupplyEndsAtPowerOff : ¬ Obligations.BrokenSupplyEndsAtPowerOff := by
  intro h
  have kept (log : List RetireEntry) :
      (lostWith log).chip.store.retired = (Store.undefinedAt 0).retired := by
    obtain ⟨-, -, ⟨_, fall⟩, -⟩ := h .bypass (lostWith log) rfl
    exact retired_of_pwrOkFall_of_lost rfl fall
  have same := (kept []).trans (kept [⟨⟨0, 0⟩, 0⟩]).symm
  exact absurd same (by decide)

end Sys2Proof.Machine

namespace Sys2Proof.Machine

/-! The queue of waiting commands (R41): the step takes the front, and no command touches the rest. -/

/-- Settles O1: by the definition of the step. -/
theorem frontCommandIsExecuted : Obligations.FrontCommandIsExecuted := fun _ _ _ => rfl

section
variable {s t : State}

theorem State.ActsOnChip.pending_eq {o : Host.Outcome State Fault Refusal} (h : s.ActsOnChip o) (n : o = .next t) :
    t.pending = s.pending := by
  cases h with
  | next => cases n; rfl
  | fault => cases n
  | refused => cases n

/-- A meaning at the pins that leaves the queue alone. -/
theorem onPins_pending {f : State → State} (h : onPins s f = .next t) (keeps : (f s).pending = s.pending) :
    t.pending = s.pending := by
  rw [← onPins_eq_next h, keeps]

theorem ite_pending {P : Prop} [Decidable P] {u v w : State} (hu : u.pending = w.pending) (hv : v.pending = w.pending) :
    (if P then u else v).pending = w.pending := by
  split
  · exact hu
  · exact hv

theorem moduleReset_pending (p : Icp) (s : State) : (s.moduleReset p).pending = s.pending := ite_pending rfl rfl

theorem inputLeavesRange_pending (h : execInputLeavesRange s = .next t) : t.pending = s.pending := by
  unfold execInputLeavesRange at h
  split at h
  · cases h; rfl
  · cases h; rfl

theorem pwrOkFall_pending (h : execPwrOkFall s = .next t) : t.pending = s.pending := by
  unfold execPwrOkFall at h
  split at h
  · cases h; rfl
  · cases h; rfl

theorem pwrOkRise_pending (h : execPwrOkRise s = .next t) : t.pending = s.pending := by
  refine onPins_pending h (ite_pending rfl ?_)
  dsimp only
  split
  · rfl
  · rfl

theorem thermalRecover_pending (h : execThermalRecover s = .next t) : t.pending = s.pending := by
  refine onPins_pending h (ite_pending rfl ?_)
  dsimp only
  split
  · rfl
  · rfl

theorem iboonReadyTimeout_pending (h : execIboonReadyTimeout s = .next t) : t.pending = s.pending := by
  refine onPins_pending h (ite_pending rfl ?_)
  split
  · rfl
  · rfl
  · exact ite_pending rfl rfl

theorem moduleResetRow_pending {p : Icp} (h : moduleResetRow p s = .next t) : t.pending = s.pending :=
  onPins_pending h (ite_pending (moduleReset_pending p s) rfl)

end

/-- Settles O47: a command of the supply, the boot or a reset by its branches, every other acts on the chip alone. -/
theorem noCommandTouchesTheQueue : Obligations.NoCommandTouchesTheQueue := by
  intro i s t h
  cases i with
  | powerInputInRange => cases h; rfl
  | inputLeavesRange => exact inputLeavesRange_pending h
  | pwrOkFall => exact pwrOkFall_pending h
  | pwrOkRise => exact pwrOkRise_pending h
  | coldHoldAssert => exact onPins_pending (show execColdHoldAssert s = _ from h) (ite_pending rfl rfl)
  | coldHoldRelease => exact onPins_pending (show execColdHoldRelease s = _ from h) rfl
  | thermalStop k r => exact onPins_pending (show execThermalStop k r s = _ from h) (ite_pending rfl rfl)
  | thermalRecover => exact thermalRecover_pending h
  | coldBoot ds => exact onPins_pending (show execColdBoot ds s = _ from h) (ite_pending rfl rfl)
  | iboonReadyTimeout => exact iboonReadyTimeout_pending h
  | moduleResetWarm p | moduleResetCold p => exact moduleResetRow_pending h
  | _ => exact (exec_actsOnChip s rfl).pending_eq h

end Sys2Proof.Machine

namespace Sys2Proof.Machine

/-! The flip (R11, R20, R21, R144): what leaves a job alone, and what leaves model space alone. -/

/-- What no step of a fold changes stays as it is. -/
theorem foldl_keeps {α β : Type} (get : Chip → β) {f : Chip → α → Chip} (step : ∀ c a, get (f c a) = get c) (l : List α)
    (c : Chip) : get (l.foldl f c) = get c := by
  induction l generalizing c with
  | nil => rfl
  | cons a l ih => exact (ih _).trans (step c a)

/-- A notice touches the notice queues alone. -/
theorem notify_eq (c : Chip) (is : List Nat) (code subject detail : Nat) :
    ∃ ns, c.notify is code subject detail = { c with notices := ns } := by
  unfold Chip.notify
  suffices step : ∀ d : Chip, (∃ ns, d = { c with notices := ns }) →
      ∃ ns, is.foldl (fun c i => c.noticeInst i code subject detail) d = { c with notices := ns } from step _ ⟨_, rfl⟩
  induction is with
  | nil => exact fun d h => h
  | cons i is ih =>
    rintro _ ⟨ns, rfl⟩
    exact ih _ ⟨_, rfl⟩

section
variable (c : Chip) (is : List Nat) (code subject detail i : Nat)

@[simp] theorem notify_inst : (c.notify is code subject detail).inst i = c.inst i := by
  obtain ⟨_, e⟩ := notify_eq c is code subject detail; rw [e]; rfl

@[simp] theorem notify_job : (c.notify is code subject detail).job i = c.job i :=
  congrArg Inst.job (notify_inst c is code subject detail i)

@[simp] theorem notify_dram : (c.notify is code subject detail).dram = c.dram := by
  obtain ⟨_, e⟩ := notify_eq c is code subject detail; rw [e]

@[simp] theorem notify_poison : (c.notify is code subject detail).poison = c.poison := by
  obtain ⟨_, e⟩ := notify_eq c is code subject detail; rw [e]

end

theorem setGroup_notify_eq (c : Chip) (g : Nat) (v : Group) (is : List Nat) (code subject detail : Nat) :
    ∃ gs ns, (c.setGroup g v).notify is code subject detail = { c with groups := gs, notices := ns } := by
  obtain ⟨ns, e⟩ := notify_eq (c.setGroup g v) is code subject detail
  exact ⟨_, ns, e⟩

/-- Who trailed a collective is kept with its group, and a slow member is told in a notice (R313, R314). -/
theorem trailed_eq (c : Chip) (g : Nat) (es : List (Nat × Nat)) (began : Nat) :
    ∃ gs ns, c.trailed g es began = { c with groups := gs, notices := ns } := by
  unfold Chip.trailed
  split
  · exact ⟨_, _, rfl⟩
  · extract_lets e slow run d
    split
    · split
      · exact setGroup_notify_eq ..
      · exact ⟨_, _, rfl⟩
    · exact ⟨_, _, rfl⟩

section
variable (c : Chip) (g : Nat) (es : List (Nat × Nat)) (began i : Nat)

@[simp] theorem trailed_inst : (c.trailed g es began).inst i = c.inst i := by
  obtain ⟨_, _, e⟩ := trailed_eq c g es began; rw [e]; rfl

@[simp] theorem trailed_job : (c.trailed g es began).job i = c.job i := congrArg Inst.job (trailed_inst c g es began i)

@[simp] theorem trailed_dram : (c.trailed g es began).dram = c.dram := by
  obtain ⟨_, _, e⟩ := trailed_eq c g es began; rw [e]

@[simp] theorem trailed_poison : (c.trailed g es began).poison = c.poison := by
  obtain ⟨_, _, e⟩ := trailed_eq c g es began; rw [e]

end

theorem Chip.SameButReports.job {c d : Chip} (h : c.SameButReports d) (i : Nat) : d.job i = c.job i :=
  congrArg Inst.job (h.inst i)

theorem Chip.SameButReports.dram {c d : Chip} (h : c.SameButReports d) : d.dram = c.dram := by
  obtain ⟨_, _, _, _, _, _, _, rfl⟩ := h; rfl

theorem Chip.SameButReports.poison {c d : Chip} (h : c.SameButReports d) : d.poison = c.poison := by
  obtain ⟨_, _, _, _, _, _, _, rfl⟩ := h; rfl

theorem doneAll_sameButReports (c : Chip) (rs : List Ref) (status value : Nat) :
    c.SameButReports (c.doneAll rs status value) :=
  foldl_sameButReports (fun c r => commandDone_sameButReports c r status value) rs c

/-- A change of an instance that keeps its job keeps every job. -/
theorem onInst_job (c : Chip) (k i : Nat) {f : Inst → Inst} (keeps : (f (c.inst k)).job = (c.inst k).job) :
    (c.onInst k f).job i = c.job i := by
  rw [Chip.onInst_eq, Chip.job]
  by_cases same : k = i
  · subst same; rw [Chip.setInst_inst_self, keeps, Chip.job]
  · rw [Chip.setInst_inst_ne _ _ same, Chip.job]

@[simp] theorem onJob_job_self (c : Chip) (i : Nat) (f : Job → Job) : (c.onJob i f).job i = f (c.job i) := by
  rw [Chip.onJob_eq, Chip.job, Chip.setInst_inst_self, Chip.job]

section
variable (c : Chip) (i k : Nat)

@[simp] theorem onObj_job (a : Nat) (f : Obj → Obj) : (c.onObj i a f).job k = c.job k := onInst_job c i k rfl

@[simp] theorem onObjs_job (f : Obj → Obj) : (c.onObjs i f).job k = c.job k := onInst_job c i k rfl

@[simp] theorem copyCopy_job (o : Obj) (src dst a n : Nat) : (c.copyCopy i o src dst a n).job k = c.job k := rfl

@[simp] theorem copySwap_job (o : Obj) (p q : Nat) : (c.copySwap i o p q).job k = c.job k := rfl

@[simp] theorem swapCarried_job (o : Obj) : (c.swapCarried i o).job k = c.job k := by
  unfold Chip.swapCarried
  rw [copySwap_job]
  exact foldl_keeps (·.job k) (fun c p => copyCopy_job c i k o 0 1 _ _) _ c

theorem publishNow_job (epoch : Nat) : (c.publishNow i epoch).job k = c.job k := by
  unfold Chip.publishNow
  refine (foldl_keeps (·.job k) (fun c o => ?_) _ _).trans ((onInst_job _ i k rfl).trans (onInst_job c i k rfl))
  split
  · rfl
  · split
    · exact (onObj_job ..).trans (copyCopy_job ..)
    · exact onObj_job ..

/-- The slow rule touches no job and no byte of model space (R386). -/
theorem slowTiles_keeps : ((c.slowTiles i).job k, (c.slowTiles i).dram, (c.slowTiles i).poison) = (c.job k, c.dram, c.poison) := by
  unfold Chip.slowTiles
  extract_lets ts ran m step
  refine foldl_keeps (fun c => (c.job k, c.dram, c.poison)) (fun c t => ?_) _ c
  unfold step
  extract_lets u n slow run counted set
  have kept : (set.job k, set.dram, set.poison) = (c.job k, c.dram, c.poison) :=
    congrArg (·, c.dram, c.poison) (show counted.job k = c.job k from onInst_job c i k rfl)
  split
  · rfl
  · split
    · rw [notify_job, notify_dram, notify_poison, kept]
    · exact kept

@[simp] theorem slowTiles_job : (c.slowTiles i).job k = c.job k := (Prod.mk.inj (slowTiles_keeps c i k)).1

@[simp] theorem slowTiles_dram : (c.slowTiles i).dram = c.dram :=
  (Prod.mk.inj (Prod.mk.inj (slowTiles_keeps c i i)).2).1

@[simp] theorem slowTiles_poison : (c.slowTiles i).poison = c.poison :=
  (Prod.mk.inj (Prod.mk.inj (slowTiles_keeps c i i)).2).2

end
/-- A choice between chips of which both have the job `j`. -/
theorem ite_job {P : Prop} [Decidable P] {c d : Chip} {i : Nat} {j : Job} (hc : c.job i = j) (hd : d.job i = j) :
    (if P then c else d).job i = j := by
  split
  · exact hc
  · exact hd

/-- The job after a flip: a new step, its loss scale and clean-step count by the vote (R11, R20, R144). -/
theorem flipTo_job (c : Chip) (i epoch : Nat) :
    let j := c.job i
    (c.flipTo i epoch).job i = { j with
      phase := .compute, skipped := j.voteSet, epoch := epoch, lexp := (lossNext j.voteSet j.lexp j.clean).1,
      clean := (lossNext j.voteSet j.lexp j.clean).2, voteFlag := false, voteSet := false, close := .none, barrier := none,
      publish := j.publish.filter (fun q => q.1 ≠ epoch) } := by
  intro j
  unfold Chip.flipTo
  extract_lets set l swapped done halved cleared published timed moved told answered
  have hswapped : swapped.job i = j :=
    ite_job rfl (foldl_keeps (·.job i) (fun c o => ite_job (swapCarried_job c i i o) rfl) _ c)
  have hcleared : cleared.job i = j := (onObjs_job ..).trans ((onInst_job swapped i i rfl).trans hswapped)
  have hpublished : published.job i = j := by
    unfold published
    split
    · exact ite_job ((publishNow_job ..).trans hcleared) hcleared
    · exact hcleared
  have hmoved : moved.job i = { j with
      phase := .compute, skipped := set, epoch := epoch, lexp := l.1, clean := l.2, voteFlag := false, voteSet := false,
      close := .none, barrier := none, publish := j.publish.filter (fun q => q.1 ≠ epoch) } := by
    unfold moved
    rw [onJob_job_self, show timed.job i = j from (slowTiles_job ..).trans hpublished]
  have htold : told.job i = moved.job i := ite_job (notify_job ..) rfl
  have hanswered : answered.job i = moved.job i := by
    unfold answered
    split
    · exact ite_job (((commandDone_sameButReports ..).job i).trans htold) htold
    · exact htold
  exact ((doneAll_sameButReports ..).job i).trans (hanswered.trans hmoved)

/-- A skipped step that publishes nothing leaves the bytes of model space and their poison alone (R21). -/
theorem flipTo_model_of_skipped {c : Chip} {i : Nat} (skipped : (c.job i).voteSet = true) (quiet : (c.job i).publish = none)
    (epoch : Nat) : (c.flipTo i epoch).dram = c.dram ∧ (c.flipTo i epoch).poison = c.poison := by
  simp [Chip.flipTo, skipped, quiet, Chip.doneAll, Chip.onObjs]

/-! The events of a step (R11, R18 to R25). -/

section
variable {s : State} {i : Nat} {b : Barrier} (live : s.Live) (entered : (s.chip.job i).barrier = some b) (done : b.done = true)
include live entered done

/-- FLIP of a barrier that is done: the flip into the next epoch, or the end at the last one (R11, R20, R278). -/
theorem flip_of_done (flips : (s.chip.job i).phase = .flip) (notVote : b.vote = false) :
    let j := s.chip.job i
    let t := s.chip.trailed j.group b.entries b.began
    exec (.flip i) s = .next { s with chip :=
      if j.epoch = 0xFFFFFFFFFFFF then t.epochLimit i else ((t.flipTo i (j.epoch + 1)).endAtFlip i).ctrLimit i } := by
  show execFlip i s = _
  refine onChip_to live ?_
  simp only [flips, entered]
  exact if_neg (by simp [notVote, done])

/-- VOTE_COMPLETE of a vote that is done, by what the vote says (R18, R19, R21). -/
theorem voteComplete_of_done (votes : (s.chip.job i).phase = .vote) (vote : b.vote = true) :
    let j := s.chip.job i
    let t := s.chip.trailed j.group b.entries b.began
    let pairs := (t.inst i).tables.flatMap (fun u => (t.enginesOf i u.num).map (fun e => (e, u.num)))
    let settled := t.onInst i (fun x => { x with tables := x.tables.map (fun u => { u with inForce := u.block }) })
    let applies := ((settled.onJob i (fun j =>
      { j with phase := .apply, voteSet := false, barrier := none, toApply := pairs })).queuePrograms i).replayHandoffs i
    let skips := ((t.dropGrads i).onJob i (fun j =>
      { j with phase := .flip, voteSet := true, barrier := none, unapplied := [] })).enterBarrier i false 0
    exec (.voteComplete i) s = .next { s with chip := if b.acc.getLsbD 0 then skips else applies } := by
  show execVoteComplete i s = _
  refine onChip_to live ?_
  simp only [votes, entered]
  exact if_neg (by simp [vote, done])

end

/-- Settles O33: the vote by its flag, the flip barrier by what is left to apply, the flip by its epoch, the swap of an object
whose shards are all there. -/
theorem stepEventsComplete : Obligations.StepEventsComplete := by
  intro s i live c j upd
  refine ⟨fun b votes entered vote done set => ?_, fun b votes entered vote done clear => ?_,
    fun applies nothing acked hot => ?_, fun applies left => ?_, fun b flips entered notVote done next => ?_,
    fun b flips entered notVote done last => ?_, fun a o b there registered due shards => ?_⟩
  · rw [voteComplete_of_done live entered done votes vote, if_pos set]
  · rw [voteComplete_of_done live entered done votes vote, if_neg (Bool.eq_false_iff.1 clear)]
  · show execFlipBarrierEnter i s = _
    exact onChip_to live (if_pos (by simp [show s.chip.job i = j from rfl, applies, nothing, acked, hot]))
  · show execFlipBarrierEnter i s = _
    refine onChip_to live (if_neg ?_)
    rcases left with engines | batches | hot
    · simp [show s.chip.job i = j from rfl, engines]
    · simp [show s.chip.job i = j from rfl, batches]
    · simp [show s.chip.job i = j from rfl, hot]
  · rw [flip_of_done live entered done flips notVote, if_neg next]
  · rw [flip_of_done live entered done flips notVote, if_pos last]
  · show execDenseSwap i a s = _
    refine onChip_to live ?_
    simp only [show s.chip.objStart i a = _ from there, show (s.chip.inst i).bobjs.find? _ = _ from registered]
    refine if_neg ?_
    simpa [due] using shards

theorem lossNext_scale (set : Bool) (l n : Nat) :
    (lossNext set l n).1 = if set then l - 1 else if n + 1 = 2000 then min (l + 1) 24 else l := by
  unfold lossNext; rw [apply_ite Prod.fst, apply_ite Prod.fst]

theorem lossNext_clean (set : Bool) (l n : Nat) :
    (lossNext set l n).2 = if set then 0 else if n + 1 = 2000 then 0 else n + 1 := by
  unfold lossNext; rw [apply_ite Prod.snd, apply_ite Prod.snd]

/-- Settles O53: the flip's job is `flipTo_job`'s; it ends by no JOB_END, and no CTR of a job that is not encrypted is used
up. -/
theorem flipMovesTheLossScale : Obligations.FlipMovesTheLossScale := by
  intro s i b live j flips entered notVote done last goesOn plain
  let t := s.chip.trailed j.group b.entries b.began
  have hj : t.job i = j := trailed_job ..
  have after := flipTo_job t i (j.epoch + 1)
  rw [hj] at after
  have going : (t.flipTo i (j.epoch + 1)).endAtFlip i = t.flipTo i (j.epoch + 1) := by
    rw [Chip.endAtFlip, after, goesOn]
  have noLimit : (t.flipTo i (j.epoch + 1)).ctrLimit i = t.flipTo i (j.epoch + 1) := by
    simp [Chip.ctrLimit, after, plain]
  have runs : exec (.flip i) s = .next { s with chip := t.flipTo i (j.epoch + 1) } := by
    refine (flip_of_done live entered done flips notVote).trans ?_
    rw [if_neg last, going, noLimit]
  refine ⟨_, runs, ?_⟩
  rw [after]
  refine ⟨rfl, rfl, rfl, lossNext_scale .., lossNext_clean .., fun skipped quiet => ?_⟩
  obtain ⟨bytes, poison⟩ := flipTo_model_of_skipped (c := t) (i := i) (hj ▸ skipped) (hj ▸ quiet) (j.epoch + 1)
  exact ⟨bytes.trans (trailed_dram ..), poison.trans (trailed_poison ..)⟩

end Sys2Proof.Machine

namespace Sys2Proof.Machine

/-! The sequencer's own descriptors (R95, R100, R113 to R115, R234 to R236, R247 to R249). -/

theorem firstFault_eq_none {l : List (Bool × Nat)} : firstFault l = none ↔ ∀ x ∈ l, x.1 = false := by
  induction l with
  | nil => simp [firstFault]
  | cons x l ih =>
    obtain ⟨b, k⟩ := x
    cases b <;> simp [firstFault, ih]

section
variable {c : Chip} {i slot : Nat} {ls : List Loop} {d : Desc} (sound : c.fetchFault i slot ls d = none)
include sound

/-- A control descriptor that shows no fault as it is fetched shows none of its own. -/
theorem controlFault_of_fetch (ctrl : opClass (dOp d) = some .control) : c.controlFault i slot ls d = none := by
  unfold Chip.fetchFault at sound
  simp only [ctrl, if_true] at sound
  cases head : firstFault _ with
  | none => rw [head] at sound; exact sound
  | some f => rw [head] at sound; cases sound

/-- A REPEAT that shows no fault spans a descriptor at least (R113). -/
theorem span_pos_of_fetch (op : dOp d = 0x71) : 0 < kSpan d := by
  have free := controlFault_of_fetch sound (by rw [op]; rfl)
  rw [Chip.controlFault, firstFault_eq_none] at free
  simp only [List.forall_mem_cons] at free
  obtain ⟨-, -, shape, -⟩ := free
  simp [op] at shape
  omega

/-- A branch that shows no fault has a target (R96, R114). -/
theorem target_of_fetch (op : dOp d = 0x74 ∨ dOp d = 0x75) : ∃ n, targetOf slot ls d = some n := by
  have ctrl : opClass (dOp d) = some .control := by rcases op with op | op <;> rw [op] <;> rfl
  have free := controlFault_of_fetch sound ctrl
  rw [Chip.controlFault, firstFault_eq_none] at free
  simp only [List.forall_mem_cons] at free
  obtain ⟨-, -, -, -, -, -, -, -, target, -⟩ := free
  simp [op] at target
  exact Option.isSome_iff_exists.1 target

end

/-- Outside a REPEAT the target of a branch is the descriptor that it names. -/
theorem targetOf_nil {slot n : Nat} {d : Desc} (target : targetOf slot [] d = some n) :
    n = ((slot : Int) + 64 * kTarget d).toNat := by
  unfold targetOf at target
  dsimp only at target
  split at target
  · cases target
  · exact (Option.some.inj target).symm

/-- A control descriptor that a tile takes now is carried out in the sequencer, past its fence. -/
theorem issue_control {s : State} {i t : Nat} {d : Desc} (h : s.Fetches i t d) (ctrl : opClass (dOp d) = some .control) :
    onChip s (fun c => c.issue t d) = .next { s with chip := (s.chip.passFence t d).control i t d } := by
  refine onChip_to h.1 ((issue_of_fetches h).trans ?_)
  have sequencer : unitOf d = none := by simp [unitOf, ctrl]
  simp [Chip.start, sequencer]

theorem headSig_of_clear (c : Chip) (t slot rank : Nat) {d : Desc} (noSig : dSig d = false) : c.headSig t slot rank d = c := by
  simp [Chip.headSig, noSig]

theorem goTo_of_next {c : Chip} {t slot n m : Nat} {ls ls' : List Loop} (next : loopNext ls n = (m, ls'))
    (inside : m < storeBytes) : c.goTo t slot n ls = c.setTile t { c.tile t with pc := m, loops := ls' } := by
  simp [Chip.goTo, next, Nat.not_le.2 inside]

/-- With no REPEAT open the sequencer goes on at the next descriptor. -/
theorem advance_plain {c : Chip} {t slot : Nat} (noLoops : (c.tile t).loops = []) (inside : slot + 64 < storeBytes) :
    c.advance t slot = c.setTile t { c.tile t with pc := slot + 64 } := by
  simp [Chip.advance, Chip.goTo, loopNext, noLoops, Nat.not_le.2 inside]

section
variable {c : Chip} {i t : Nat} {d : Desc} (noSig : dSig d = false)
include noSig

/-- NOP and FENCE only move the sequencer on (R100). -/
theorem control_of_plain (op : dOp d = 0x70 ∨ dOp d = 0x76) : c.control i t d = c.advance t (c.tile t).pc := by
  rcases op with op | op <;> simp [Chip.control, op, headSig_of_clear, noSig]

/-- A branch that is taken goes to its target (R114, R248). -/
theorem control_of_taken {n : Nat} (op : dOp d = 0x74 ∧ kCount d ≤ (c.tile t).sem (kSem d) ∨ dOp d = 0x75)
    (target : targetOf (c.tile t).pc (c.tile t).loops d = some n) :
    c.control i t d = c.setTile t { c.tile t with pc := n } := by
  rcases op with ⟨op, reached⟩ | op
  · simp [Chip.control, op, reached, target, headSig_of_clear, noSig]
  · simp [Chip.control, op, target, headSig_of_clear, noSig]

section
variable (noLoops : (c.tile t).loops = []) (inside : (c.tile t).pc + 64 < storeBytes)
include noLoops inside

/-- REPEAT opens a span behind it (R113). -/
theorem control_of_repeat (op : dOp d = 0x71) (any : 0 < kSpan d) :
    c.control i t d = c.setTile t { c.tile t with pc := (c.tile t).pc + 64, loops := [{
      first := (c.tile t).pc + 64, past := (c.tile t).pc + 64 + 64 * kSpan d, count := kCount d, iter := 0, inc1 := kInc d 0,
      inc2 := kInc d 1, inc3 := kInc d 2 }] } := by
  have within : (c.tile t).pc + 64 ≠ (c.tile t).pc + 64 + 64 * kSpan d := by omega
  rw [← goTo_of_next (loopNext_within [] within) inside (slot := (c.tile t).pc)]
  simp [Chip.control, op, headSig_of_clear, noSig, noLoops]

/-- WAIT for a count that is there takes it (R236). -/
theorem control_of_wait (op : dOp d = 0x72) (there : kCount d ≤ (c.tile t).sem (kSem d)) :
    c.control i t d = c.setTile t { c.tile t with
      pc := (c.tile t).pc + 64
      sems := tput (c.tile t).sems (kSem d) (BitVec.ofNat 16 ((c.tile t).sem (kSem d) - kCount d)) } := by
  have taken : c.control i t d = (c.setTile t { c.tile t with
      sems := tput (c.tile t).sems (kSem d) (BitVec.ofNat 16 ((c.tile t).sem (kSem d) - kCount d)) }).advance t
        (c.tile t).pc := by
    simp [Chip.control, op, headSig_of_clear, noSig, there]
  rw [taken, advance_plain (by simpa using noLoops) inside]
  simp

/-- STEP_CLOSE of the job's epoch starts the close (R16, R115). -/
theorem control_of_stepClose (op : dOp d = 0x77) (runs : c.jobRuns i = true) (epoch : kEpoch d = (c.job i).epoch) :
    c.control i t d = (if (c.job i).close = .none then c.onJob i (fun j => { j with close := .pending }) else c).setTile t
      { c.tile t with pc := (c.tile t).pc + 64 } := by
  have closes : c.control i t d =
      (if (c.job i).close = .none then c.onJob i (fun j => { j with close := .pending }) else c).advance t (c.tile t).pc := by
    simp [Chip.control, op, headSig_of_clear, noSig, Chip.stepCloseDesc, runs, epoch]
  rw [closes]
  split
  · exact advance_plain (by simpa using noLoops) inside
  · exact advance_plain noLoops inside

/-- SIGNAL to another tile is in flight and counts until it is acknowledged (R235, R237). -/
theorem control_of_signal (op : dOp d = 0x73) (far : kTile d ≠ 0x7FF) (other : kTile d ≠ t) :
    c.control i t d = { (c.setTile t { c.tile t with pc := (c.tile t).pc + 64, unacked := (c.tile t).unacked + 1 }) with
      sigs := c.sigs ++ [{
        target := kTile d, sem := kSem d, count := toSigned 32 (kCount d), sender := .tile t (c.tile t).pc }] } := by
  have sent : c.control i t d = Chip.advance { (c.setTile t { c.tile t with unacked := (c.tile t).unacked + 1 }) with
      sigs := c.sigs ++ [{
        target := kTile d, sem := kSem d, count := toSigned 32 (kCount d), sender := .tile t (c.tile t).pc }] } t
      (c.tile t).pc := by
    simp [Chip.control, op, headSig_of_clear, noSig, Chip.sendSignal, far, other]
  rw [sent, advance_plain (by simpa [Chip.tile, Chip.setTile] using noLoops) inside]
  simp [Chip.setTile, Chip.tile]

/-- SIGNAL to the tile itself is due in this tc (R237, R240). -/
theorem control_of_selfSignal (op : dOp d = 0x73) (self : kTile d = 0x7FF ∨ kTile d = t) :
    c.control i t d = c.setTile t { c.tile t with
      pc := (c.tile t).pc + 64
      due := (c.tile t).due ++ [{
        rank := 0, sem := kSem d, count := toSigned 32 (kCount d), sender := .tile t (c.tile t).pc }] } := by
  have due : c.control i t d = (c.semDue t {
      rank := 0, sem := kSem d, count := toSigned 32 (kCount d), sender := .tile t (c.tile t).pc }).advance t (c.tile t).pc := by
    simp [Chip.control, op, headSig_of_clear, noSig, Chip.sendSignal, self]
  rw [due, advance_plain (by simpa [Chip.semDue] using noLoops) inside]
  simp [Chip.semDue]

end

/-- HOST_SIGNAL updates the hub and is acknowledged (R238, R247, R249). -/
theorem control_of_hubSignal (op : dOp d = 0x78) {v : Nat} {e : Chip}
    (sum : (c.onTile t (fun k => { k with unacked := k.unacked + 1 })).hubAdd i (kSem d) (toSigned 32 (kCount d)) = .inr (v, e)) :
    c.control i t d = Chip.advance { e with
      acks := e.acks ++ [{ target := t, source := 1600, slot := (c.tile t).pc, cause := 0 }] } t (c.tile t).pc := by
  have hub : c.control i t d = c.hubSignalDesc i t (c.tile t).pc d := by simp [Chip.control, op]
  simp only [hub, Chip.hubSignalDesc, sum, headSig_of_clear _ _ _ _ noSig]

/-- HOST_SIGNAL whose update leaves the hub's range is acknowledged with the cause (R235, R239, R249). -/
theorem control_of_hubFault (op : dOp d = 0x78) {f : Nat}
    (broken : (c.onTile t (fun k => { k with unacked := k.unacked + 1 })).hubAdd i (kSem d) (toSigned 32 (kCount d)) = .inl f) :
    let e := c.onTile t (fun k => { k with unacked := k.unacked + 1 })
    c.control i t d = Chip.advance { e with
      acks := e.acks ++ [{ target := t, source := 1600, slot := (c.tile t).pc, cause := f }] } t (c.tile t).pc := by
  have hub : c.control i t d = c.hubSignalDesc i t (c.tile t).pc d := by simp [Chip.control, op]
  simp only [hub, Chip.hubSignalDesc, broken, headSig_of_clear _ _ _ _ noSig]

end

/-- Settles O32: each descriptor's own effect, then the next descriptor, the target or the end. -/
theorem controlDescriptorsComplete : Obligations.ControlDescriptorsComplete := by
  intro s i t d h noSig c k on target
  obtain ⟨b, hk⟩ := passFence_tile s.chip t d
  have hpc : k.pc = (s.chip.tile t).pc := passFence_pc ..
  obtain ⟨live, own, run, ended, hold, loops, inside, stands, sound, free, noWait⟩ := id h
  have noLoops : k.loops = [] := by
    show ((s.chip.passFence t d).tile t).loops = []
    rw [hk]; exact loops
  rw [← hpc] at inside sound
  have goes {e : Chip} (ctrl : opClass (dOp d) = some .control) (does : c.control i t d = e) :
      onChip s (fun c => c.issue t d) = .next { s with chip := e } := (issue_control h ctrl).trans (by rw [does])
  have next : c.advance t k.pc = c.setTile t { k with pc := k.pc + 64 } := advance_plain noLoops inside
  refine ⟨fun op => ?_, fun op => ?_, fun op => ?_, fun op reached => ?_, fun op short => ?_, fun op far other => ?_,
    fun op self => ?_, fun op short => ?_, fun op reached => ?_, fun op => ?_, fun op runs epoch => ?_,
    ⟨fun v e op sum => ?_, fun f op broken => ?_⟩, fun op => ?_⟩
  · exact goes (by rw [op]; rfl) ((control_of_plain noSig (.inl op)).trans next)
  · exact goes (by rw [op]; rfl) ((control_of_plain noSig (.inr op)).trans next)
  · exact goes (by rw [op]; rfl) (control_of_repeat noSig noLoops inside op (span_pos_of_fetch sound op))
  · exact goes (by rw [op]; rfl) (control_of_wait noSig noLoops inside op reached)
  · refine goes (by rw [op]; rfl) ?_
    simp [Chip.control, op, show ¬ kCount d ≤ (c.tile t).sem _ from Nat.not_le.2 short]
    rfl
  · exact goes (by rw [op]; rfl) (control_of_signal noSig noLoops inside op far other)
  · exact goes (by rw [op]; rfl) (control_of_selfSignal noSig noLoops inside op self)
  · refine goes (by rw [op]; rfl) (Eq.trans ?_ next)
    simp [Chip.control, op, headSig_of_clear, noSig, show (c.tile t).sem _ < _ from short]
    rfl
  · obtain ⟨n, leads⟩ := target_of_fetch sound (.inl op)
    refine goes (by rw [op]; rfl) ((control_of_taken noSig (.inl ⟨op, reached⟩) (noLoops ▸ leads)).trans ?_)
    rw [targetOf_nil leads]
  · obtain ⟨n, leads⟩ := target_of_fetch sound (.inr op)
    refine goes (by rw [op]; rfl) ((control_of_taken noSig (.inr op) (noLoops ▸ leads)).trans ?_)
    rw [targetOf_nil leads]
  · exact goes (by rw [op]; rfl) (control_of_stepClose noSig noLoops inside op runs epoch)
  · exact goes (by rw [op]; rfl) (control_of_hubSignal noSig op sum)
  · exact goes (by rw [op]; rfl) (control_of_hubFault noSig op broken)
  · refine goes (by rw [op]; rfl) ?_
    simp [Chip.control, op, headSig_of_clear, noSig]
    rfl

end Sys2Proof.Machine

namespace Sys2Proof.Machine

/-! LOOKUP and ROW_GRAD (R192 to R201). -/

section
variable (c : Chip) (i a n : Nat)

/-- A read changes its instance's objects and what its job knows of poison, and counts the poison that it meets (R162,
R383). -/
theorem readMarks_eq (o : Obj) : ∃ is k, c.readMarks i o a n = { c with insts := is, poisonReads := k } := by
  unfold Chip.readMarks Chip.meetPoison
  dsimp only
  split
  · exact ⟨_, _, rfl⟩
  · exact ⟨_, _, rfl⟩

theorem readMarks_phase (o : Obj) (k : Nat) : ((c.readMarks i o a n).job k).phase = (c.job k).phase := by
  unfold Chip.readMarks Chip.meetPoison
  have touched : (c.touch i o a n).job k = c.job k := onObj_job ..
  dsimp only
  split
  · rw [touched]
  · rw [← touched]
    by_cases same : i = k
    · subst same; rw [onJob_job_self]; rfl
    · rw [Chip.onJob_eq, Chip.job, Chip.setInst_inst_ne _ _ same]; rfl

theorem refTouch_reqs (r : RefBits) : (c.refTouch i r n).reqs = c.reqs := by
  unfold Chip.refTouch
  split
  · split
    · obtain ⟨_, _, e⟩ := readMarks_eq c i (refAddr r) n _
      rw [e]
    · rfl
  · rfl

theorem refTouch_jobRuns (r : RefBits) (k : Nat) : (c.refTouch i r n).jobRuns k = c.jobRuns k := by
  unfold Chip.refTouch
  split
  · split
    · simp only [Chip.jobRuns, readMarks_phase]
    · rfl
  · rfl

end

/-- What no read changes stays as it is over the lists of a LOOKUP. -/
theorem foldl_refTouch_keeps {β : Type} {i : Nat} (get : Chip → β) (read : ∀ c n r, get (c.refTouch i r n) = get c)
    (rs : List (RefBits × Nat × Bool)) (c : Chip) :
    get (rs.foldl (fun e r => if r.2.2 then e else e.refTouch i r.1 r.2.1) c) = get c :=
  foldl_keeps get (fun c r => by
    split
    · rfl
    · exact read c r.2.1 r.1) rs c

/-- The step is not closed to the descriptor, and no range of it is held (R17, R168). -/
theorem notHeld_of_open {held serve runs : Bool} {close : Close} (free : held = false)
    (opens : serve = true ∨ runs = false ∨ close ≠ .closed) :
    ¬ (held || (!serve && runs && decide (close = .closed))) = true := by
  rcases opens with open' | noJob | notYet
  · simp [free, open']
  · simp [free, noJob]
  · simp [free, notYet]

/-- A LOOKUP or ROW_GRAD that the tile takes shows no fault of its own to its channel. -/
theorem lookupFault_of_issues {s : State} {i t u : Nat} {d : Desc} (h : s.Issues i t u d) (is : dOp d = 0x50 ∨ dOp d = 0x51) :
    (s.seen i t u d).lookupFault i d = none := by
  have sound := seen_unitFault h
  have cl : opClass (dOp d) = some .exchange := by rcases is with is | is <;> rw [is] <;> rfl
  have notColl : dOp d ≠ 0x52 := by rcases is with is | is <;> rw [is] <;> decide
  simp only [Chip.unitFault, cl, if_neg notColl] at sound
  exact eq_none_of_orElse sound

/-- Settles O30: past every check of `opLookup` the descriptor stands at the front end with its messages; only the kind, the
epoch and what stays unapplied tell the two apart. -/
theorem lookupDescriptorsComplete : Obligations.LookupDescriptorsComplete := by
  intro s i t d tb h u z dim rs me rows ends ws recs messages touched parts front there ranges free order inTable
  have reqs : (touched z).reqs = z.reqs := foldl_refTouch_keeps (·.reqs) (fun c n r => refTouch_reqs c i n r) rs z
  have runs : (touched z).jobRuns i = z.jobRuns i :=
    foldl_refTouch_keeps (·.jobRuns i) (fun c n r => refTouch_jobRuns c i n r i) rs z
  have began (is : dOp d = 0x50 ∨ dOp d = 0x51)
      (opens : lServe d = true ∨ z.jobRuns i = false ∨ (z.job i).close ≠ .closed) :
      z.runDesc i t (s.chip.job i).lexp d =
        let ms := messages (if lGrad d then .grad else if lServe d then .serve else .lookup)
          (if lServe d then (z.inst i).snapEpoch else (z.job i).epoch) (lGrad d) (lServe d)
          (if lGrad d then bagGrads d dim (z.refRead i t (lDst d) (lBags d * dim * lSize d)) else [])
        .awaits (front (lGrad d) ms (if lGrad d && z.jobRuns i then (touched z).onJob i (fun j =>
            { j with unapplied := j.unapplied ++ ((parts ms).map (fun x => (x.1, x.2.1, z.reqs, x.2.2))) }) else touched z)) := by
    have run : z.runDesc i t (s.chip.job i).lexp d = z.opLookup i t d := by
      rcases is with is | is <;> simp [Chip.runDesc, is]
    rw [run, Chip.opLookup]
    refine (unless_of_none (lookupFault_of_issues h is)).trans ?_
    simp only [there]
    refine (unless_of_none ranges).trans ?_
    refine (if_neg (notHeld_of_open free opens)).trans ?_
    refine (if_neg (by simpa using order)).trans ?_
    have sound : rows.any (fun r => decide (tRows tb.block ≤ r)) = false := by
      simpa using inTable
    refine (if_neg (Bool.eq_false_iff.1 sound)).trans ?_
    dsimp only [front, messages, parts, recs, ws]
    rw [← reqs, ← runs]
    refine congrArg Ran.awaits ?_
    by_cases waits : (lGrad d && (touched z).jobRuns i) = true
    · rw [if_pos waits]
      rfl
    · rw [if_neg waits]
  have job : z.job i = s.chip.job i := congrArg Inst.job (seen_inst ..)
  have inst : z.inst i = s.chip.inst i := seen_inst ..
  have runs' : z.jobRuns i = s.chip.jobRuns i := by rw [Chip.jobRuns, job, Chip.jobRuns]
  rw [job, inst, runs'] at began
  constructor
  · intro is opens ms
    have grad : lGrad d = false := by simp [lGrad, is]
    have e := began (.inl is) opens
    simp only [grad] at e
    refine issue_awaits h (e.trans ?_)
    rfl
  · intro is notServe opens ms
    have grad : lGrad d = true := by simp [lGrad, is]
    have e := began (.inr is) (.inr opens)
    simp only [grad, notServe] at e
    refine issue_awaits h (e.trans ?_)
    rfl

end Sys2Proof.Machine

namespace Sys2Proof.Machine

/-! What the data mover's rows leave (R154, R328, R330, R409). -/

/-- Bytes of the length asked for need no padding and no cutting. -/
theorem padTo_take_of_length {n : Nat} {bs : List Byte} (len : bs.length = n) : padTo n (bs.take n) = bs := by
  subst len
  simp [padTo]

section
variable {s : State} {q : Nat} {tag : Word} {data : List Byte} {m : Move} {st : Started}

/-- A move that is served, is not flushing and has its source or its link runs the end of its command. -/
theorem dataMoveComplete_served (live : s.Live) (carried : s.chip.moved m.cmd = some st)
    (served : (s.chip.moves.take 8).find? (fun m => m.cmd.is q tag) = some m) (unflushed : m.flushing = false)
    (linked : st.cmd.par 12 4 ≠ 2 ∨ s.chip.pcie.linkUp = true) (plain : st.op ≠ 0x42) :
    let d := if st.op = 0x32 then s.chip.finishWrite m.cmd st.cmd data
      else if st.op = 0x33 then s.chip.finishRead m.cmd st.cmd
      else s.chip
    exec (.dataMoveComplete q tag data) s = .next { s with chip := d } := by
  intro d
  have goes : ((pcieOffset st).isSome && !s.chip.pcie.linkUp) = false := by
    rw [pcieOffset, if_neg plain]
    rcases linked with inside | up
    · rw [if_neg inside]; rfl
    · rw [up]; exact Bool.and_false _
  show execDataMoveComplete q tag data s = _
  refine onChip_to live ?_
  simp only [served, carried, unflushed, goes, if_neg plain, Bool.or_self, Bool.false_eq_true, if_false]
  rfl

end

section
variable {c : Chip} {r : Ref} {p : Icp}

/-- The bytes of a READ to the host region land there (R154). -/
theorem readLands_host (host : p.par 12 4 = 1) (bs : List Byte) :
    c.readLands r p bs = (c.hostWrite (p.par 16 8) bs).endMove r stOK 0 := if_pos host

/-- The bytes of a READ to PCIe are sent, and its flushing read behind them (R330). -/
theorem readLands_pcie (pcie : p.par 12 4 = 2) (bs : List Byte) :
    c.readLands r p bs =
      let e := (c.emit (.pcieWrite (p.par 16 8) bs)).emit (.flushingRead (p.par 16 8 + p.par 8 4 - 4))
      { e with moves := modFirst (fun m => decide (m.cmd = r)) (fun m => { m with flushing := true }) e.moves } :=
  if_neg (by omega)

theorem finishRead_freed {bs} (freed : c.freedFor p.who r = some bs) : c.finishRead r p = c.readLands r p bs := by
  simp only [Chip.finishRead, freed]

theorem finishRead_fault {k} (unfreed : c.freedFor p.who r = none) (outside : c.check p.who (p.par 0 8) (p.par 8 4) = .fault k) :
    c.finishRead r p = c.endMove r stAddrFault k := by
  simp only [Chip.finishRead, unfreed, outside]

theorem finishRead_inside {o} (unfreed : c.freedFor p.who r = none)
    (inside : c.check p.who (p.par 0 8) (p.par 8 4) = .ok o)
    (unheld : c.cmdHeld p.who o (p.par 0 8) (p.par 8 4) false = false) :
    c.finishRead r p = (c.readMarks p.who o (p.par 0 8) (p.par 8 4)).readLands r p
      (c.frontRead p.who o (p.par 0 8) (p.par 8 4)) := by
  simp only [Chip.finishRead, unfreed, inside, unheld, Bool.false_eq_true, if_false]

variable {data : List Byte}

theorem finishWrite_freed {bs} (freed : c.freedFor p.who r = some bs) : c.finishWrite r p data = c.endMove r stOK 0 :=
  if_pos (by rw [freed]; rfl)

theorem finishWrite_fault {k} (unfreed : c.freedFor p.who r = none)
    (outside : c.check p.who (p.par 0 8) (p.par 8 4) = .fault k) :
    c.finishWrite r p data = c.endMove r stAddrFault k := by
  simp only [Chip.finishWrite, unfreed, outside, Option.isSome_none, Bool.false_eq_true, if_false]

theorem finishWrite_inside {o} (unfreed : c.freedFor p.who r = none)
    (inside : c.check p.who (p.par 0 8) (p.par 8 4) = .ok o) (free : o.dense = false ∨ c.jobRuns p.who = false)
    (unheld : c.cmdHeld p.who o (p.par 0 8) (p.par 8 4) true = false) :
    c.finishWrite r p data = (c.landModel p.who (p.par 0 8)
      (c.sourceBytes (p.par 12 4 = 2) (p.par 16 8) (p.par 8 4) data)).endMove r stOK 0 := by
  have writable : (o.dense && c.jobRuns p.who) = false := by
    rcases free with h | h <;> rw [h]
    · rfl
    · exact Bool.and_false _
  simp only [Chip.finishWrite, unfreed, inside, writable, unheld, Option.isSome_none, Bool.false_eq_true, if_false]

theorem sourceBytes_host (host : p.par 12 4 = 1) (n : Nat) :
    c.sourceBytes (p.par 12 4 = 2) (p.par 16 8) n data = c.hostRead (p.par 16 8) n := by
  rw [host]; rfl

theorem sourceBytes_pcie (pcie : p.par 12 4 = 2) {n : Nat} (len : data.length = n) :
    c.sourceBytes (p.par 12 4 = 2) (p.par 16 8) n data = data := by
  rw [pcie]; exact padTo_take_of_length len

end

/-- Settles O16: a served move runs the end of its command, and each end lands, faults or flushes as its place says. -/
theorem moverRowsComplete : Obligations.MoverRowsComplete := by
  intro s q tag data m st c r p i a n live carried
  refine ⟨fun served unflushed placed => ?_, fun up flushing => ?_, fun moving pcie plain => ?_⟩
  · have linked : st.cmd.par 12 4 ≠ 2 ∨ s.chip.pcie.linkUp = true := by
      rcases placed with host | ⟨-, up⟩
      · exact .inl (by rw [host]; decide)
      · exact .inr up
    have ends := fun plain => dataMoveComplete_served (data := data) live carried served unflushed linked plain
    have writes {d : Chip} (op : st.op = 0x32) (e : c.finishWrite r p data = d) :
        exec (.dataMoveComplete q tag data) s = .next { s with chip := d } := by
      rw [ends (by rw [op]; decide), if_pos op, ← e]
    have reads {d : Chip} (op : st.op = 0x33) (e : c.finishRead r p = d) :
        exec (.dataMoveComplete q tag data) s = .next { s with chip := d } := by
      rw [ends (by rw [op]; decide), if_neg (by rw [op]; decide), if_pos op, ← e]
    refine ⟨fun bs freed => ⟨fun op => writes op (finishWrite_freed freed), fun op => reads op (finishRead_freed freed)⟩,
      fun unfreed => ⟨fun k outside op => ?_, fun o inside => ⟨fun op free unheld => ?_, fun op unheld => ?_⟩⟩⟩
    · rcases op with op | op
      · exact writes op (finishWrite_fault unfreed outside)
      · exact reads op (finishRead_fault unfreed outside)
    · have lands := finishWrite_inside (data := data) unfreed inside free unheld
      exact ⟨fun host => writes op (lands.trans (by rw [sourceBytes_host host])),
        fun pcie len => writes op (lands.trans (by rw [sourceBytes_pcie pcie len]))⟩
    · have lands := finishRead_inside unfreed inside unheld
      exact ⟨fun host => reads op (lands.trans (readLands_host host _)),
        fun pcie => reads op (lands.trans (readLands_pcie pcie _))⟩
  · show execFlushingReadComplete q tag s = _
    refine onChip_to live ?_
    simp only [c] at up flushing
    simp only [flushing, up, if_true]
    rfl
  · show execPcieRequestFailure q tag s = _
    have off : (s.chip.moved m.cmd).bind pcieOffset = some 16 := by
      rw [show s.chip.moved m.cmd = some st from carried, Option.bind_some, pcieOffset, if_neg plain]
      exact if_pos pcie
    refine onChip_to live ?_
    simp only [c] at moving
    simp only [moving, off]
    rfl

end Sys2Proof.Machine

namespace Sys2Proof.Machine

/-! The commands of a job (R10 to R18, R38, R39, R65, R143, R224). -/

section
variable {s : State} {p : Icp}

/-- A refusal of a command in the wrong state names the phase (R63). -/
theorem icp_badState {op : Byte} (takes : s.Takes op p) {f : Chip → Icp → Verdict}
    (e : f (s.chip.begun op p) p = (s.chip.begun op p).badState p) :
    icp op p s f = .next (s.refusedWith op p stBadState ((s.chip.begun op p).phaseDetail p)) := icp_refuse takes e

/-- A job starts with no job, a fresh identifier and a group of its own instance that holds this device (R12). -/
theorem jobStartFault_eq_none {c : Chip} (idle : c.jobRuns p.who = false) (unended : (c.inst p.who).ended = none)
    (epoch : 0 < p.par 8 8) (last : p.par 8 8 ≤ 0xFFFFFFFFFFFE) (group : p.par 16 2 ≤ 1023) (scale : p.par 18 1 ≤ 24)
    (fresh : ∀ k < 16, c.jobRuns k = true → (c.job k).ident.toNat % 65536 ≠ p.par 0 8 % 65536)
    (owned : (c.group (p.par 16 2)).owner = some p.who)
    (member : (c.selfIn (c.group (p.par 16 2)).members).isSome = true) : c.jobStartFault p = none := by
  have noClash : ((List.range 16).any fun k => c.jobRuns k && decide ((c.job k).ident.toNat % 65536 = p.par 0 8 % 65536)) =
      false := by
    refine List.any_eq_false.mpr fun k mem => ?_
    rw [Bool.and_eq_true, decide_eq_true_eq]
    exact fun ⟨runs, same⟩ => fresh k (List.mem_range.mp mem) runs same
  have early : (p.par 8 8 = 0 || 0xFFFFFFFFFFFE < p.par 8 8) = false := by
    rw [decide_eq_false (by omega), decide_eq_false (by omega)]; rfl
  have known : (c.selfIn (c.group (p.par 16 2)).members).isNone = false := by
    rw [← Option.not_isSome, member]; rfl
  simp only [Chip.jobStartFault, idle, unended, early, noClash, owned, known, Option.isSome_none, Bool.or_self,
    Bool.false_eq_true, if_false, if_neg (Nat.not_lt.mpr group), if_neg (Nat.not_lt.mpr scale), ne_eq, not_true_eq_false]

/-- A close that is already asked for stays so. -/
theorem onJob_close_pending {c : Chip} {i : Nat} (r : Ref) (asked : (c.job i).close = .pending) :
    c.onJob i (fun j => { j with closers := j.closers ++ [r] }) =
      c.onJob i (fun j => { j with close := .pending, closers := j.closers ++ [r] }) := by
  rw [Chip.onJob_eq, Chip.onJob_eq, ← asked]
  rfl

end

/-- Settles O18: each command and the row of the close, over the phases of the job. -/
theorem jobCommandsComplete : Obligations.JobCommandsComplete := by
  intro s p c i j g
  refine ⟨fun takes idle unended epoch last group scale fresh owned member => ?_, fun takes => ?_, fun takes => ?_,
    fun k live runs compute asked => ?_, fun takes => ?_, fun takes => ?_⟩
  · show execJobStart p s = _
    refine icp_done takes ?_
    have sound : (s.chip.begun 0x50 p).jobStartFault p = none :=
      jobStartFault_eq_none (by simpa using idle) (by simpa using unended) epoch last group scale (by simpa using fresh)
        (by simpa using owned) (by simpa using member)
    simp only [sound]
    rfl
  · show (_ → execJobEnd p s = _) ∧ (_ → _ → execJobEnd p s = _) ∧ (_ → _ → _ → execJobEnd p s = _) ∧
      (_ → (_ → execJobEnd p s = _) ∧ (_ → execJobEnd p s = _))
    have phase : ((s.chip.begun 0x51 p).job p.who).phase = j.phase := congrArg Job.phase (begun_job ..)
    have ending : ((s.chip.begun 0x51 p).job p.who).ending = j.ending := congrArg Job.ending (begun_job ..)
    refine ⟨fun none => icp_badState takes ?_, fun compute busy => icp_badState takes ?_,
      fun compute empty closed => icp_later takes ?_, fun later =>
      ⟨fun first => icp_pending takes ?_, fun second => icp_badState takes ?_⟩⟩
    · simp only [phase, none]
    · have busy : (!((s.chip.begun 0x51 p).inst p.who).launches.isEmpty || (s.chip.begun 0x51 p).collOpen p.who) = true := by
        rw [begun_inst, begun_collOpen]
        rcases busy with some | opened
        · rw [List.isEmpty_eq_false_iff.mpr some]; rfl
        · rw [show s.chip.collOpen p.who = true from opened, Bool.or_true]
      simp only [phase, compute, busy, if_true]
    · have idle : (!((s.chip.begun 0x51 p).inst p.who).launches.isEmpty || (s.chip.begun 0x51 p).collOpen p.who) = false := by
        rw [begun_inst, begun_collOpen, show (s.chip.inst p.who).launches = [] from empty,
          show s.chip.collOpen p.who = false from closed]
        rfl
      simp only [phase, compute, idle, Bool.false_eq_true, if_false]
      rfl
    · rcases later with vote | apply | flip
      · simp only [phase, vote, ending, first, Option.isSome_none, Bool.false_eq_true, if_false]
        rfl
      · simp only [phase, apply, ending, first, Option.isSome_none, Bool.false_eq_true, if_false]
        rfl
      · simp only [phase, flip, ending, first, Option.isSome_none, Bool.false_eq_true, if_false]
        rfl
    · have second := Option.isSome_iff_ne_none.mpr second
      rcases later with vote | apply | flip
      · simp only [phase, vote, ending, second, if_true]
      · simp only [phase, apply, ending, second, if_true]
      · simp only [phase, flip, ending, second, if_true]
  · show (_ → execStepClose p s = _) ∧ (_ → _ → execStepClose p s = _) ∧ (_ → _ → _ → execStepClose p s = _) ∧
      (_ → _ → _ → _ → execStepClose p s = _) ∧ (_ → _ → _ → execStepClose p s = _)
    have runs' : (s.chip.begun 0x53 p).jobRuns p.who = c.jobRuns i := begun_jobRuns ..
    have job : (s.chip.begun 0x53 p).job p.who = j := begun_job ..
    have ready' : (s.chip.begun 0x53 p).closeReady p.who = c.closeReady i := begun_closeReady ..
    refine ⟨fun idle => icp_badState takes ?_, fun runs other => icp_refuse takes ?_,
      fun runs this closed => icp_done takes ?_, fun runs this open' ready => icp_done takes ?_,
      fun runs this waits => icp_pending takes ?_⟩
    · simp only [runs', idle, Bool.not_false, if_true]
    · simp only [runs', runs, job, Bool.not_true, Bool.false_eq_true, if_false, if_pos other]
      rfl
    · simp only [runs', runs, job, closed, Bool.not_true, Bool.false_eq_true, if_false, if_neg (not_not.mpr this)]
      rfl
    · simp only [runs', runs, job, open', ready', ready, Bool.not_true, Bool.false_eq_true, if_false, if_true,
        if_neg (not_not.mpr this)]
      rfl
    · rcases waits with asked | ⟨open', unready⟩
      · simp only [runs', runs, job, asked, Bool.not_true, Bool.false_eq_true, if_false, if_neg (not_not.mpr this)]
        exact congrArg Verdict.pending (onJob_close_pending _ (job ▸ asked))
      · simp only [runs', runs, job, open', ready', unready, Bool.not_true, Bool.false_eq_true, if_false,
          if_neg (not_not.mpr this)]
        rfl
  · show execStepCloseEffect k s = _
    refine onChip_to live ?_
    simp only [c] at runs compute asked
    simp only [runs, compute, asked, decide_true, Bool.true_and, c]
  · show (_ → execPublish p s = _) ∧ (_ → _ → _ → (_ → execPublish p s = _) ∧ (∀ _ _, _ → execPublish p s = _))
    have runs' : (s.chip.begun 0x54 p).jobRuns p.who = c.jobRuns i := begun_jobRuns ..
    have job : (s.chip.begun 0x54 p).job p.who = j := begun_job ..
    refine ⟨fun late => icp_badState takes ?_, fun runs ahead small => ?_⟩
    · refine if_pos ?_
      rw [runs', job]
      rcases late with idle | past | ⟨next, closed⟩
      · rw [idle]; rfl
      · rw [decide_eq_true past, Bool.or_true]; rfl
      · rw [decide_eq_true next, decide_eq_true closed]; exact Bool.or_true _
    · have timely : (!(s.chip.begun 0x54 p).jobRuns p.who || decide (p.par 0 8 ≤ j.epoch) ||
          (decide (p.par 0 8 = j.epoch + 1) && decide (j.close = .closed))) = false := by
        rw [runs', runs, decide_eq_false (by omega : ¬p.par 0 8 ≤ j.epoch)]
        rcases ahead with far | ⟨-, opened⟩
        · rw [decide_eq_false (by omega : ¬p.par 0 8 = j.epoch + 1)]; rfl
        · rw [decide_eq_false opened, Bool.and_false]; rfl
      refine ⟨fun none => icp_pending takes ?_, fun e r stood => icp_pending takes ?_⟩
      · simp only [job, timely, none, Bool.false_eq_true, if_false, if_neg (Nat.not_lt.mpr small)]
        rfl
      · simp only [job, timely, stood, Bool.false_eq_true, if_false, if_neg (Nat.not_lt.mpr small)]
        rfl
  · show execReleaseSnapshot p s = _
    exact icp_done takes rfl

end Sys2Proof.Machine

namespace Sys2Proof.Machine

/-! The events of a group (R22, R297, R298, R302, R307, R311 to R315, R396). -/

/-- Without a job no CTR runs out (R278). -/
theorem ctrLimit_of_idle {c : Chip} {i : Nat} (idle : c.jobRuns i = false) : c.ctrLimit i = c :=
  if_neg (by rw [idle]; exact Bool.false_ne_true)

/-- Settles O37: each event, over what its rows ask of the group and the job. -/
theorem groupEventsComplete : Obligations.GroupEventsComplete := by
  intro s i g live c upd
  refine ⟨fun x y owned front landed ended => ?_, fun runs stalls => ?_, fun quiet => ?_,
    fun m owned runs known other owes => ?_, fun m owned idle => ?_, fun runs leaf => ?_, fun idle => ?_,
    fun runs root => ?_⟩
  · show execCollComplete g s = _
    refine onChip_to live ?_
    simp only [c] at owned front landed ended
    simp only [owned, front, landed, ended, if_true]
    rfl
  · show execHoldTokenTimer i s = _
    refine onChip_to live (if_pos ?_)
    rw [runs]
    rcases stalls with stall | marks
    · rw [stall]; rfl
    · rw [List.isEmpty_eq_false_iff.mpr marks]; exact Bool.or_true _
  · show execHoldTokenTimer i s = _
    refine onChip_to live (if_neg ?_)
    rcases quiet with idle | ⟨free, empty⟩
    · rw [idle]; exact Bool.false_ne_true
    · rw [free, empty, List.isEmpty_nil]
      simp
  · show execGroupTimeout g m s = _
    have waits : s.chip.waitsFor i g m = true := by
      simp only [Chip.waitsFor, Bool.and_eq_true, Bool.or_eq_true, decide_eq_true_eq]
      refine ⟨⟨known, other⟩, owes.imp (fun ⟨x, mem, active, owed⟩ => ?_) fun ⟨group, b, stands, waiting, from'⟩ => ?_⟩
      · exact List.any_eq_true.mpr ⟨x, mem, by rw [active, owed]; rfl⟩
      · refine ⟨group, ?_⟩
        rw [show (s.chip.job i).barrier = some b from stands, Option.any_some, Barrier.awaits, waiting]
        exact decide_eq_true from'
    refine onChip_to live ?_
    simp only [c] at owned runs
    simp only [owned, runs, waits, Bool.and_self, if_true]
    rfl
  · show execGroupTimeout g m s = _
    refine onChip_to live ?_
    simp only [c] at owned idle
    simp only [owned, idle, Bool.and_false, Bool.false_eq_true, if_false]
  · show execTimeProbeTimer i s = _
    refine onChip_to live (congrArg (Chip.ctrLimit · i) (if_neg ?_))
    rw [runs]
    simpa using leaf
  · show execTimeProbeTimer i s = _
    have probe : s.chip.sendProbe i = s.chip := if_pos (by rw [show s.chip.jobRuns i = false from idle]; rfl)
    exact onChip_to live (by rw [probe, ctrLimit_of_idle idle])
  · show execTimeProbeTimer i s = _
    refine onChip_to live (congrArg (Chip.ctrLimit · i) (if_pos ?_))
    rw [root]
    exact Bool.or_true _

end Sys2Proof.Machine

namespace Sys2Proof.Machine

/-! Faults and health of units (R170, R175, R176, R287, R381 to R383). -/

section
variable {c : Chip} {u : UnitId} {w : FaultWeight}

/-- What an event of weight `w` leaves in the unit's bucket (R381). -/
def Chip.filled (c : Chip) (u : UnitId) (w : FaultWeight) : Nat :=
  min (threshold u.cls) (c.bucket u + (if w = .one then 1 else 16))

/-- A unit retired, or that has no such event, has none. -/
theorem faultEvent_of_none (none : c.isRetired u.cls u.idx = true ∨ hasEvent u.cls w = false) : c.faultEvent u w = c := by
  refine if_pos ?_
  rcases none with retired | without
  · simp [retired]
  · simp [without]

/-- An event that does not retire its unit at once fills the bucket, and retires the unit at the threshold (R381). -/
theorem faultEvent_of_weight (there : unitOk u = true) (serves : c.isRetired u.cls u.idx = false)
    (has : hasEvent u.cls w = true) (slow : w ≠ .atOnce) :
    let d : Chip := { c with buckets := tput c.buckets (unitKey u) (c.filled u w) }
    c.faultEvent u w = if c.filled u w = threshold u.cls then d.retire u 0 else d := by
  have counts : (!unitOk u || c.isRetired u.cls u.idx || !hasEvent u.cls w) = false := by rw [there, serves, has]; rfl
  unfold Chip.faultEvent
  rw [counts]
  cases w with
  | one => rfl
  | sixteen => rfl
  | atOnce => exact absurd rfl slow

/-- A lane's uncorrectable codeword also raises UNCORR of its link (R287). -/
def Chip.counted (c : Chip) (u : UnitId) (w : FaultWeight) : Chip :=
  if u.cls = 6 ∧ w = .one then c.onLink (u.idx / 16) (fun l => { l with uncorr := satAdd l.uncorr 1 }) else c

theorem counted_eq (c : Chip) (u : UnitId) (w : FaultWeight) : ∃ ls, c.counted u w = { c with links := ls } := by
  unfold Chip.counted
  split
  · exact ⟨_, rfl⟩
  · exact ⟨_, rfl⟩

@[simp] theorem counted_isRetired (cls idx : Nat) : (c.counted u w).isRetired cls idx = c.isRetired cls idx := by
  obtain ⟨_, e⟩ := counted_eq c u w; rw [e]; rfl

@[simp] theorem counted_buckets : (c.counted u w).buckets = c.buckets := by
  obtain ⟨_, e⟩ := counted_eq c u w; rw [e]

@[simp] theorem counted_filled : (c.counted u w).filled u w = c.filled u w := by
  obtain ⟨_, e⟩ := counted_eq c u w; rw [e]; rfl

@[simp] theorem counted_remembered (g : Nat) : (c.counted u w).remembered u g = c.remembered u g := by
  obtain ⟨_, e⟩ := counted_eq c u w; rw [e]; rfl

end

section
variable {s : State} (live : s.Live)
include live

/-- A fault event of a unit there is counts an uncorrectable codeword, then fills the bucket (R287, R381, R382). -/
theorem exec_faultEvent {u : UnitId} (there : unitOk u = true) (w : FaultWeight) (granule : Option Nat) {d : Chip}
    (e : (match granule with
      | none => (s.chip.counted u w).faultEvent u w
      | some g => if s.chip.remembered u g = true then s.chip.counted u w
          else ((s.chip.counted u w).remember u g).faultEvent u w) = d) :
    exec (.faultEvent u w granule) s = .next { s with chip := d } := by
  show execFaultEvent u w granule s = _
  have counts : (if u.cls = 6 && unitOk u && w = .one then
      s.chip.onLink (u.idx / 16) (fun l => { l with uncorr := satAdd l.uncorr 1 }) else s.chip) = s.chip.counted u w := by
    simp [Chip.counted, there]
  refine onChip_to live ?_
  simp only [counts]
  simp only [there, counted_remembered, Bool.not_true, Bool.false_or]
  exact e

end

/-- Settles O41: each row, over what its unit, granule or window is at. -/
theorem unitFaultsComplete : Obligations.UnitFaultsComplete := by
  intro s live c upd
  refine ⟨fun u w there => ⟨fun serves has => ?_, fun without => ?_, fun g known => ?_, fun g fresh => ?_⟩,
    fun u there => ?_, fun i a o e near clean extent tier => ?_, fun pc small => ?_, fun pc moved below opened => ?_,
    fun ch moved below small serves => ?_, fun channel idx => ⟨?_, ?_⟩⟩
  · have serves' : (s.chip.counted u w).isRetired u.cls u.idx = false := counted_isRetired .. |>.trans serves
    refine ⟨fun atOnce => ?_, fun slow below => ?_, fun slow top => ?_⟩
    · subst atOnce
      exact exec_faultEvent live there _ none (faultEvent_of_atOnce there serves' has)
    · refine exec_faultEvent live there w none ((faultEvent_of_weight there serves' has slow).trans ?_)
      rw [counted_filled, counted_buckets]
      exact if_neg below
    · refine exec_faultEvent live there w none ((faultEvent_of_weight there serves' has slow).trans ?_)
      rw [counted_filled, counted_buckets]
      exact if_pos top
  · exact exec_faultEvent live there w none
      (faultEvent_of_none (without.imp_left (counted_isRetired .. |>.trans ·)))
  · exact exec_faultEvent live there w (some g) (if_pos known)
  · exact exec_faultEvent live there w (some g) (if_neg (Bool.eq_false_iff.mp fresh))
  · show execBucketLeak u s = _
    exact onChip_to live (if_pos there)
  · show execPoisonedRead i a s = _
    have fresh : ((List.range (copiesOf o.cls)).any fun m => !(s.chip.poisonedIn i m a 1).isEmpty) = false := by
      refine List.any_eq_false.mpr fun m mem => ?_
      rw [show s.chip.poisonedIn i m a 1 = [] from clean m (List.mem_range.mp mem)]
      exact Bool.false_ne_true
    refine onChip_to live ?_
    simp only [c] at near
    simp only [near, extent, fresh, if_neg tier, Bool.false_eq_true, if_false]
    rfl
  · have same (no : s.chip.nextWindow (pc / 64) ≠ some pc ∨ s.chip.windows.any (fun w => w / 64 = pc / 64) = true) : 
        exec (.calibrationWindowStart pc) s = .next s := by
      show execCalibrationWindowStart pc s = _
      refine onChip_to live (if_pos ?_)
      rcases no with other | taken
      · simp [other]
      · rw [taken, Bool.or_true]
    refine ⟨fun next free => ?_, fun no => same (no.imp_right fun ⟨w, mem, stack⟩ => ?_)⟩
    · show execCalibrationWindowStart pc s = _
      have untaken : (s.chip.windows.any fun w => decide (w / 64 = pc / 64)) = false :=
        List.any_eq_false.mpr fun w mem => by simpa using free w mem
      refine onChip_to live (if_neg ?_)
      rw [untaken, show s.chip.nextWindow (pc / 64) = some pc from next]
      simpa using small
    · exact List.any_eq_true.mpr ⟨w, mem, decide_eq_true stack⟩
  · show execCalibrationWindowEnd pc moved below s = _
    refine onChip_to live (if_neg ?_)
    rw [List.contains_iff_mem.mpr opened]
    exact Bool.false_ne_true
  · show execChannelRetune ch moved below s = _
    refine onChip_to live ((if_neg ?_).trans ?_)
    · rw [show s.chip.isRetired 5 ch = false from serves]
      simpa using small
    · cases moved with
      | false => rfl
      | true => rfl
  · show execTemperatureHot channel idx s = _
    exact onChip_live live _
  · show execTemperatureCool channel idx s = _
    exact onChip_live live _

end Sys2Proof.Machine

namespace Sys2Proof.Machine

/-! Ages, moves and evictions of extents (R162 to R168, R210, R369, R384). -/

section
variable {s : State} {i tier : Nat} (live : s.Live)

theorem stageOf_eq {c : Chip} {obj ext : Nat} {o : Obj} {e : Extent} (start : c.objStart i obj = some o)
    (extent : o.extents[ext]? = some e) : c.stageOf i obj ext = e.stage := by
  rw [Chip.stageOf, start, Option.bind_some, extent, Option.bind_some]

include live

/-- A tick of an instance in its reset moves nothing (R369). -/
theorem quotaEvictionTick_resetting (resetting : (s.chip.inst i).resetting ≠ none) :
    exec (.quotaEvictionTick i tier) s = .next s := by
  show execQuotaEvictionTick i tier s = _
  exact onChip_to live (if_pos (Option.isSome_iff_ne_none.mpr resetting))

variable (running : (s.chip.inst i).resetting = none)
include running

/-- An extent on a retired unit goes first: it moves where there is room, and is lost where there is none (R384). -/
theorem quotaEvictionTick_dead {o : Obj} {k : Nat} {e : Extent}
    (dead : (s.chip.settled i tier).find? (fun x => s.chip.deadPlace x.2.2.place) = some (o, k, e)) :
    (∀ pl rot, s.chip.placeIn i 1 (copiesOf o.cls) 1 = some ([pl], rot) →
      exec (.quotaEvictionTick i tier) s = .next { s with chip := s.chip.startMove i o.addr k pl rot }) ∧
    (s.chip.placeIn i 1 (copiesOf o.cls) 1 = none →
      exec (.quotaEvictionTick i tier) s = .next { s with chip := s.chip.loseExtent i o k }) := by
  show (∀ pl rot, _ → execQuotaEvictionTick i tier s = _) ∧ (_ → execQuotaEvictionTick i tier s = _)
  refine ⟨fun pl rot room => onChip_to live ?_, fun full => onChip_to live ?_⟩
  · simp only [running, dead, room, Option.isSome_none, Bool.false_eq_true, if_false]
  · simp only [running, dead, full, Option.isSome_none, Bool.false_eq_true, if_false]

variable (whole : (s.chip.settled i tier).find? (fun x => s.chip.deadPlace x.2.2.place) = none)
include whole

/-- An extent that a retired channel has left is laid out again next (R165, R384). -/
theorem quotaEvictionTick_relayout {d : Chip} (again : s.chip.relayout i tier = some d) :
    exec (.quotaEvictionTick i tier) s = .next { s with chip := d } := by
  show execQuotaEvictionTick i tier s = _
  refine onChip_to live ?_
  simp only [running, whole, again, Option.isSome_none, Bool.false_eq_true, if_false]

variable (laid : s.chip.relayout i tier = none)
include laid

/-- In the first tier a PC group gives up what it holds above its live PCs (R165). -/
theorem quotaEvictionTick_stack (first : tier = 0) {d : Chip}
    (goes : ((s.chip.excessGroup i).bind (fun g => s.chip.evictStep i 0 (some g))).getD s.chip = d) :
    exec (.quotaEvictionTick i tier) s = .next { s with chip := d } := by
  show execQuotaEvictionTick i tier s = _
  refine onChip_to live ?_
  simp only [running, whole, laid, Option.isSome_none, Bool.false_eq_true, if_false, if_pos first]
  exact goes

/-- In the other tiers an instance above its quota gives up an extent (R162, R164). -/
theorem quotaEvictionTick_quota (other : tier = 1 ∨ tier = 2)
    (asked : (s.chip.inst i).evicting.contains tier = true ∨
      (if tier = 1 then (s.chip.inst i).overMod else (s.chip.inst i).overExp) = true) {d : Chip}
    (goes : (if s.chip.use i tier - s.chip.leaving i tier - s.chip.quota i tier = 0 then s.chip.quotaSettle i
      else match s.chip.evictStep i tier none with
        | some c => c
        | none => if s.chip.leaving i tier = 0 then
            s.chip.overQuota i tier (s.chip.use i tier - s.chip.leaving i tier - s.chip.quota i tier) else s.chip) = d) :
    exec (.quotaEvictionTick i tier) s = .next { s with chip := d } := by
  have evicts : (!(if tier = 1 then (s.chip.inst i).overMod else (s.chip.inst i).overExp) &&
      !(s.chip.inst i).evicting.contains tier) = false := by
    rcases asked with listed | above
    · rw [listed]; exact Bool.and_false _
    · rw [above]; rfl
  have lower : (tier = 1 || tier = 2) = true := by simpa using other
  show execQuotaEvictionTick i tier s = _
  refine onChip_to live ?_
  simp only [running, whole, laid, Option.isSome_none, Bool.false_eq_true, if_false, if_neg (by omega : ¬tier = 0), lower,
    if_true, evicts]
  exact goes

end

/-- Settles O42: each row by the stage of its extent, an eviction tick by what there is to move first. -/
theorem extentEventsComplete : Obligations.ExtentEventsComplete := by
  intro s i live c upd dead
  refine ⟨?_, fun obj ext n copying => ?_, fun obj ext o e start extent committing => ?_, fun obj ext releasing => ?_,
    fun tier resetting => quotaEvictionTick_resetting live resetting, fun tier running =>
    ⟨fun o k e lost => quotaEvictionTick_dead live running lost, fun o k e whole relay => ?_, fun whole laid => ?_⟩⟩
  · show execExtentAgeTick s = _
    exact onChip_live live _
  · show execMigrationPanelCopyDone i obj ext s = _
    refine onChip_to live ?_
    simp only [c] at copying
    simp only [copying]
    rfl
  · show execMigrationCommit i obj ext s = _
    have stage : s.chip.stageOf i obj ext = some .commit := (stageOf_eq start extent).trans committing
    refine onChip_to live ?_
    simp only [c] at start
    simp only [stage, start, extent]
    rfl
  · show execMigrationRelease i obj ext s = _
    refine onChip_to live ?_
    simp only [c] at releasing
    simp only [releasing]
    rfl
  · refine quotaEvictionTick_relayout live running whole ?_
    rw [Chip.relayout, relay, Option.map_some]
  · have laid : s.chip.relayout i tier = none := by rw [Chip.relayout, laid, Option.map_none]
    refine ⟨fun g d first excess step => quotaEvictionTick_stack live running whole laid first ?_,
      fun first fits => quotaEvictionTick_stack live running whole laid first ?_, fun other => ?_⟩
    · rw [show s.chip.excessGroup i = some g from excess, Option.bind_some, step, Option.getD_some]
    · rw [show s.chip.excessGroup i = none from fits]; rfl
    intro above asked
    have goes {d : Chip} := quotaEvictionTick_quota (d := d) live running whole laid other asked
    refine ⟨fun within => goes (if_pos within), fun d over' step => goes ((if_neg over').trans ?_),
      fun over' stuck still => goes ((if_neg over').trans ?_)⟩
    · simp only [show s.chip.evictStep i tier none = some d from step]
    · simp only [show s.chip.evictStep i tier none = none from stuck]
      exact if_pos still

end Sys2Proof.Machine

namespace Sys2Proof.Machine

/-! Bruin's programs (R168, R211 to R231, R381). -/

section
variable {s : State} {i : Nat} {r : Run} {b : BObj} (live : s.Live) (head : s.chip.bruinHead i = some (r, b))
include live head

/-- The instance whose turn it is runs the stage that its head is at; with too few cores, or into a range that is held, it
waits (R168, R211, R214). -/
theorem bruinStageComplete_turn {n : Nat} {st : BStage} (turn : s.chip.bruinNow = some (i, n))
    (at' : (r.stages b.updates.toNat)[r.prog.stage]? = some st) :
    exec (.bruinStageComplete i) s =
      let x := (s.chip.stageTouch r st).runStage r (f32 b.p1) (f32 b.p2) st
      let d := x.1.onHead i (fun q => { q with stage := q.stage + 1, f := x.2 })
      .next { s with chip := (if s.chip.liveCores < 8 || s.chip.stageHeld r st then s.chip
        else { d with bruinTurn := some (i, n) }) } := by
  show execBruinStageComplete i s = _
  refine onChip_to live ?_
  simp only [turn, head, at', ne_eq, not_true_eq_false, if_false]

/-- The head starts where it may: it takes the object's block, and holds the gradient buffer of its epoch's parity
(R219, R221, R222). -/
theorem bruinProgramStart_head (fresh : r.prog.started = false) (may : s.chip.mayStart i r.prog = true) :
    exec (.bruinProgramStart i) s = .next { s with chip := ((s.chip.wakeHub 4).onHead i (fun q =>
      { q with started := true, block := b.block })).onInst i (fun x => { x with bheld := some (r.prog.epoch % 2) }) } := by
  show execBruinProgramStart i s = _
  refine onChip_to live ?_
  simp only [head, fresh, may, Bool.not_true, Bool.or_self, Bool.false_eq_true, if_false]

end

/-- Settles O34: each row of the program at the head of the queue, and an upset below its threshold. -/
theorem bruinEventsComplete : Obligations.BruinEventsComplete := by
  intro s i live c upd
  refine ⟨fun r b head fresh may => bruinProgramStart_head live head fresh may,
    fun r b n st turn head at' => ⟨fun cores free => ?_, fun waits => ?_⟩, fun r b head started done => ?_,
    fun core there serves below => ?_⟩
  · refine (bruinStageComplete_turn live head turn at').trans ?_
    have runs : (s.chip.liveCores < 8 || s.chip.stageHeld r st) = false := by
      rw [decide_eq_false (Nat.not_lt.mpr cores)]; exact free
    simp only [runs, Bool.false_eq_true, if_false]
    rfl
  · refine (bruinStageComplete_turn live head turn at').trans ?_
    have stops : (s.chip.liveCores < 8 || s.chip.stageHeld r st) = true := by
      rcases waits with few | held
      · rw [decide_eq_true few]; rfl
      · rw [held, Bool.or_true]
    simp only [stops, if_true]
  · show execBruinShardCommit i s = _
    have ends : (!r.prog.started || decide (r.prog.stage < (r.stages b.updates.toNat).length)) = false := by
      rw [started, decide_eq_false (Nat.not_lt.mpr done)]; rfl
    refine onChip_to live ?_
    simp only [c] at head
    simp only [head, ends, Bool.false_eq_true, if_false]
    cases ((s.chip.inst i).bqueue.drop 1).any fun q => decide (q.obj = r.prog.obj) && decide (q.epoch = r.prog.epoch)
    · rfl
    · rfl
  · show execUpdateCoreUpset core s = _
    have fills : s.chip.filled ⟨9, core⟩ .one = s.chip.bucket ⟨9, core⟩ + 1 := Nat.min_eq_right below.le
    refine onChip_to live ((faultEvent_of_weight there serves rfl (by decide)).trans ?_)
    rw [fills]
    exact if_neg below.ne

end Sys2Proof.Machine

namespace Sys2Proof.Machine

/-- The chip of a next state may be named otherwise. -/
theorem chip_to {s : State} {o : Host.Outcome State Fault Refusal} {d e : Chip} (next : o = .next { s with chip := d })
    (same : d = e) : o = .next { s with chip := e } := same ▸ next

/-! An engine serves a request message (R13, R34, R190, R192 to R194, R198 to R202, R352). -/

/-- What came over the links enters the queue of engine e, each message where its source has room (R194). -/
def Chip.arrive (c : Chip) (e : Nat) (arrived : List (Nat × ReqMsg)) : Chip :=
  arrived.foldl (fun (d : Chip) x => if x.1 < 32 && (d.engine e).room (1 + x.1) then d.enqueue e (1 + x.1) x.2 else d) c

/-- The message that engine e serves leaves its queue, and its instance and source have had their turns (R194, R352). -/
def Chip.takeMsg (c : Chip) (e : Nat) (n : Nat × Nat) (src : Nat) (m : ReqMsg) : Chip :=
  c.setEngine e { c.engine e with
    queue := dropFirst (fun x => decide (x.1 = src ∧ x.2 = m)) (c.engine e).queue, turn := n
    srcTurn := tput (c.engine e).srcTurn n.1 src, gated := false }

/-- After a message the front end sends what it can (R194). -/
def Chip.sendOn (c : Chip) (i : Nat) : Chip := (Chip.pumpFront c.unsent c).ctrLimit i

theorem arrive_eq (c : Chip) (e : Nat) (arrived : List (Nat × ReqMsg)) :
    ∃ es, c.arrive e arrived = { c with engines := es } := by
  refine List.foldlRecOn (motive := fun d : Chip => ∃ es, d = { c with engines := es }) arrived _ ⟨_, rfl⟩ ?_
  rintro _ ⟨es, rfl⟩ x -
  split
  · exact ⟨_, rfl⟩
  · exact ⟨_, rfl⟩

theorem arrive_weight (c : Chip) (e : Nat) (arrived : List (Nat × ReqMsg)) (k : Nat) :
    (c.arrive e arrived).weight k = c.weight k := by
  obtain ⟨_, h⟩ := arrive_eq c e arrived; rw [h]; rfl

theorem takeMsg_arrive_eq (c : Chip) (e : Nat) (arrived : List (Nat × ReqMsg)) (n : Nat × Nat) (src : Nat) (m : ReqMsg) :
    ∃ es, (c.arrive e arrived).takeMsg e n src m = { c with engines := es } := by
  obtain ⟨_, h⟩ := arrive_eq c e arrived; rw [h]; exact ⟨_, rfl⟩

section
variable {s : State} {e : Nat} {arrived : List (Nat × ReqMsg)} (live : s.Live)
include live

/-- An engine with nothing to serve only takes what has come. -/
theorem engineRequestMessage_idle
    (turn : nextTurn ((s.chip.arrive e arrived).engine e).turn (fun i => (((s.chip.arrive e arrived).engine e).nextOf i).isSome)
      (s.chip.weight (if e < 16 then 0 else 1)) = none) :
    exec (.engineRequestMessage e arrived) s = .next { s with chip := s.chip.arrive e arrived } := by
  show execEngineRequestMessage e arrived s = _
  rw [← arrive_weight s.chip e arrived] at turn
  refine onChip_to live ?_
  simp only [Chip.arrive] at turn
  simp only [turn]
  rfl

variable {n : Nat × Nat} {src : Nat} {m : ReqMsg}
  (turn : nextTurn ((s.chip.arrive e arrived).engine e).turn (fun i => (((s.chip.arrive e arrived).engine e).nextOf i).isSome)
    (s.chip.weight (if e < 16 then 0 else 1)) = some n)
  (front : ((s.chip.arrive e arrived).engine e).nextOf n.1 = some (src, m))
include turn front

/-- The message whose turn it is waits where its rows are held (R168, R175), and else is served. -/
theorem engineRequestMessage_turn :
    let d := s.chip.arrive e arrived
    exec (.engineRequestMessage e arrived) s = .next { s with chip :=
      (if d.requestHeld m then d else ((d.takeMsg e n src m).serveRequest e m).sendOn m.inst) } := by
  intro d
  show execEngineRequestMessage e arrived s = _
  rw [← arrive_weight s.chip e arrived] at turn
  refine onChip_to live ?_
  simp only [Chip.arrive] at turn front
  simp only [turn, front]
  rfl

end

section
variable {c : Chip} {e : Nat} {m : ReqMsg}

theorem serveRequest_noTable (none : c.tableOf m.inst m.table = none) :
    c.serveRequest e m = c.answerMsg e m.owner m caNoTable [] := by
  simp only [Chip.serveRequest, none]

variable {t : Table} (table : c.tableOf m.inst m.table = some t)
include table

theorem serveRequest_otherDigest (other : t.digest ≠ m.digest) :
    c.serveRequest e m = c.answerMsg e (c.tableGroup t).2 m caNoTable [] := by
  simp only [Chip.serveRequest, table, if_pos other]

variable (same : t.digest = m.digest)
include same

theorem serveRequest_grad (grad : m.kind = .grad) :
    let bags := (c.engine e).pool m ++ m.grads
    let r := (c.setEngine e ((c.engine e).keep m bags)).holdGrads m.inst e t m bags
    c.serveRequest e m = r.1.answerMsg e (c.tableGroup t).2 m (if r.2 then caBadShape else 0) [] := by
  simp only [Chip.serveRequest, table, if_neg (not_not.mpr same), grad]

theorem serveRequest_stale (serve : m.kind = .serve) (closed : c.snapOpen m.inst e t m.epoch = false) :
    c.serveRequest e m = c.answerMsg e (c.tableGroup t).2 m caStaleSnapshot [] := by
  simp only [Chip.serveRequest, table, if_neg (not_not.mpr same), serve, closed, decide_true, Bool.not_false, Bool.and_self,
    if_true]

/-- A LOOKUP's message is pooled: a training one counts in the sketch too (R198, R205). -/
theorem serveRequest_pooled (kind : m.kind = .lookup ∨ (m.kind = .serve ∧ c.snapOpen m.inst e t m.epoch = true)) :
    let r := c.poolRecords m.inst t m ((c.engine e).pool m)
    let out := if m.last then bagAnswers m r.1 else ([], 0, 0)
    let n := cntAdd r.2 out.2
    let k := if m.kind = .lookup then c.sketchRows m.inst e t m else c
    let k := (k.touchRows m.inst t m).setEngine e ((k.engine e).keep m r.1)
    c.serveRequest e m = (k.countConv m.inst n.1 n.2).answerMsg e (c.tableGroup t).2 m 0 out.1 := by
  rcases kind with lookup | ⟨serve, opened⟩
  · simp only [Chip.serveRequest, table, if_neg (not_not.mpr same), lookup]
    rfl
  · simp only [Chip.serveRequest, table, if_neg (not_not.mpr same), serve, opened]
    rfl

end

/-! The answers and acknowledgements that come back, and an engine's own rows (R19, R30, R36 to R38, R199 to R210, R307). -/

section
variable {s : State} (live : s.Live)
include live

/-- Engine e takes the message whose turn it is and answers it: over what it finds of the table, the digest, the snapshot
and the kind (R13, R34, R190, R198 to R202). -/
theorem engineRequestMessage_answers {e : Nat} {arrived : List (Nat × ReqMsg)} {n : Nat × Nat} {src : Nat} {m : ReqMsg}
    (turn : nextTurn ((s.chip.arrive e arrived).engine e).turn (fun i => (((s.chip.arrive e arrived).engine e).nextOf i).isSome)
      (s.chip.weight (if e < 16 then 0 else 1)) = some n)
    (front : ((s.chip.arrive e arrived).engine e).nextOf n.1 = some (src, m))
    (free : (s.chip.arrive e arrived).requestHeld m = false) {k : Chip}
    (served : ((s.chip.arrive e arrived).takeMsg e n src m).serveRequest e m = k) :
    exec (.engineRequestMessage e arrived) s = .next { s with chip := k.sendOn m.inst } := by
  refine chip_to (engineRequestMessage_turn live turn front) ((if_neg (Bool.eq_false_iff.mp free)).trans ?_)
  rw [served]

/-- An engine's rows are applied in the apply phase while it is on the list of those to apply (R19). -/
theorem rowApply_listed {i e table : Nat} {t : Table} (there : s.chip.tableOf i table = some t)
    (phase : (s.chip.job i).phase = .apply) (listed : (e, table) ∈ (s.chip.job i).toApply) :
    let a := Chip.applyRows i e t ((t.eng e).acc.mergeSort (fun x y => x.row ≤ y.row)) s.chip
    let k := ((a.1.tableOf i table).getD t).eng e
    let rows := a.1.localRows i t e
    let r := Chip.reclassRows i e t ((k.applied ++ sweepRows rows k.cursor (tf t.block 143 128)).drop k.examined) a.1
    let d := if k.stalled then (r.1.tellStall i e table false).sendHot i e t else r.1.sendHot i e t
    let d := d.onEngTab i table e (fun k => { k with
      applied := [], examined := 0, changed := 0, stalled := false,
      cursor := (k.cursor + tf t.block 143 128) % max 1 rows.length })
    let d := (d.onJob i (fun j => { j with toApply := j.toApply.erase (e, table) })).ackBatches i e table
    exec (.rowApply i e table) s = .next { s with chip := (if !a.2 then a.1 else if !r.2 then r.1 else d) } := by
  intro a k rows r d d d
  show execRowApply i e table s = _
  have goes : ((s.chip.job i).phase ≠ .apply || !(s.chip.job i).toApply.contains (e, table)) = false := by
    rw [phase, List.contains_iff_mem.mpr listed]; rfl
  refine onChip_to live ?_
  simp only [there, goes, Bool.false_eq_true, if_false]
  rfl

end

/-- Settles O35: each row, over what its engine, its message or its answer is at. -/
theorem engineEventsComplete : Obligations.EngineEventsComplete := by
  intro s live c upd
  refine ⟨fun e arrived => ?_, fun r sums => ?_, fun r applied => ?_, fun r on stall => ?_, fun r row hot => ?_,
    fun r row t slot there => ?_, fun i table row slot t there => ?_,
    fun i table row slot t e there engine replicated inside length => ?_, fun i e table t there => ?_,
    fun i e table t there phase listed => ?_⟩
  · intro d g turn
    refine ⟨fun idle => engineRequestMessage_idle live idle, fun n src m next front => ⟨fun held => ?_, fun free => ?_⟩⟩
    · exact chip_to (engineRequestMessage_turn live next front) (if_pos held)
    intro h old served
    have answers {k : Chip} (e : h.serveRequest e m = k) : served k :=
      engineRequestMessage_answers live next front free e
    obtain ⟨es, alike⟩ := takeMsg_arrive_eq s.chip e arrived n src m
    have alike : h = { s.chip with engines := es } := alike
    have tables : h.tableOf m.inst m.table = c.tableOf m.inst m.table := by rw [alike]; rfl
    refine ⟨fun missing => answers (serveRequest_noTable (tables.trans missing)), fun t there => ?_⟩
    intro me
    have there := tables.trans there
    have member : (h.tableGroup t).2 = me := by rw [alike]; rfl
    have opens : h.snapOpen m.inst e t m.epoch = c.snapOpen m.inst e t m.epoch := by rw [alike]; rfl
    rw [← member]
    refine ⟨fun other => answers (serveRequest_otherDigest there other),
      fun same serve closed => answers (serveRequest_stale there same serve (opens.trans closed)),
      fun same kind => answers (serveRequest_pooled there same (kind.imp_right (And.imp_right opens.trans))),
      fun same grad => answers (serveRequest_grad there same grad)⟩
  · intro key mine
    have goes {k : Chip} (e : s.chip.takeAnswer r = k) :
        exec (.lookupResultReceived r) s = .next { s with chip := k.ctrLimit r.inst } := by
      show execLookupResultReceived r s = _
      refine onChip_to live ?_
      simp only [sums, e]
    refine ⟨fun none => goes ?_, fun f found => goes ?_⟩
    · unfold Chip.takeAnswer
      simp only [c, mine, key] at none
      simp only [none]
      rfl
    · unfold Chip.takeAnswer
      simp only [c, mine, key] at found
      simp only [found]
      rfl
  · show execLookupResultReceived r s = _
    refine onChip_to live ?_
    simp only [applied]
    rfl
  · show execLookupResultReceived r s = _
    refine onChip_to live ?_
    simp only [stall]
    rfl
  · show execLookupResultReceived r s = _
    refine onChip_to live ?_
    simp only [hot]
    rfl
  · intro waiting
    show (_ → execLookupResultReceived r s = _) ∧ (∀ e rest, _ → execLookupResultReceived r s = _)
    simp only [c, waiting] at there ⊢
    refine ⟨fun none => onChip_to live ?_, fun e rest found => onChip_to live ?_⟩
    · simp only [slot, there, Option.map_some, Option.getD_some, none]
    · simp only [slot, there, Option.map_some, Option.getD_some, found]
  · show execHotRowValueReceived i table row slot s = _
    simp only [c] at there
    refine onChip_to live ?_
    simp only [there]
    rfl
  · show (_ → execReplicaSlotWrite i table row slot s = _) ∧ (_ → _ → execReplicaSlotWrite i table row slot s = _) ∧
      (∀ d, _ → _ → execReplicaSlotWrite i table row slot s = _)
    simp only [c] at there engine ⊢
    have sound : (tMode t.block ≠ 0 || heldRows t.block 1 0 ≤ row || slot.length ≠ rowSlotBytes t.block) = false := by
      simp [replicated, inside, length]
    refine ⟨fun held => onChip_to live ?_, fun free full => onChip_to live ?_, fun d free room => onChip_to live ?_⟩
    · simp only [there, engine, sound, held, Bool.false_eq_true, if_false, if_true]
    · simp only [there, engine, sound, free, full, Bool.false_eq_true, if_false]
    · simp only [there, engine, sound, free, room, Bool.false_eq_true, if_false]
  · show execLogEntriesFree i e table s = _
    simp only [c] at there
    refine onChip_to live ?_
    simp only [there, Option.any_some]
    rfl
  · intro a k rows r
    have goes := rowApply_listed live there phase listed
    refine ⟨fun stops => chip_to goes ?_, fun applied stops => chip_to goes ?_, fun applied reclassed => chip_to goes ?_⟩
    · exact if_pos (by rw [stops]; rfl)
    · exact (if_neg (by rw [applied]; decide)).trans (if_pos (by rw [stops]; rfl))
    · exact (if_neg (by rw [applied]; decide)).trans (if_neg (by rw [reclassed]; decide))

end Sys2Proof.Machine

namespace Sys2Proof.Machine

/-! ALLOC, FREE, WRITE, READ, MIGRATE and PIN (R152 to R168, R177, R412). -/

/-- The arm that a match takes on none, whatever stands in it. ALLOC's goals go through it, and rewrite the search for an
address before that match is evaluated: to compare two forms of it the kernel would run `Chip.freeAddr` on an open term. -/
theorem match_of_none {α β : Type} {o : Option α} (f : α → β) {g : β} (none' : o = none) :
    (match o with | some a => f a | none => g) = g := by
  subst none'; rfl

/-- What an ALLOC comes to, by what the placement of its extents comes to (R153, R163). -/
def allocVerdict (p : Icp) (addr : Nat) (r : Chip × ((List Place × List Nat) ⊕ (Nat × Nat))) : Verdict :=
  match r.2 with
  | .inr (st, t) => .overs st t r.1
  | .inl (ps, rots) => .done addr [] ((r.1.onInst p.who (fun x => { x with
      objs := x.objs ++ [r.1.newObj addr (p.par 8 8) (p.bits 23 20) 0 (p.bits 0 0 = 1) ps], rot := rots })).drew)

@[simp] theorem begun_stashUsed (c : Chip) (op : Byte) (p : Icp) : (c.begun op p).stashUsed = c.stashUsed := by
  obtain ⟨_, _, _, h⟩ := begun_eq c op p; rw [h]; rfl

theorem wakeHub_stashUsed (c : Chip) (k : Nat) : (c.wakeHub k).stashUsed = c.stashUsed := rfl

theorem wakeHub_usedAt (c : Chip) (k tier u : Nat) : (c.wakeHub k).usedAt tier u = c.usedAt tier u := rfl

theorem wakeHub_capOf (c : Chip) (k tier u : Nat) : (c.wakeHub k).capOf tier u = c.capOf tier u := rfl

theorem wakeHub_placeFrom (c : Chip) (k : Nat) (us : List Nat) (tier copies n a : Nat) (l : List Nat) :
    (c.wakeHub k).placeFrom us tier copies n a l = c.placeFrom us tier copies n a l := by
  induction n generalizing a l with
  | zero => rfl
  | succ n ih => simp only [Chip.placeFrom, wakeHub_usedAt, wakeHub_capOf, ih] <;> rfl

theorem wakeHub_placeIn (c : Chip) (k i tier copies n : Nat) :
    (c.wakeHub k).placeIn i tier copies n = c.placeIn i tier copies n := by
  unfold Chip.placeIn
  rw [wakeHub_placeFrom]
  rfl

section
variable {s : State} {p : Icp}

/-- ALLOC of a class other than stash comes to what the placement of its extents comes to (R153, R163). -/
theorem alloc_of_obtain (takes : s.Takes 0x30 p) (fields : allocField p = none) (plain : p.bits 23 20 ≠ 4) {addr : Nat}
    (at' : s.chip.freeAddr p.who (divUp (p.par 8 8) extentBytes) = some addr) {r}
    (placed : ((s.chip.begun 0x30 p).wakeHub 3).obtain p.who (copiesOf (p.bits 23 20)) (divUp (p.par 8 8) extentBytes)
      (allocTiers p).1 (allocTiers p).2 = r) :
    exec (.alloc p) s = .next { s with chip := (s.chip.begun 0x30 p).settle p (allocVerdict p addr r) } := by
  have at' : ((s.chip.begun 0x30 p).wakeHub 3).freeAddr p.who (divUp (p.par 8 8) extentBytes) = some addr :=
    (begun_freeAddr ..).trans at'
  refine icp_verdict takes ?_
  rewrite [fields]
  refine (match_of_none (o := (none : Option Nat)) badParam rfl).trans ?_
  rewrite [at']
  rewrite [placed]
  show (if p.bits 23 20 = 4 then _ else _) = _
  rewrite [if_neg plain]
  rfl

/-- ALLOC of a stash object that the store has room for places its staging in the first tier (R177). -/
theorem alloc_stash (takes : s.Takes 0x30 p) (fields : allocField p = none) (stash : p.bits 23 20 = 4) {addr : Nat}
    (at' : s.chip.freeAddr p.who (divUp (p.par 8 8) extentBytes) = some addr) {ps rot}
    (room : s.chip.stashUsed + p.par 8 8 ≤ 32000000000)
    (placed : s.chip.placeIn p.who 0 1 (p.par 16 8 / extentBytes) = some (ps, rot)) :
    exec (.alloc p) s = .next (s.oked 0x30 p (fun c =>
        let d := c.wakeHub 3
        ((d.setRot p.who 0 rot).onInst p.who (fun x =>
          { x with objs := x.objs ++ [d.newObj addr (p.par 8 8) 4 (p.par 16 8) true ps] })).drew) addr []) := by
  have at' : ((s.chip.begun 0x30 p).wakeHub 3).freeAddr p.who (divUp (p.par 8 8) extentBytes) = some addr :=
    (begun_freeAddr ..).trans at'
  have placed : ((s.chip.begun 0x30 p).wakeHub 3).placeIn p.who 0 1 (p.par 16 8 / extentBytes) = some (ps, rot) :=
    (wakeHub_placeIn ..).trans ((begun_placeIn ..).trans placed)
  have room : ¬ 32000000000 < ((s.chip.begun 0x30 p).wakeHub 3).stashUsed + p.par 8 8 := by
    rw [wakeHub_stashUsed, begun_stashUsed]
    exact Nat.not_lt.mpr room
  refine icp_done takes ?_
  rewrite [fields]
  refine (match_of_none (o := (none : Option Nat)) badParam rfl).trans ?_
  rewrite [at', placed]
  show (if p.bits 23 20 = 4 then _ else _) = _
  rewrite [if_pos stash, if_neg room]
  rfl


/-- An inline transfer is at most 4,096 bytes, and one of the host region ends inside it (R50, R158, R412). -/
def rwPlaced (p : Icp) : Prop :=
  p.par 12 4 = 0 ∧ p.par 8 4 ≤ 4096 ∨ (p.par 12 4 = 1 ∧ p.par 16 8 + p.par 8 4 ≤ hostTop ∨ p.par 12 4 = 2)

variable {c : Chip}

/-- Of a transfer with sound fields only the range, and for a WRITE a dense object, can be refused (R23, R158). -/
theorem rwFault_of_placed (some' : 0 < p.par 8 4) (placed : rwPlaced p) (write : Bool) :
    c.rwFault p write = match c.check p.who (p.par 0 8) (p.par 8 4) with
      | .fault k => some (stAddrFault, k)
      | .ok o => if write && o.dense && c.jobRuns p.who then some (stWriteProtected, 0) else none := by
  have bytes : ¬p.par 8 4 = 0 := some'.ne'
  unfold rwPlaced at placed
  have known : ¬2 < p.par 12 4 := by omega
  have inline : (p.par 12 4 = 0 && 4096 < p.par 8 4) = false := by
    rw [Bool.and_eq_false_iff, decide_eq_false_iff_not, decide_eq_false_iff_not]; omega
  have inside : (p.par 12 4 = 1 && hostTop < p.par 16 8 + p.par 8 4) = false := by
    rw [Bool.and_eq_false_iff, decide_eq_false_iff_not, decide_eq_false_iff_not]; omega
  unfold Chip.rwFault
  simp only [if_neg bytes, if_neg known, inline, inside, Bool.false_eq_true, if_false] <;> rfl

variable {o o' : Obj} (some' : 0 < p.par 8 4) (placed : rwPlaced p)
  (inside : s.chip.check p.who (p.par 0 8) (p.par 8 4) = .ok o)
include some' placed inside

/-- A WRITE to a dense object while a job runs is refused (R23). -/
theorem write_protected (takes : s.Takes 0x32 p) (dense : o.dense = true) (runs : s.chip.jobRuns p.who = true) :
    exec (.write p) s = .next (s.refusedWith 0x32 p stWriteProtected 0) := by
  have fault : (s.chip.begun 0x32 p).rwFault p true = some (stWriteProtected, 0) := by
    rw [rwFault_of_placed some' placed, begun_check, begun_jobRuns, inside]
    simp [dense, runs]
  show execWrite p s = _
  refine icp_refuse takes ?_
  simp only [fault]

/-- Any other WRITE inside an object is carried out: by the mover, or at once, or once what it waits for is over. -/
theorem write_of_inside (takes : s.Takes 0x32 p) (free : o.dense = false ∨ s.chip.jobRuns p.who = false)
    (at' : s.chip.objAt p.who (p.par 0 8) = some o') :
    exec (.write p) s = .next { s with chip := (s.chip.begun 0x32 p).settle p (
      if p.par 12 4 ≠ 0 then .later ((s.chip.begun 0x32 p).toMover p)
      else if s.chip.cmdHeld p.who o' (p.par 0 8) (p.par 8 4) true then .wait
      else .done 0 [] ((s.chip.begun 0x32 p).landModel p.who (p.par 0 8) (cut p.params 16 (p.par 8 4)))) } := by
  have sound : (s.chip.begun 0x32 p).rwFault p true = none := by
    rw [rwFault_of_placed some' placed, begun_check, begun_jobRuns, inside]
    rcases free with h | h
    · simp [h]
    · simp [h]
  show execWrite p s = _
  refine icp_verdict takes ?_
  simp only [sound, begun_objAt, at', begun_cmdHeld]

/-- A READ inside an object is carried out: by the mover, or at once, or once what it waits for is over. -/
theorem read_of_inside (takes : s.Takes 0x33 p) (at' : s.chip.objAt p.who (p.par 0 8) = some o') :
    exec (.read p) s = .next { s with chip := (s.chip.begun 0x33 p).settle p (
      if p.par 12 4 ≠ 0 then .later ((s.chip.begun 0x33 p).toMover p)
      else if s.chip.cmdHeld p.who o' (p.par 0 8) (p.par 8 4) false then .wait
      else .done 0 (s.chip.frontRead p.who o' (p.par 0 8) (p.par 8 4) ++
          List.replicate (roundUp (p.par 8 4) 4 - p.par 8 4) 0)
        ((s.chip.begun 0x33 p).readMarks p.who o' (p.par 0 8) (p.par 8 4))) } := by
  have sound : (s.chip.begun 0x33 p).rwFault p false = none := by
    rw [rwFault_of_placed some' placed, begun_check, inside]
    rfl
  show execRead p s = _
  refine icp_verdict takes ?_
  simp only [sound, begun_objAt, at', begun_cmdHeld, begun_frontRead]

end

section
variable {s : State} {p : Icp}

/-- FREE of an object that is no table unmaps it, or finds it moving or in use by a job (R154). -/
theorem free_of_object {o : Obj} (takes : s.Takes 0x31 p) (start : s.chip.objStart p.who (p.par 0 8) = some o)
    (plain : o.table = none) :
    exec (.free p) s = .next { s with chip := (s.chip.begun 0x31 p).settle p (
      if ((o.cls = 1 || o.cls = 2 || o.cls = 3) && s.chip.jobRuns p.who) || o.moving then (s.chip.begun 0x31 p).badState p
      else .done 0 [] (((s.chip.begun 0x31 p).wakeHub 3).unmap p.who o)) } := by
  show execFree p s = _
  refine icp_verdict takes ?_
  simp only [begun_objStart, start, plain, begun_jobRuns, Option.isSome_none, Bool.false_eq_true, if_false]

/-- MIGRATE of whole extents that are not moving goes to its first extent (R167). -/
theorem migrate_of_inside {o : Obj} (takes : s.Takes 0x34 p) (aligned : p.par 0 8 % extentBytes = 0)
    (some' : p.par 8 8 ≠ 0) (whole : p.par 8 8 % extentBytes = 0) (tier : p.par 16 1 ≤ 2)
    (inside : s.chip.inExtents p.who (p.par 0 8) (p.par 8 8) = .inl o) (plain : o.cls ≠ 4)
    (table : o.table = none ∨ p.par 16 1 < 2) (still : o.moving = false) :
    let ks := (List.range (p.par 8 8 / extentBytes)).map ((p.par 0 8 - o.addr) / extentBytes + ·)
    exec (.migrate p) s = .next (s.went 0x34 p (fun c =>
      ((c.onObj p.who o.addr (fun o =>
        { o with migration := some { target := p.par 16 1, todo := ks, cmd := some (c.refOf p) } })).reply
        p.queue p.tag stPending 0 0 []).nextMove p.who o.addr ks)) := by
  have sound : (p.par 8 8 = 0 || p.par 8 8 % extentBytes ≠ 0) = false := by simp [some', whole]
  have movable : (o.table.isSome && p.par 16 1 = 2) = false := by
    rcases table with none | device
    · rw [none]; rfl
    · rw [decide_eq_false device.ne, Bool.and_false]
  show execMigrate p s = _
  refine icp_later takes ?_
  simp only [if_neg (not_not.mpr aligned), sound, if_neg (Nat.not_lt.mpr tier), begun_inExtents, inside, if_neg plain,
    movable, still, Bool.false_eq_true, if_false]

/-- PIN sets the pins that its value says, of an object whose pins are not its own (R166). -/
theorem setPin_of_inside {c : Chip} {o : Obj} (inside : c.inExtents p.who (p.par 0 8) (p.par 8 8) = .inl o) {v : Bool}
    (value : p.par 16 1 = if v then 1 else 0) :
    c.setPin p = .done 0 [] (if o.cls = 4 then c else
      c.onObj p.who o.addr (fun o => { o with extents := o.extents.mapIdx (fun k e =>
        if meets (p.par 0 8) (p.par 8 8) (o.addr + k * extentBytes) extentBytes then { e with pinned := v } else e) })) := by
  have known : ¬1 < p.par 16 1 := by rw [value]; cases v <;> decide
  have pinned : decide (p.par 16 1 = 1) = v := by rw [value]; cases v <;> rfl
  simp only [Chip.setPin, if_neg known, inside, pinned]
  split
  · rfl
  · rfl

end

/-- Settles O15: each command over its ranges, and what its object, its extents and the job are at. -/
theorem memoryCommandsComplete : Obligations.MemoryCommandsComplete := by
  intro s p c i a n
  refine ⟨fun takes fields plain addr at' => ?_, fun takes fields stash addr ps rot at' room placed =>
      alloc_stash takes fields stash at' room placed, fun o takes start plain => ⟨fun still unused => ?_, fun busy => ?_⟩,
    fun o takes some' inline short inside => ?_, fun o o' takes some' far inside at' free => ?_,
    fun o o' takes some' inside at' => ⟨fun inline short unheld => ?_, fun inline short held => ?_, fun far => ?_⟩,
    fun off takes some' inline short outside => ?_,
    fun o takes aligned some' whole tier inside plain table still => ?_, fun o takes inside => ?_⟩
  · intro r
    refine ⟨fun ps rots placed => ?_, fun st t full => ?_⟩
    · refine (alloc_of_obtain takes fields plain at' rfl).trans ?_
      rw [allocVerdict, placed]
      rfl
    · refine (alloc_of_obtain takes fields plain at' rfl).trans ?_
      rw [allocVerdict, full]
      rfl
  · have goes : (((o.cls = 1 || o.cls = 2 || o.cls = 3) && s.chip.jobRuns p.who) || o.moving) = false := by
      rw [still, Bool.or_false]
      rcases unused with cls | cls | idle
      · simp [cls]
      · simp [cls]
      · rw [show s.chip.jobRuns p.who = false from idle, Bool.and_false]
    refine (free_of_object takes start plain).trans ?_
    rw [goes]
    rfl
  · have stays : (((o.cls = 1 || o.cls = 2 || o.cls = 3) && s.chip.jobRuns p.who) || o.moving) = true := by
      rcases busy with moving | ⟨cls, runs⟩
      · rw [moving, Bool.or_true]
      · rw [show s.chip.jobRuns p.who = true from runs]
        simp [or_assoc, cls]
    refine (free_of_object takes start plain).trans ?_
    rw [stays]
    rfl
  · have placed : rwPlaced p := .inl ⟨inline, short⟩
    refine ⟨write_protected some' placed inside takes, fun free o' at' unheld => ?_, fun free o' at' held => ?_⟩
    · refine (write_of_inside some' placed inside takes free at').trans ?_
      rw [if_neg (not_not.mpr inline), if_neg (Bool.eq_false_iff.mp unheld)]
      rfl
    · refine (write_of_inside some' placed inside takes free at').trans ?_
      rw [if_neg (not_not.mpr inline), if_pos held]
      rfl
  · refine (write_of_inside some' (.inr far) inside takes free at').trans ?_
    rw [if_pos (show p.par 12 4 ≠ 0 by omega)]
    rfl
  · refine (read_of_inside some' (.inl ⟨inline, short⟩) inside takes at').trans ?_
    rw [if_neg (not_not.mpr inline), if_neg (Bool.eq_false_iff.mp unheld)]
    rfl
  · refine (read_of_inside some' (.inl ⟨inline, short⟩) inside takes at').trans ?_
    rw [if_neg (not_not.mpr inline), if_pos held]
    rfl
  · refine (read_of_inside some' (.inr far) inside takes at').trans ?_
    rw [if_pos (show p.par 12 4 ≠ 0 by omega)]
    rfl
  · have fault : (s.chip.begun 0x33 p).rwFault p false = some (stAddrFault, off) := by
      rw [rwFault_of_placed some' (.inl ⟨inline, short⟩), begun_check, outside]
    show execRead p s = _
    refine icp_refuse takes ?_
    simp only [fault]
  · exact migrate_of_inside takes aligned some' whole tier inside plain table still
  · have inside : (s.chip.begun 0x35 p).inExtents p.who (p.par 0 8) (p.par 8 8) = .inl o := (begun_inExtents ..).trans inside
    exact ⟨fun on => icp_done takes (setPin_of_inside inside (v := true) on),
      fun off => icp_done takes (setPin_of_inside inside (v := false) off)⟩

end Sys2Proof.Machine
